-- ==== Sys2Proof/Word.lean ====
section
/-! DEFINITION. The bit-level words of the NT-612: what the manual itself numbers by bits. Every other quantity
(a width in minims, a font number, a line number) is a number and is held as `Nat` or `Int`. -/

namespace Sys2Proof

/-- One byte of a frame body or of a font block (R94, R178). -/
abbrev Byte := BitVec 8

/-- One 16-bit code unit of galley text (R25, R178). -/
abbrev CodeWord := BitVec 16

/-- One dot row of the band ring: 1024 dots, dot 0 (the leftmost, R154) in bit 0. -/
abbrev DotRow := BitVec 1024

end Sys2Proof
end

