-- ==== Sys2Proof/Config.lean ====
section
/-! DEFINITION. What the part fixes once: the capacities and times its rules name, and the values the manual leaves
open as constants WITHOUT a body (free values: nothing can be proved of what they are). -/

namespace Sys2Proof.Config

/-- Entries of the posting watch list (R1). -/
def watchCapacity : Nat := 8
/-- Records of the galley table (R7). -/
def tableCapacity : Nat := 4
/-- Segment slots of the text store (R12). -/
def textSlots : Nat := 256
/-- Code units of one segment slot (R7, R12). -/
def slotUnits : Nat := 32
/-- The reserve tested at a grant to a galley that is not the head (R13). -/
def creditReserve : Nat := 32
/-- Records of the set-line queue (R83). -/
def queueCapacity : Nat := 32
/-- Entries of the exception dictionary (R75). -/
def dictionaryCapacity : Nat := 400
/-- Entries of the font directory (R95). -/
def directoryEntries : Nat := 24
/-- Entries of the want list (R102). -/
def wantCapacity : Nat := 16
/-- Entries of the cartridge catalog (R109). -/
def catalogCapacity : Nat := 16
/-- Descriptors of the transmit queue (R171). -/
def transmitCapacity : Nat := 16
/-- Dot rows of the band ring (R154). -/
def ringRows : Nat := 192
/-- Bytes of one font block (R94). -/
def blockBytes : Nat := 256
/-- Rows of one proof band (R156). -/
def bandRows : Nat := 12
/-- Take-up capacity of every take-up cassette, in minims (R141). -/
def takeUpCapacity : Nat := 2592000
/-- Film low is a supply remaining below this many minims (R2, R150). -/
def filmLow : Nat := 86400
/-- The lead-out of a cut, in minims (R130, R137, R149). -/
def leadOut : Nat := 1440
/-- The longest forward stroke, in minims (R145). -/
def strokeLength : Nat := 40
/-- Characters of a line or a word (R44, R49). -/
def maxCharacters : Nat := 160
/-- Distinct fonts of a line or a word (R44, R49). -/
def maxFonts : Nat := 8
/-- Sums of ADVANCE and BACK are held at this many minims (R37). -/
def maxPendingMove : Nat := 28800
/-- Letters a learn word holds (R39). -/
def maxLearnLetters : Nat := 24
/-- Counters and stamps do not pass this value (R23, R75, R98). -/
def maxCount : Nat := 65535
/-- Bytes of the longest frame body (R167). -/
def maxBody : Nat := 259
/-- Recessive bit times that make a contention opportunity, or end a resynchronisation (R167, R169). -/
def idleBits : Nat := 12

/-! Times, in milliseconds. -/

/-- The quiet period (R177). -/
def quietPeriod : Nat := 250
/-- The expiry of a watch entry (R1, R6). -/
def watchExpiry : Nat := 2000
/-- The text timer (R17). -/
def textTimer : Nat := 5000
/-- The asking wait (R113). -/
def askingWait : Nat := 120
/-- The stall timer (R117). -/
def stallTimer : Nat := 200
/-- The TAKE wait (R122). -/
def takeWait : Nat := 100
/-- The retry wait (R106). -/
def retryWait : Nat := 10000
/-- The deferral limit (R107). -/
def deferralLimit : Nat := 10000
/-- The catalog read (R109). -/
def catalogRead : Nat := 300
/-- The read of one cartridge block (R111). -/
def cartridgeRead : Nat := 5
/-- The warm-up (R127). -/
def warmUp : Nat := 2000
/-- The standby timer (R127). -/
def standby : Nat := 600000
/-- One step of the turret (R128). -/
def turretStep : Nat := 40
/-- The hold-off after a trip (R147). -/
def holdOff : Nat := 10
/-- The writing of one band row (R156). -/
def rowWrite : Nat := 1
/-- The idle timer of the printer (R161). -/
def printerIdle : Nat := 20000
/-- Settling (R161). -/
def settling : Nat := 500
/-- Waking (R162). -/
def waking : Nat := 300
/-- The abandonment timer (R164). -/
def abandonment : Nat := 60000

/-! Free values. -/

/-- FREE VALUE (log entry 5): the five dots of one row (1 to 7) of the built-in glyph of a code 33 to 126, dot 0 of
the cell in bit 0. R157: the patterns are fixed data of the part that the manual does not describe. -/
opaque glyphRow : Nat → Nat → BitVec 5

/-- FREE VALUE (log entry 6): the 5-bit destination of a PROOF_REFUSED whose galley id names a posting station that
no destination field can hold (above 31). R21 addresses the report to that station and states no value. -/
opaque unaddressablePoster : Nat → BitVec 5

end Sys2Proof.Config
end

