-- ==== Sys2Proof/Syntax.lean ====
section
/-! DEFINITION. The commands of the NT-612: one constructor of `Instr` for each row of spec/opcode_table.json, in the
table's order, with the operands the row's event brings from outside the part (the fields of a heard frame, the levels
at power-on, the samples of the current sense, the data a cartridge delivers). -/

namespace Sys2Proof

/-- A galley id: posting station and serial (About This Manual, Identifiers). -/
structure GalleyId where
  poster : Nat
  serial : Nat
deriving DecidableEq, Repr

/-- What a block is told of a heard frame beside its body: the sender's station number, recovered from the complement
in the arbitration field, and the destination (R176). -/
structure Header where
  sender : Nat
  dest : Nat
deriving DecidableEq, Repr

/-- The body of a GALLEY POSTED, field by field (R178). Coded fields keep the byte read; R1 judges it. The font count
byte is the length of `fonts`. -/
structure Posting where
  id : GalleyId
  priority : Nat
  mode : Nat
  firstLine : Nat
  lastLine : Nat
  stock : Nat
  policy : Nat
  length : Nat
  fonts : List Nat
deriving DecidableEq, Repr

/-- The fifteen frame kinds (section 11.4). -/
inductive FrameKind where
  | galleyPosted | galleyClaim | galleyCancel | textSegment | textCredit | galleyReport | proofWanted
  | fontWanted | fontOffer | fontTake | fontBlock | wordLearned | stationHalt | stationRelease | stationReset
deriving DecidableEq, Repr

/-- A frame as a receiver reads it, field by field, stuffed bits removed (R167). -/
structure Frame where
  cls : BitVec 2
  complement : BitVec 5
  kind : BitVec 5
  dest : BitVec 5
  length : BitVec 9
  body : List Byte
  check : BitVec 16
deriving DecidableEq, Repr

/-- What a receiver has made of the bits it has read (R167). -/
inductive Reception where
  /-- The last check bit has not been read. -/
  | unfinished
  /-- A stuffing violation was met, or a body length field above 259. -/
  | discarded
  /-- The frame, read to its last check bit. -/
  | whole (f : Frame)
deriving DecidableEq, Repr

/-- One font of a cartridge's list (R109). -/
structure CatalogEntry where
  font : Nat
  total : Nat
  lendable : Bool
deriving DecidableEq, Repr

/-- The levels and sensors sampled when the power-on input is released (R179, R112, R153, R166). -/
structure PowerInputs where
  /-- The five station number straps, binary. -/
  station : Nat
  /-- The arbitration mode strap: high is PRIORITY. -/
  priorityStrap : Bool
  /-- The store size strap: high is 1024 blocks. -/
  largeStore : Bool
  /-- A cartridge is sensed. -/
  cartridge : Bool
  /-- The supply cassette's length code and stock code, if one is mounted. -/
  supply : Option (Nat × Nat)
  /-- A take-up cassette is mounted. -/
  takeUp : Bool
  /-- The paper sensor reports paper. -/
  paper : Bool
deriving DecidableEq, Repr

/-- The commands. A frame command is the event that a whole frame of that kind with a correct check has been read;
a command of a setting unit is the composer's taking of that unit; a command of a timer is the timer's expiry. -/
inductive Instr where
  | powerOn (p : PowerInputs)
  | quietPeriodEnd
  /-- `other`: another party begins a frame at this opportunity. -/
  | contentionOpportunity (other : Bool)
  | frameLeftLine
  /-- `bits`: what the receiver has read of the frame, from its start bit on (a dominant bit is `false`). -/
  | stuffingViolation (bits : List Bool)
  /-- `bits`: what the receiver has read, to the frame's last check bit, stuffed bits included; `inQuiet`: the frame's start bit
  came during the quiet period. -/
  | frameDiscarded (bits : List Bool) (inQuiet : Bool)
  | galleyPosted (h : Header) (p : Posting)
  | claimDelayExpiry (id : GalleyId)
  | watchExpiryTimer (id : GalleyId)
  | galleyClaim (h : Header) (id : GalleyId)
  | galleyCancel (h : Header) (id : GalleyId)
  | textSegment (h : Header) (id : GalleyId) (number : Nat) (units : List CodeWord)
  | textCredit (h : Header) (id : GalleyId) (limit : Nat)
  | galleyReport (h : Header) (id : GalleyId) (event reason : Nat) (counters : List Nat)
  | proofWanted (h : Header) (id : GalleyId) (first last : Nat)
  | textTimeout
  | composerTakesHead
  | characterUnit (code : Nat)
  | ignoredUnit (u : CodeWord)
  | font (p : Nat)
  | size (p : Nat)
  | measure (p : Nat)
  | lead (p : Nat)
  | quad (p : Nat)
  | fixedSpace (p : Nat)
  | endLine
  | endPara
  | indent (p : Nat)
  | offset (p : Nat)
  | hyphenate (p : Nat)
  | ladder (p : Nat)
  | letterspace (p : Nat)
  | track (p : Nat)
  | softHyphen
  | reverse (p : Nat)
  | advance (p : Nat)
  | back (p : Nat)
  | cut
  | learn (p : Nat)
  | endLearn
  | density (p : Nat)
  | endGalley
  | wordLearned (h : Header) (body : List Byte)
  | inboundTakesEntry
  | cartridgeBlockRead (data : List Byte)
  | retryWait (font : Nat)
  | deferralLimit (font : Nat)
  | cartridgeInsertion
  | catalogRead (fonts : List CatalogEntry)
  | cartridgeRemoval
  | askingWait
  | fontWanted (h : Header) (font : Nat)
  | offerDelay
  | fontOffer (h : Header) (font asker total : Nat)
  | fontTake (h : Header) (font lender first : Nat)
  | takeWait
  | fontBlock (h : Header) (font index : Nat) (data : List Byte)
  | stallTimer
  | stationHalt (h : Header)
  | stationRelease (h : Header)
  | stationReset (h : Header)
  | warmUpTimer
  | standbyTimer
  | exposureStart
  | turretMoveEnd
  | backgroundPass
  | flashDone
  /-- `samples`: the current-sense samples of the stroke, in order; `true` is over limit. -/
  | strokeCompleted (samples : List Bool)
  | strokeTrip (samples : List Bool)
  | holdOff
  | reverseDone
  | knifeDone
  /-- The supply cassette's length code and stock code as sensed. -/
  | supplyInsertion (lengthCode stockCode : Nat)
  | supplyRemoval
  | takeUpInsertion
  | takeUpRemoval
  | rasterizeStart
  | rowWritten
  | printStart
  | rowPrinted
  | idleTimer
  | settlingTimer
  | wakingTimer
  | paperOut
  | paperIn
  | abandonmentTimer
  /-- `read`: the seven bits of the arbitration field as the line carried them (a recessive bit is 1). -/
  | endOfArbitration (read : BitVec 7)
deriving DecidableEq, Repr

end Sys2Proof
end

