-- ==== Sys2Proof/Decode.lean ====
section
/-! DEFINITION. From bits to commands and back: the code unit of galley text, the frames of the shop line with their
bodies, check and stuffing, and `decodeTableWord`. Nothing here reads or changes the state. -/

namespace Sys2Proof

/-! ## Numbers and bits -/

/-- The `width` low bits of `n`, most significant first, as every field is sent (R167). -/
def natBits (width n : Nat) : List Bool :=
  (List.range width).map fun i => n.testBit (width - 1 - i)

/-- The number a list of bits spells, most significant first. -/
def bitsNat (bits : List Bool) : Nat :=
  bits.foldl (fun n b => 2 * n + b.toNat) 0

/-- One byte of a field. -/
def byteOf (n : Nat) : Byte := BitVec.ofNat 8 n

/-- A two-byte field, most significant byte first (R178). -/
def twoBytes (n : Nat) : List Byte := [byteOf (n / 256), byteOf n]

/-- The value of a two-byte field (R178). -/
def fieldOf (high low : Byte) : Nat := 256 * high.toNat + low.toNat

/-- The values of successive two-byte fields. -/
def fieldsOf : List Byte → List Nat
  | a :: b :: rest => fieldOf a b :: fieldsOf rest
  | _ => []

/-! ## The code unit (R25, R178) -/

/-- The command number of a command unit. -/
def commandNumber (u : CodeWord) : Nat := (u.extractLsb' 10 5).toNat

/-- The parameter of a command unit. -/
def commandParameter (u : CodeWord) : Nat := (u.extractLsb' 0 10).toNat

/-- A code unit as the composer reads it: the command of its row, or `ignoredUnit` for a unit that R25, R26 or the
command's own rule has the composer ignore. -/
def readUnit (u : CodeWord) : Instr :=
  if u.msb then
    let p := commandParameter u
    match commandNumber u with
    | 0 => if p = 0 then .ignoredUnit u else .font p
    | 1 => .size p
    | 2 => .measure p
    | 3 => .lead p
    | 4 => if p > 3 then .ignoredUnit u else .quad p
    | 5 => if p = 0 ∨ p > 3 then .ignoredUnit u else .fixedSpace p
    | 6 => .endLine
    | 7 => .endPara
    | 8 => .indent p
    | 9 => .offset p
    | 10 => .hyphenate p
    | 11 => .ladder p
    | 12 => .letterspace p
    | 13 => .track p
    | 14 => .softHyphen
    | 15 => .reverse p
    | 16 => .advance p
    | 17 => .back p
    | 18 => .cut
    | 19 => .learn p
    | 20 => .endLearn
    | 21 => .density p
    | 22 => .endGalley
    | _ => .ignoredUnit u
  else if u.toNat < 32 ∨ 255 < u.toNat then .ignoredUnit u
  else .characterUnit u.toNat

/-- The character unit of a code (R178). -/
def characterWord (code : Nat) : CodeWord := BitVec.ofNat 16 code

/-- The command unit of a command number and a parameter (R178). -/
def commandWord (number p : Nat) : CodeWord :=
  (1 : BitVec 1) ++ BitVec.ofNat 5 number ++ BitVec.ofNat 10 p

/-- The code unit that spells a setting unit, with parameter 0 where the parameter does not matter; none for a
command that is no unit of galley text. -/
def unitWord : Instr → Option CodeWord
  | .characterUnit code => some (characterWord code)
  | .ignoredUnit u => some u
  | .font p => some (commandWord 0 p)
  | .size p => some (commandWord 1 p)
  | .measure p => some (commandWord 2 p)
  | .lead p => some (commandWord 3 p)
  | .quad p => some (commandWord 4 p)
  | .fixedSpace p => some (commandWord 5 p)
  | .endLine => some (commandWord 6 0)
  | .endPara => some (commandWord 7 0)
  | .indent p => some (commandWord 8 p)
  | .offset p => some (commandWord 9 p)
  | .hyphenate p => some (commandWord 10 p)
  | .ladder p => some (commandWord 11 p)
  | .letterspace p => some (commandWord 12 p)
  | .track p => some (commandWord 13 p)
  | .softHyphen => some (commandWord 14 0)
  | .reverse p => some (commandWord 15 p)
  | .advance p => some (commandWord 16 p)
  | .back p => some (commandWord 17 p)
  | .cut => some (commandWord 18 0)
  | .learn p => some (commandWord 19 p)
  | .endLearn => some (commandWord 20 0)
  | .density p => some (commandWord 21 p)
  | .endGalley => some (commandWord 22 0)
  | _ => none

/-! ## Frame kinds (section 11.4) -/

/-- The kind code. -/
def FrameKind.code : FrameKind → Nat
  | .galleyPosted => 1
  | .galleyClaim => 2
  | .galleyCancel => 3
  | .textSegment => 4
  | .textCredit => 5
  | .galleyReport => 6
  | .proofWanted => 7
  | .fontWanted => 8
  | .fontOffer => 9
  | .fontTake => 10
  | .fontBlock => 11
  | .wordLearned => 12
  | .stationHalt => 13
  | .stationRelease => 14
  | .stationReset => 15

/-- The kind of a code; none for 0 and 16 to 31 (R175, case 3). -/
def FrameKind.ofCode : Nat → Option FrameKind
  | 1 => some .galleyPosted
  | 2 => some .galleyClaim
  | 3 => some .galleyCancel
  | 4 => some .textSegment
  | 5 => some .textCredit
  | 6 => some .galleyReport
  | 7 => some .proofWanted
  | 8 => some .fontWanted
  | 9 => some .fontOffer
  | 10 => some .fontTake
  | 11 => some .fontBlock
  | 12 => some .wordLearned
  | 13 => some .stationHalt
  | 14 => some .stationRelease
  | 15 => some .stationReset
  | _ => none

/-- The class of a kind. -/
def FrameKind.cls : FrameKind → Nat
  | .galleyPosted => 2
  | .galleyClaim => 1
  | .galleyCancel => 2
  | .textSegment => 3
  | .textCredit => 1
  | .galleyReport => 2
  | .proofWanted => 2
  | .fontWanted => 2
  | .fontOffer => 1
  | .fontTake => 1
  | .fontBlock => 3
  | .wordLearned => 2
  | .stationHalt => 0
  | .stationRelease => 0
  | .stationReset => 0

/-- Broadcast kinds are addressed to every station whatever their destination (R176). -/
def FrameKind.broadcast : FrameKind → Bool
  | .galleyPosted | .galleyClaim | .fontWanted | .fontOffer | .fontTake | .wordLearned => true
  | _ => false

/-- Kinds that destination 0 addresses to every station, beside the broadcast kinds (R176). -/
def FrameKind.toAll : FrameKind → Bool
  | .galleyCancel | .stationHalt | .stationRelease | .stationReset => true
  | _ => false

/-- A report frame of R173. -/
def FrameKind.isReport : FrameKind → Bool
  | .galleyReport | .wordLearned => true
  | _ => false

/-! ## Bodies (R178) -/

def idBytes (id : GalleyId) : List Byte := [byteOf id.poster, byteOf id.serial]

def claimBody (id : GalleyId) : List Byte := idBytes id

def creditBody (id : GalleyId) (limit : Nat) : List Byte := idBytes id ++ twoBytes limit

def reportBody (id : GalleyId) (event reason : Nat) (counters : List Nat) : List Byte :=
  idBytes id ++ [byteOf event, byteOf reason] ++ counters.flatMap twoBytes

def fontWantedBody (font : Nat) : List Byte := twoBytes font

def fontOfferBody (font asker total : Nat) : List Byte := twoBytes font ++ [byteOf asker, byteOf total]

def fontTakeBody (font lender first : Nat) : List Byte := twoBytes font ++ [byteOf lender, byteOf first]

def fontBlockBody (font index : Nat) (data : List Byte) : List Byte := twoBytes font ++ [byteOf index] ++ data

/-- WORD LEARNED: kind, length, letters, point count, points (R77, R178). -/
def wordLearnedBody (never : Bool) (letters points : List Nat) : List Byte :=
  [byteOf never.toNat, byteOf letters.length] ++ letters.map byteOf ++ [byteOf points.length] ++ points.map byteOf

/-- The kind, header and body of the frame a frame command stands for; none for a command that is no heard frame. -/
def bodyOf : Instr → Option (FrameKind × Header × List Byte)
  | .galleyPosted h p =>
    some (.galleyPosted, h,
      idBytes p.id ++ [byteOf p.priority, byteOf p.mode] ++ twoBytes p.firstLine ++ twoBytes p.lastLine ++
        [byteOf p.stock, byteOf p.policy] ++ twoBytes p.length ++ [byteOf p.fonts.length] ++ p.fonts.flatMap twoBytes)
  | .galleyClaim h id => some (.galleyClaim, h, claimBody id)
  | .galleyCancel h id => some (.galleyCancel, h, claimBody id)
  | .textSegment h id number units =>
    some (.textSegment, h,
      idBytes id ++ twoBytes number ++ [byteOf units.length] ++ units.flatMap fun u => twoBytes u.toNat)
  | .textCredit h id limit => some (.textCredit, h, creditBody id limit)
  | .galleyReport h id event reason counters => some (.galleyReport, h, reportBody id event reason counters)
  | .proofWanted h id first last => some (.proofWanted, h, idBytes id ++ twoBytes first ++ twoBytes last)
  | .fontWanted h font => some (.fontWanted, h, fontWantedBody font)
  | .fontOffer h font asker total => some (.fontOffer, h, fontOfferBody font asker total)
  | .fontTake h font lender first => some (.fontTake, h, fontTakeBody font lender first)
  | .fontBlock h font index data => some (.fontBlock, h, fontBlockBody font index data)
  | .wordLearned h body => some (.wordLearned, h, body)
  | .stationHalt h => some (.stationHalt, h, [])
  | .stationRelease h => some (.stationRelease, h, [])
  | .stationReset h => some (.stationReset, h, [])
  | _ => none

/-- The galley id in the first two bytes of a body. -/
def idOf (poster serial : Byte) : GalleyId := { poster := poster.toNat, serial := serial.toNat }

/-- The command of a body of a kind; none where the body's length is not the one the table of section 11.4 gives
(R175, case 5). -/
def readBody (kind : FrameKind) (h : Header) (body : List Byte) : Option Instr :=
  match kind, body with
  | .galleyPosted, a :: b :: priority :: mode :: f :: f' :: l :: l' :: stock :: policy :: t :: t' :: n :: fonts =>
    if fonts.length = 2 * n.toNat then
      some (.galleyPosted h
        { id := idOf a b, priority := priority.toNat, mode := mode.toNat, firstLine := fieldOf f f',
          lastLine := fieldOf l l', stock := stock.toNat, policy := policy.toNat, length := fieldOf t t',
          fonts := fieldsOf fonts })
    else none
  | .galleyClaim, [a, b] => some (.galleyClaim h (idOf a b))
  | .galleyCancel, [a, b] => some (.galleyCancel h (idOf a b))
  | .textSegment, a :: b :: s :: s' :: c :: units =>
    if units.length = 2 * c.toNat then
      some (.textSegment h (idOf a b) (fieldOf s s') ((fieldsOf units).map (BitVec.ofNat 16)))
    else none
  | .textCredit, [a, b, l, l'] => some (.textCredit h (idOf a b) (fieldOf l l'))
  | .galleyReport, a :: b :: event :: reason :: counters =>
    if counters.length = 22 then
      some (.galleyReport h (idOf a b) event.toNat reason.toNat (fieldsOf counters))
    else none
  | .proofWanted, [a, b, f, f', l, l'] => some (.proofWanted h (idOf a b) (fieldOf f f') (fieldOf l l'))
  | .fontWanted, [f, f'] => some (.fontWanted h (fieldOf f f'))
  | .fontOffer, [f, f', asker, total] => some (.fontOffer h (fieldOf f f') asker.toNat total.toNat)
  | .fontTake, [f, f', lender, first] => some (.fontTake h (fieldOf f f') lender.toNat first.toNat)
  | .fontBlock, f :: f' :: index :: data =>
    if data.length = Config.blockBytes then some (.fontBlock h (fieldOf f f') index.toNat data) else none
  | .wordLearned, body => some (.wordLearned h body)
  | .stationHalt, [] => some (.stationHalt h)
  | .stationRelease, [] => some (.stationRelease h)
  | .stationReset, [] => some (.stationReset h)
  | _, _ => none

/-! ## The check (R168) -/

/-- One step of the check register over a covered bit. -/
def checkStep (r : BitVec 16) (bit : Bool) : BitVec 16 :=
  if r.msb = bit then r <<< 1 else (r <<< 1) ^^^ 0x1021#16

/-- The check register after the covered bits, from all ones. -/
def checkOf (covered : List Bool) : BitVec 16 := covered.foldl checkStep 0xFFFF#16

/-- The covered bits: kind, destination, body length and body, in the order they are sent. -/
def coveredBits (kind dest : BitVec 5) (length : BitVec 9) (body : List Byte) : List Bool :=
  natBits 5 kind.toNat ++ natBits 5 dest.toNat ++ natBits 9 length.toNat ++ body.flatMap fun b => natBits 8 b.toNat

/-- The frame passes its check at a receiver. -/
def Frame.passes (f : Frame) : Bool := checkOf (coveredBits f.kind f.dest f.length f.body) == f.check

/-- The frame of a kind, a sender, a destination and a body, as a station builds it (R167, R168). -/
def buildFrame (kind : FrameKind) (sender : Nat) (dest : BitVec 5) (body : List Byte) : Frame :=
  let kindBits : BitVec 5 := BitVec.ofNat 5 kind.code
  let length : BitVec 9 := BitVec.ofNat 9 body.length
  { cls := BitVec.ofNat 2 kind.cls, complement := BitVec.ofNat 5 (31 - sender), kind := kindBits, dest := dest,
    length := length, body := body, check := checkOf (coveredBits kindBits dest length body) }

/-- The frame that a frame command stands for. -/
def frameOf (i : Instr) : Option Frame :=
  (bodyOf i).map fun (kind, h, body) => buildFrame kind h.sender (BitVec.ofNat 5 h.dest) body

/-- What a receiver makes of a frame: its command, or none where it fails its check, its kind code or class is
wrong, or its body length does not agree (R175, cases 1 to 5). -/
def readFrame (f : Frame) : Option Instr :=
  if f.passes ∧ f.length.toNat = f.body.length ∧ f.length.toNat ≤ Config.maxBody then
    match FrameKind.ofCode f.kind.toNat with
    | some kind =>
      if f.cls.toNat = kind.cls then
        readBody kind { sender := 31 - f.complement.toNat, dest := f.dest.toNat } f.body
      else none
    | none => none
  else none

/-! ## Bits on the line (R167). A dominant bit, written 0, is `false`. -/

/-- The bits of a frame from its start bit to its last check bit, before stuffing. -/
def frameBits (f : Frame) : List Bool :=
  [false] ++ natBits 2 f.cls.toNat ++ natBits 5 f.complement.toNat ++ coveredBits f.kind f.dest f.length f.body ++
    natBits 16 f.check.toNat

/-- Stuffing after the bit `last`, the `count`-th successive bit of its level: after five successive bits of equal
level one bit of the opposite level is sent, and it counts as the first of the next run. -/
def stuffFrom (last : Bool) (count : Nat) : List Bool → List Bool
  | [] => []
  | b :: rest =>
    let n := if b = last then count + 1 else 1
    if n = 5 then b :: (!b) :: stuffFrom (!b) 1 rest else b :: stuffFrom b n rest

/-- The bits as they are sent. -/
def stuff : List Bool → List Bool
  | [] => []
  | b :: rest => b :: stuffFrom b 1 rest

/-- Removal of stuffed bits after the bit `last`, the `count`-th successive bit of its level: the bits left up to the sixth
successive bit of equal level, and whether one was met. -/
def destuffFrom (last : Bool) (count : Nat) : List Bool → List Bool × Bool
  | [] => ([], false)
  | b :: rest =>
    if count = 5 then
      if b = last then ([], true) else destuffFrom b 1 rest
    else
      let later := destuffFrom b (if b = last then count + 1 else 1) rest
      (b :: later.1, later.2)

/-- A receiver's bits with the stuffed bits removed, up to a stuffing violation, and whether one was met. -/
def destuff : List Bool → List Bool × Bool
  | [] => ([], false)
  | b :: rest =>
    let later := destuffFrom b 1 rest
    (b :: later.1, later.2)

/-- A receiver's bits with the stuffed bits removed; none at a stuffing violation. -/
def unstuff (bits : List Bool) : Option (List Bool) :=
  let read := destuff bits
  if read.2 then none else some read.1

/-! ## Reading a frame (R167, R175) -/

/-- The field of `width` bits behind the first `start` bits. -/
def bitField (start width : Nat) (plain : List Bool) : Nat := bitsNat ((plain.drop start).take width)

/-- The first `n` bytes, most significant bit first. -/
def bytesAt : Nat → List Bool → List Byte
  | 0, _ => []
  | n + 1, plain => byteOf (bitField 0 8 plain) :: bytesAt n (plain.drop 8)

/-- The bits from the start bit to the end of the body length field (R167). -/
def headerBits : Nat := 27

/-- The body length field, once its nine bits have been read. -/
def lengthField (plain : List Bool) : Nat := bitField 18 9 plain

/-- A frame with a body of this length is 43 + 8 × L bits long before stuffing (R167). -/
def frameSpan (length : Nat) : Nat := 43 + 8 * length

/-- The fields of a frame, in the order they are sent (R167): start bit, class, complement of the sender's number, kind,
destination, body length, body and check. -/
def splitFrame (plain : List Bool) : Frame :=
  let length := lengthField plain
  { cls := BitVec.ofNat 2 (bitField 1 2 plain), complement := BitVec.ofNat 5 (bitField 3 5 plain),
    kind := BitVec.ofNat 5 (bitField 8 5 plain), dest := BitVec.ofNat 5 (bitField 13 5 plain),
    length := BitVec.ofNat 9 length, body := bytesAt length (plain.drop headerBits),
    check := BitVec.ofNat 16 (bitField (headerBits + 8 * length) 16 plain) }

/-- A receiver on the bits that it has read, stuffed bits included (R167, R175): it follows a frame from its start bit, the
first dominant bit, removes the stuffed bits, discards the frame at a body length above 259 or at a stuffing violation before
its end, and finds the end from the body length. A stuffed bit behind the last check bit is not waited for (log entry 43). -/
def receive (bits : List Bool) : Reception :=
  let read := destuff (bits.dropWhile id)
  if headerBits ≤ read.1.length ∧ Config.maxBody < lengthField read.1 then .discarded
  else if headerBits ≤ read.1.length ∧ frameSpan (lengthField read.1) ≤ read.1.length then .whole (splitFrame read.1)
  else if read.2 then .discarded
  else .unfinished

/-- The frame has been read to its last check bit. -/
def Reception.isWhole : Reception → Bool
  | .whole _ => true
  | _ => false

/-- The bits read so far make the receiver discard the frame: a stuffing violation, or a body length field above 259
(R167). -/
def violates (bits : List Bool) : Bool := receive bits == .discarded

/-- What a station makes of the bits that it has read (R167, R175): the command of the frame, once that is whole and where its
check, kind, class and length agree. -/
def readBits (bits : List Bool) : Option Instr :=
  match receive bits with
  | .whole f => readFrame f
  | _ => none

/-- The arbitration field: class, then the complement of the station number (R167). -/
def arbitrationField (kind : FrameKind) (sender : Nat) : BitVec 7 :=
  BitVec.ofNat 2 kind.cls ++ BitVec.ofNat 5 (31 - sender)

/-! ## The current-sense samples of a stroke (R146) -/

/-- The first of three successive over-limit samples, counted from the sample where the run of `count` stands (R146). -/
def tripFrom (count index : Nat) : List Bool → Option Nat
  | [] => none
  | high :: rest =>
    if high then
      if count + 1 = 3 then some (index + 1) else tripFrom (count + 1) (index + 1) rest
    else tripFrom 0 (index + 1) rest

/-- The sample, counted from 1, at which a stroke with these samples trips: the third of three successive over-limit
samples (R146). -/
def tripSample (samples : List Bool) : Option Nat := tripFrom 0 0 samples

/-- The samples of a stroke that ran its eight milliseconds without a trip (R145, R146). -/
def completedSamples (samples : List Bool) : Bool :=
  decide (samples.length = 8) && (tripSample samples).isNone

/-- The samples of a stroke that tripped: it ends at the sample that tripped it (R146). -/
def trippedSamples (samples : List Bool) : Bool :=
  decide (samples.length ≤ 8) && decide (tripSample samples = some samples.length)

/-- No row of the opcode table spells a command by bits, so no word decodes (log entry 4). -/
def decodeTableWord (_nbits _w : Nat) : Option Instr := none

end Sys2Proof
end

