-- ==== Sys2Proof/Machine/State.lean ====
section
/-! DEFINITION. The state of the NT-612, block by block, as plain data, and `State.reset`. A timer is `none` when it is
stopped and `some n` when it runs with `n` ms to go (R180). Commands waiting to be taken stand in `State.pending`. -/

namespace Sys2Proof.Machine

/-- RUNNING or HALTED (R181). -/
inductive StationState where
  | running | halted
deriving DecidableEq, Repr

/-- The arbitration-mode strap (R170, R179). -/
inductive ArbitrationMode where
  | fair | priority
deriving DecidableEq, Repr

/-- Station control (R179 to R182). -/
structure Station where
  /-- The strapped station number, 0 to 31. -/
  number : Nat
  arbitration : ArbitrationMode
  mode : StationState
  /-- The count of whole milliseconds since power-on (R180). -/
  timeBase : Nat
deriving DecidableEq, Repr

/-! ## The line interface -/

/-- The owner of a frame descriptor (R171). A report's galley id is in its owner. -/
inductive FrameOwner where
  | inbound
  | outbound
  | credit (id : GalleyId)
  | report (id : GalleyId)
  | claim (id : GalleyId)
  | hyphenation
deriving DecidableEq, Repr

/-- A frame descriptor of the transmit queue; its class is its kind's (R171, section 11.4). -/
structure Descriptor where
  kind : FrameKind
  dest : BitVec 5
  body : List Byte
  owner : FrameOwner
  age : Nat
deriving DecidableEq, Repr

/-- How far the descriptor in flight has come (R169). -/
inductive FlightStage where
  | arbitrating | sending
deriving DecidableEq, Repr

/-- The descriptor in flight. `withdrawn`: its owner withdrew it while it was in flight (R174). `disowned`: a station
reset came while it was being sent, so its leaving is reported to no block (R177). -/
structure Flight where
  desc : Descriptor
  stage : FlightStage
  withdrawn : Bool
  disowned : Bool
deriving DecidableEq, Repr

/-- The line interface (chapter The Shop Line). -/
structure Line where
  /-- The waiting descriptors, by class and then by age (R171). -/
  queue : List Descriptor
  flight : Option Flight
  /-- The age the next descriptor queued takes. -/
  nextAge : Nat
  /-- The fair-mode hold-off is in force (R170). -/
  holdOff : Bool
  /-- The quiet period (R177). -/
  quiet : Option Nat
  /-- The line is treated as busy until 12 recessive bit times have been seen (R167). -/
  resync : Bool
  /-- The recessive bit times counted at the last event of the line, 0 to 12. -/
  idleBits : Nat
  /-- The bits the part drives onto the line for the frame in flight, stuffed; none when it drives nothing (R167). -/
  driven : List Bool
deriving DecidableEq, Repr

/-! ## The galley unit -/

inductive Priority where
  | rush | normal | deferred
deriving DecidableEq, Repr

/-- What a galley is set onto (R1). -/
inductive GalleyMode where
  | film | proof | both
deriving DecidableEq, Repr

inductive Stock where
  | paper | film
deriving DecidableEq, Repr

inductive FontPolicy where
  | hold | substitute
deriving DecidableEq, Repr

inductive WatchState where
  | considering | claimQueued | claimSent | settled
deriving DecidableEq, Repr

/-- An entry of the posting watch list (section 1.1). -/
structure WatchEntry where
  id : GalleyId
  priority : Priority
  mode : GalleyMode
  firstLine : Nat
  lastLine : Nat
  fonts : List Nat
  policy : FontPolicy
  length : Nat
  /-- The claim delay computed at creation (R2). -/
  claimDelay : Nat
  /-- The claim delay's timer. -/
  delay : Option Nat
  state : WatchState
  /-- The expiry timer, always running while the entry stands (R6). -/
  expiry : Nat
deriving DecidableEq, Repr

/-- The eleven counters of a galley record (R22, R23). -/
structure Counters where
  setLines : Nat
  exposed : Nat
  proofed : Nat
  hyphenated : Nat
  loose : Nat
  tight : Nat
  overset : Nat
  substituted : Nat
  missing : Nat
  reverseClamped : Nat
  letterspaced : Nat
deriving DecidableEq, Repr

inductive GalleyState where
  | waiting | composing | suspended | draining
deriving DecidableEq, Repr

/-- The suspension reason of R9, with, for FONT, the block that raised it and the font or fonts concerned. -/
inductive Suspension where
  | fontComposer (font : Nat)
  | fontExposure (fonts : List Nat)
  | film
  | jam
  | halt
deriving DecidableEq, Repr

/-- A galley record (R7). The poster is `id.poster`. The galley's text-store slots are the lists of `segments`. -/
structure Galley where
  id : GalleyId
  priority : Priority
  mode : GalleyMode
  firstLine : Nat
  lastLine : Nat
  fonts : List Nat
  policy : FontPolicy
  fallback : Nat
  length : Nat
  /-- Segments expected. -/
  expected : Nat
  /-- Next segment expected. -/
  nextSegment : Nat
  /-- The granted limit; none when no segment is granted. -/
  granted : Option Nat
  creditUnsent : Bool
  /-- The segments held list, each slot with its code units. -/
  segments : List (List CodeWord)
  /-- Units of the front slot the composer has consumed. -/
  unitsRead : Nat
  /-- Units of the galley's text the composer has consumed. -/
  consumed : Nat
  state : GalleyState
  suspension : Option Suspension
  compositionEnded : Bool
  cancelPending : Bool
  counters : Counters
  /-- The claim order stamp. -/
  stamp : Nat
deriving DecidableEq, Repr

/-- The galley unit (chapter Galleys). -/
structure GalleyUnit where
  watch : List WatchEntry
  table : List Galley
  claimCount : Nat
  /-- The text timer of the galley the composer waits on (R17). -/
  textTimer : Option Nat
deriving DecidableEq, Repr

/-! ## The composer -/

inductive Quad where
  | left | right | center | justify
deriving DecidableEq, Repr

/-- An open learn sequence (R39). -/
structure LearnWord where
  never : Bool
  letters : List Nat
  points : List Nat
  valid : Bool
deriving DecidableEq, Repr

/-- The setting parameters and the running state of R27. -/
structure Params where
  font : Nat
  size : Nat
  measure : Nat
  indent : Nat
  leading : Nat
  quad : Quad
  offset : Nat
  hyphenation : Bool
  ladderLimit : Nat
  letterspaceCap : Nat
  track : Int
  reverse : Bool
  trim : Int
  deferredMeasure : Option Nat
  deferredIndent : Option Nat
  firstLine : Bool
  ladderCount : Nat
  pendingAdvance : Nat
  pendingBack : Nat
  cut : Bool
  learn : Option LearnWord
deriving DecidableEq, Repr

/-- A box of a word: a character box or a fixed space (R26, R33, R45). -/
inductive Box where
  | char (code font size width : Nat)
  | fixed (width : Nat)
deriving DecidableEq, Repr

/-- Glue values in minims (R48). -/
structure Glue where
  nominal : Nat
  minimum : Nat
  maximum : Nat
deriving DecidableEq, Repr

/-- A placed item of the line. `first` marks the first box of a placed word, so that a letter gap is known to lie
within one word (R57). -/
inductive Item where
  | box (b : Box) (first : Bool)
  | glue (g : Glue)
deriving DecidableEq, Repr

/-- The placed part of the line under construction with its line marks (R44). Widths, counts and the font set are
computed from the items. -/
structure LineBuild where
  items : List Item
  missing : Bool
  substituted : Bool
deriving DecidableEq, Repr

/-- The word in progress (R44). -/
structure Word where
  boxes : List Box
  soft : List Nat
  missing : Bool
  substituted : Bool
deriving DecidableEq, Repr

/-- The flags of a set-line record (R23, R158). -/
structure Flags where
  hyphenated : Bool
  loose : Bool
  tight : Bool
  overset : Bool
  substituted : Bool
  missing : Bool
  reverseClamped : Bool
  letterspaced : Bool
deriving DecidableEq, Repr

inductive LineKind where
  | text | blank
deriving DecidableEq, Repr

/-- A run: successive characters of one font and size, each a code and its x from the offset (R61). -/
structure Run where
  font : Nat
  size : Nat
  chars : List (Nat × Int)
deriving DecidableEq, Repr

/-- A set-line record as the composer closes it (R62). -/
structure SetLine where
  galley : GalleyId
  number : Nat
  kind : LineKind
  leading : Nat
  advance : Nat
  back : Nat
  offset : Nat
  measure : Nat
  setWidth : Int
  flags : Flags
  reverse : Bool
  trim : Int
  cutAfter : Bool
  runs : List Run
  fonts : List Nat
  needsExposure : Bool
  needsProof : Bool
deriving DecidableEq, Repr

inductive ComposerState where
  | idle | running | waitText | waitFont | waitQueue | held
deriving DecidableEq, Repr

/-- What the composer still has to do for the unit it has taken, in order (R49, R54, R55, R41, R16). -/
inductive Task where
  /-- Test the word in progress, which has ended (R50, R51). -/
  | test
  /-- Offer a closed record to the set-line queue (R63). -/
  | offer (r : SetLine)
  /-- Make the interword space the waiting space (R48). -/
  | space
  /-- Begin a new word with this box, `substituted` if it is set in the fallback font (R49). -/
  | begin (b : Box) (substituted : Bool)
  /-- Close the line as END LINE, or as END PARA (R35, R36). -/
  | close (para : Bool)
  /-- Close a line that is not empty as END GALLEY does (R41, step 2). -/
  | closeLast
  /-- Close the BLANK record of a waiting cut (R41, step 3). -/
  | closeCut
  /-- The composer has finished the galley (R11). -/
  | finish
  /-- Ask for the next unit (R16). -/
  | ask
deriving DecidableEq, Repr

/-- The composer (chapter Composition and Justification). -/
structure Composer where
  state : ComposerState
  galley : Option GalleyId
  /-- The font waited on in WAIT_FONT or HELD. -/
  awaited : Option Nat
  params : Params
  line : LineBuild
  word : Word
  /-- The waiting space. -/
  space : Option Glue
  todo : List Task
  /-- The record that waits in WAIT_QUEUE. -/
  waiting : Option SetLine
  /-- The galley's next line number. -/
  nextLine : Nat
deriving DecidableEq, Repr

/-! ## The hyphenation unit -/

/-- Where a dictionary entry came from: `here` is LOCAL (R75). -/
inductive Origin where
  | here
  | heard (station : Nat)
deriving DecidableEq, Repr

/-- An entry of the exception dictionary (R75). -/
structure DictEntry where
  word : List Nat
  never : Bool
  points : List Nat
  origin : Origin
  stamp : Nat
deriving DecidableEq, Repr

structure Hyphenation where
  entries : List DictEntry
  ageCount : Nat
deriving DecidableEq, Repr

/-! ## The set-line queue -/

/-- A record standing in the set-line queue with its marks. `exposing` and `rasterizing`: a walk has its operation
in flight on it (R85). -/
structure QueueRecord where
  line : SetLine
  exposed : Bool
  proofed : Bool
  attached : Bool
  exposing : Bool
  rasterizing : Bool
deriving DecidableEq, Repr

/-! ## The font store -/

inductive DirState where
  | free | loading | metrics | resident
deriving DecidableEq, Repr

/-- The values read from a font's metrics record; `widths` from code 33 on, none where absent (R96). -/
structure Metrics where
  nominal : Nat
  minimum : Nat
  maximum : Nat
  widths : List (Option Nat)
deriving DecidableEq, Repr

/-- An entry of the font directory (R95). -/
structure DirEntry where
  font : Nat
  state : DirState
  total : Nat
  present : Nat
  blocks : List Nat
  lendable : Bool
  pins : Nat
  stamp : Nat
  metrics : Option Metrics
deriving DecidableEq, Repr

inductive WantState where
  | waiting | asking | loading | deferred | unavailable
deriving DecidableEq, Repr

/-- An entry of the want list (R102). -/
structure Want where
  font : Nat
  state : WantState
  attempts : Nat
  firstBlock : Nat
  demand : Bool
  timer : Option Nat
deriving DecidableEq, Repr

/-- The parties that raise demands (R104). -/
inductive Party where
  | composer | exposure
deriving DecidableEq, Repr

inductive InboundMode where
  | idle | cartLoad | lineLoad
deriving DecidableEq, Repr

/-- The inbound channel (R111, R116, R117). Its fields have a meaning only while it loads. -/
structure Inbound where
  mode : InboundMode
  font : Nat
  lender : Nat
  next : Nat
  total : Nat
  /-- The stall timer of a LINE_LOAD. -/
  stall : Option Nat
  /-- The read of the block under way in a CART_LOAD. -/
  read : Option Nat
  /-- The FONT WANTED of the entry in service was discarded on queueing, so its wait counts no attempt (R113). -/
  unsent : Bool
  /-- The FONT WANTED of the entry in service is still to be queued, when an earlier frame of the channel has left the line
  (R105, R113, R171, log entry 23). -/
  askDue : Bool
  /-- The FONT TAKE is still to be queued, when an earlier frame of the channel has left the line (R116, R171, log entry
  23). -/
  takeDue : Bool
deriving DecidableEq, Repr

inductive OutboundMode where
  | idle | offerPending | offered | sending
deriving DecidableEq, Repr

/-- The outbound channel (section 7.3). `due`: its frame is still to be queued, when the station's next frame leaves
the line (R124), or when an earlier frame of the channel is gone from the transmit queue (R171, log entry 22). -/
structure Outbound where
  mode : OutboundMode
  font : Nat
  asker : Nat
  next : Nat
  /-- The offer delay in OFFER_PENDING, the TAKE wait in OFFERED. -/
  timer : Option Nat
  due : Bool
deriving DecidableEq, Repr

inductive SlotState where
  | empty | reading | present
deriving DecidableEq, Repr

/-- The font store (chapters The Font Store and Font Lending). -/
structure FontStore where
  /-- Blocks of the block store, from the store-size strap (R94). -/
  size : Nat
  /-- The bytes of the block store: byte `i` of block `b` at address `256 * b + i`. -/
  memory : List Host.Cell
  /-- The 24 directory entries, entry 0 first. -/
  directory : List DirEntry
  useCount : Nat
  /-- The want list in entry order. -/
  wants : List Want
  /-- Demands not recorded, in the order first refused (R104, step 4). -/
  refused : List (Party × Nat)
  inbound : Inbound
  outbound : Outbound
  slot : SlotState
  catalog : List CatalogEntry
  catalogTimer : Option Nat
deriving DecidableEq, Repr

/-! ## The imaging controller -/

inductive ImagingState where
  | warming | ready | exposing | standby
deriving DecidableEq, Repr

/-- The lens turret (R128): at a band, moving between two with the ms left of the move, or homing after power-on. -/
inductive Turret where
  | standing (band : Nat)
  | moving (source target left : Nat)
  | homing
deriving DecidableEq, Repr

/-- A resolved film movement (R64, R132). -/
inductive Movement where
  | forward (n : Nat)
  | reverse (n : Nat)
deriving DecidableEq, Repr

inductive Stage where
  | move | background | runs | cut
deriving DecidableEq, Repr

/-- A character flash the imaging head is making (R135). -/
structure Flash where
  font : Nat
  size : Nat
  code : Nat
  x : Int
  intensity : Nat
deriving DecidableEq, Repr

/-- A background pass the imaging head is making: film x from `start` to `stop`, `height` minims up from the baseline,
the characters of `mask` left unexposed (R133). -/
structure Background where
  start : Nat
  stop : Nat
  height : Nat
  intensity : Nat
  mask : List Run
deriving DecidableEq, Repr

/-- The exposure in progress (section 8.1); its record is the one marked `exposing` in the queue. -/
structure Exposure where
  movement : Movement
  stockMultiplier : Nat
  stage : Stage
  /-- The position within RUNS: the run and the character reached. -/
  run : Nat
  char : Nat
  flash : Option Flash
  field : Option Background
deriving DecidableEq, Repr

structure Imaging where
  state : ImagingState
  warmUp : Option Nat
  standby : Option Nat
  turret : Turret
  exposure : Option Exposure
deriving DecidableEq, Repr

/-! ## The film transport -/

inductive TransportState where
  | noCassette | idle | moving | cutting | jammed | filmOut | takeUpFull
deriving DecidableEq, Repr

inductive MoveKind where
  | forward | reverse | leadOut
deriving DecidableEq, Repr

/-- What the move in progress is doing: a stroke of so many minims, the hold-off after a trip with its ms to go and
the length of the stroke to repeat, the one motion of a reverse, or the knife stroke. -/
inductive MovePhase where
  | stroke (n : Nat)
  | holdOff (left n : Nat)
  | reversing
  | knife
deriving DecidableEq, Repr

/-- The move in progress (section 9.1). `ending`: a station reset lets the operation under way complete and no more,
and its end is not reported (R152). -/
structure Move where
  kind : MoveKind
  left : Nat
  phase : MovePhase
  ending : Bool
deriving DecidableEq, Repr

structure Transport where
  state : TransportState
  supplyPresent : Bool
  supplyLength : Nat
  stock : Option Stock
  takeUpPresent : Bool
  /-- Supply remaining, film drawn, section depth, take-up held, in minims (R141). -/
  remaining : Nat
  drawn : Nat
  depth : Nat
  takeUpHeld : Nat
  trips : Nat
  move : Option Move
deriving DecidableEq, Repr

/-! ## The proof controller -/

/-- The record being rasterized: its band's content as fixed at the start, the rows written, and the row being
written (R156). -/
structure Raster where
  kind : LineKind
  runs : List Run
  offset : Nat
  measure : Nat
  reverse : Bool
  flags : Flags
  rows : Nat
  timer : Nat
deriving DecidableEq, Repr

inductive PrinterState where
  | asleep | settling | waking | ready | printing | paperOut
deriving DecidableEq, Repr

/-- The row the print head is printing. `inRing`: it still stands in the ring, as its oldest row; a station reset
takes it out (R166). -/
structure PrintRow where
  dots : DotRow
  inRing : Bool
deriving DecidableEq, Repr

structure Printer where
  state : PrinterState
  wakeHeld : Bool
  row : Option PrintRow
  idle : Option Nat
  settling : Option Nat
  waking : Option Nat
  abandonment : Option Nat
deriving DecidableEq, Repr

structure Proofer where
  /-- The unprinted rows, oldest first (R154). -/
  ring : List DotRow
  raster : Option Raster
  printer : Printer
deriving DecidableEq, Repr

/-! ## The whole -/

/-- The whole state of the part, with the queue of commands that wait to be taken, first in first out. -/
structure State where
  pending : List Instr
  station : Station
  line : Line
  galleys : GalleyUnit
  composer : Composer
  hyphenation : Hyphenation
  queue : List QueueRecord
  fonts : FontStore
  imaging : Imaging
  transport : Transport
  proofer : Proofer
deriving DecidableEq, Repr

/-- No command of the NT-612 stops the part: the manual gives every event an effect or none, so no fault is ever
raised (log entry 1). -/
inductive Fault where
deriving DecidableEq, Repr

/-- Why a command has no meaning. -/
inductive Refusal where
  /-- Raised by `exec` alone, for a command whose meaning is not written; safe, since nothing is claimed of it. -/
  | notModelled (mnemonic : String)
deriving DecidableEq, Repr

/-! ## Rest values -/

/-- The galley start values of R27 for a fallback font. -/
def Params.start (fallback : Nat) : Params where
  font := fallback
  size := 20
  measure := 3360
  indent := 0
  leading := 240
  quad := .justify
  offset := 0
  hyphenation := true
  ladderLimit := 3
  letterspaceCap := 0
  track := 0
  reverse := false
  trim := 0
  deferredMeasure := none
  deferredIndent := none
  firstLine := true
  ladderCount := 0
  pendingAdvance := 0
  pendingBack := 0
  cut := false
  learn := none

def LineBuild.empty : LineBuild := { items := [], missing := false, substituted := false }

def Word.empty : Word := { boxes := [], soft := [], missing := false, substituted := false }

/-- The IDLE composer (R43). Its parameters have no meaning until it takes a galley (R27); the model holds the galley
start values with font 1 there (log entry 3). -/
def Composer.rest : Composer where
  state := .idle
  galley := none
  awaited := none
  params := Params.start 1
  line := LineBuild.empty
  word := Word.empty
  space := none
  todo := []
  waiting := none
  nextLine := 1

def Counters.zero : Counters := ⟨0, 0, 0, 0, 0, 0, 0, 0, 0, 0, 0⟩

/-- A FREE directory entry; its other fields have no meaning and are held at 0 (R95, log entry 3). -/
def DirEntry.unused : DirEntry where
  font := 0
  state := .free
  total := 0
  present := 0
  blocks := []
  lendable := false
  pins := 0
  stamp := 0
  metrics := none

/-- The IDLE inbound channel (R112). -/
def Inbound.rest : Inbound :=
  { mode := .idle, font := 0, lender := 0, next := 0, total := 0, stall := none, read := none,
    unsent := false, askDue := false, takeDue := false }

/-- The IDLE outbound channel (R112). -/
def Outbound.rest : Outbound :=
  { mode := .idle, font := 0, asker := 0, next := 0, timer := none, due := false }

/-- The part right after power-on with every strap input low and every sensor reporting nothing mounted: no
cartridge, no cassette, no paper (R184; the levels are log entry 2). -/
def State.reset : State where
  pending := []
  station := { number := 0, arbitration := .fair, mode := .running, timeBase := 0 }
  line :=
    { queue := [], flight := none, nextAge := 0, holdOff := false, quiet := some Config.quietPeriod, resync := true,
      idleBits := 0, driven := [] }
  galleys := { watch := [], table := [], claimCount := 0, textTimer := none }
  composer := Composer.rest
  hyphenation := { entries := [], ageCount := 0 }
  queue := []
  fonts :=
    { size := 512, memory := [], directory := List.replicate Config.directoryEntries DirEntry.unused, useCount := 0,
      wants := [], refused := [], inbound := Inbound.rest, outbound := Outbound.rest, slot := .empty, catalog := [],
      catalogTimer := none }
  imaging := { state := .warming, warmUp := some Config.warmUp, standby := none, turret := .homing, exposure := none }
  transport :=
    { state := .noCassette, supplyPresent := false, supplyLength := 0, stock := none, takeUpPresent := false,
      remaining := 0, drawn := 0, depth := 0, takeUpHeld := 0, trips := 0, move := none }
  proofer :=
    { ring := [], raster := none,
      printer :=
        { state := .paperOut, wakeHeld := false, row := none, idle := none, settling := none, waking := none,
          abandonment := none } }

end Sys2Proof.Machine
end

