-- ==== Sys2Proof/Machine/Ops.lean ====
section
/-! DEFINITION. The named operations the blocks share: arithmetic on counts, ordered lists, the block store's memory,
the transmit queue, and what every heard frame and every taken unit goes through. -/

namespace Sys2Proof.Machine

/-- The outcome of a command. -/
abbrev Result := Host.Outcome State Fault Refusal

/-! ## Arithmetic and lists -/

/-- clamp(x, lo, hi) of About This Manual. -/
def clamp (x lo hi : Nat) : Nat := if x < lo then lo else if hi < x then hi else x

/-- A count that does not pass 65535 (R23). -/
def raised (n : Nat) : Nat := min (n + 1) Config.maxCount

/-- The distinct members of a list, in order of first appearance. -/
def distinct (xs : List Nat) : List Nat :=
  xs.foldl (fun acc x => if x ∈ acc then acc else acc ++ [x]) []

/-- Insertion in a list ordered by `before`, after the members that are not behind it. -/
def insertBy {α : Type} (before : α → α → Bool) (x : α) : List α → List α
  | [] => [x]
  | y :: rest => if before x y then x :: y :: rest else y :: insertBy before x rest

/-- A list put in order by `before`; members that are level keep their order. -/
def orderBy {α : Type} (before : α → α → Bool) (xs : List α) : List α :=
  xs.foldl (fun acc x => insertBy before x acc) []

/-- How many distinct members of `xs` are below `x`: the renumbering of stamps that keeps equal stamps equal (R98),
and, for stamps that are all different, the renumbering of R75. -/
def rankIn (xs : List Nat) (x : Nat) : Nat := (distinct xs).countP (· < x)

/-! ## The block store's memory (R94)

Cells in rising address order; an address not listed reads as 0, and no cell holds 0 (log entry 7). -/

abbrev Memory := List Host.Cell

/-- The canonical form: addresses strictly rise and no cell holds what an unlisted address reads as. -/
abbrev Memory.wf (m : Memory) : Prop :=
  (m.map Prod.fst).Pairwise (· < ·) ∧ ∀ c ∈ m, c.2 ≠ 0

/-- The byte at an address. -/
def Memory.read (m : Memory) (a : Nat) : Byte :=
  match m.find? fun c => c.1 = a with
  | some c => c.2
  | none => 0

/-- The cells of successive bytes from an address on. -/
def cellsFrom (a : Nat) : List Byte → Memory
  | [] => []
  | b :: rest => if b = 0 then cellsFrom (a + 1) rest else (a, b) :: cellsFrom (a + 1) rest

/-- One 256-byte block written. -/
def Memory.writeBlock (m : Memory) (block : Nat) (data : List Byte) : Memory :=
  m.filter (fun c => c.1 < Config.blockBytes * block) ++
    cellsFrom (Config.blockBytes * block) (data.take Config.blockBytes) ++
    m.filter (fun c => Config.blockBytes * (block + 1) ≤ c.1)

/-- The 256 bytes of a block. -/
def Memory.readBlock (m : Memory) (block : Nat) : List Byte :=
  (List.range Config.blockBytes).map fun i => Memory.read m (Config.blockBytes * block + i)

/-! ## The station -/

/-- A station strapped 1 to 30 takes part in the line; one strapped 0 or 31 listens (R179). -/
def Station.takesPart (st : Station) : Bool := 1 ≤ st.number && st.number ≤ 30

/-! ## The transmit queue (R171 to R174) -/

/-- The order of the queue: class, then age (R171). -/
def Descriptor.precedes (a b : Descriptor) : Bool :=
  a.kind.cls < b.kind.cls || (a.kind.cls == b.kind.cls && a.age < b.age)

/-- The descriptors in the queue, the one in flight included (R171). -/
def Line.count (l : Line) : Nat := l.queue.length + (if l.flight.isSome then 1 else 0)

/-- An owner has a descriptor of the wanted sort waiting or in flight. -/
def Line.holds (l : Line) (p : Descriptor → Bool) : Bool :=
  l.queue.any p || (match l.flight with | some f => p f.desc | none => false)

/-- The youngest waiting report for the galley id, if the owner is a report of one (R172). -/
def Line.waitingReport (l : Line) (owner : FrameOwner) : Option Descriptor :=
  match owner with
  | .report _ => (l.queue.filter fun d => d.owner = owner).getLast?
  | _ => none

/-- The youngest waiting report frame of a class numerically greater than `cls` (R173). -/
def Line.displaceable (l : Line) (cls : Nat) : Option Descriptor :=
  (l.queue.filter fun d => d.kind.isReport && cls < d.kind.cls).getLast?

/-- A new descriptor put in its place, youngest of its class. -/
def Line.enqueue (l : Line) (d : Descriptor) : Line :=
  { l with queue := insertBy Descriptor.precedes { d with age := l.nextAge } l.queue, nextAge := l.nextAge + 1 }

/-- A frame is offered for queueing: R172 replaces a waiting report for the same galley, R173 queues the frame,
displaces a report frame, or discards it. The Bool says that the frame was taken. A listening station's line interface
discards every frame offered to it (R176). -/
def Line.offer (l : Line) (takesPart : Bool) (kind : FrameKind) (dest : BitVec 5) (body : List Byte)
    (owner : FrameOwner) : Line × Bool :=
  if !takesPart then (l, false)
  else
    let d : Descriptor := { kind := kind, dest := dest, body := body, owner := owner, age := l.nextAge }
    match l.waitingReport owner with
    | some old =>
      ({ l with queue := l.queue.map fun e => if e = old then { d with age := old.age } else e }, true)
    | none =>
      if l.count < Config.transmitCapacity then (l.enqueue d, true)
      else
        match l.displaceable kind.cls with
        | some lost => ({ l with queue := l.queue.erase lost }.enqueue d, true)
        | none => (l, false)

/-- An owner withdraws its frame: a waiting descriptor is removed at once, one in flight is marked (R174). -/
def Line.withdraw (l : Line) (p : Descriptor → Bool) : Line :=
  { l with
    queue := l.queue.filter fun d => !p d
    flight := l.flight.map fun f => if p f.desc then { f with withdrawn := true } else f }

/-! ## Heard frames (R175, R176) -/

/-- The frame is addressed to the station (R176). -/
def Station.addressed (st : Station) (kind : FrameKind) (dest : Nat) : Bool :=
  kind.broadcast ||
    (if kind.toAll then dest == 0 || dest == st.number else dest != 0 && dest == st.number)

/-- A frame with a correct check, kind, class and length is heard: the line interface follows the line's frames, its line
not being treated as busy (R167), no quiet period runs, and the frame is addressed to the station (R175, cases 6 and
7). -/
def State.hears (s : State) (kind : FrameKind) (h : Header) : Bool :=
  !s.line.resync && s.line.quiet.isNone && s.station.addressed kind h.dest

/-- The frame has ended: the line's idle count begins afresh (R167, R169). -/
def State.frameEnded (s : State) : State := { s with line := { s.line with idleBits := 0 } }

/-- A frame read to its end is handed to its block if it is heard, and is discarded otherwise. -/
def State.onFrame (s : State) (kind : FrameKind) (h : Header) (block : State → State) : State :=
  if s.hears kind h then block s.frameEnded else s.frameEnded

/-- The station hears a frame of its own (R176). -/
def State.isOwn (s : State) (h : Header) : Bool := h.sender == s.station.number

/-! ## Access to the blocks -/

def State.mapLine (s : State) (f : Line → Line) : State := { s with line := f s.line }

def State.mapComposer (s : State) (f : Composer → Composer) : State := { s with composer := f s.composer }

def State.mapParams (s : State) (f : Params → Params) : State :=
  { s with composer := { s.composer with params := f s.composer.params } }

def State.mapFonts (s : State) (f : FontStore → FontStore) : State := { s with fonts := f s.fonts }

def State.mapGalleys (s : State) (f : GalleyUnit → GalleyUnit) : State := { s with galleys := f s.galleys }

def State.mapTransport (s : State) (f : Transport → Transport) : State := { s with transport := f s.transport }

def State.mapImaging (s : State) (f : Imaging → Imaging) : State := { s with imaging := f s.imaging }

def State.mapProofer (s : State) (f : Proofer → Proofer) : State := { s with proofer := f s.proofer }

def State.mapPrinter (s : State) (f : Printer → Printer) : State :=
  { s with proofer := { s.proofer with printer := f s.proofer.printer } }

/-- A frame offered to the transmit queue, its fate not asked for. -/
def State.send (s : State) (kind : FrameKind) (dest : BitVec 5) (body : List Byte) (owner : FrameOwner) : State :=
  { s with line := (s.line.offer s.station.takesPart kind dest body owner).1 }

end Sys2Proof.Machine
end

