-- ==== Sys2Proof/Machine/Flags.lean ====
section
/-! DEFINITION. The flags of set-line records, and the counters of galley records that count them. -/

namespace Sys2Proof.Machine

def Flags.none : Flags := ⟨false, false, false, false, false, false, false, false⟩

/-- The flags of either. -/
def Flags.union (a b : Flags) : Flags where
  hyphenated := a.hyphenated || b.hyphenated
  loose := a.loose || b.loose
  tight := a.tight || b.tight
  overset := a.overset || b.overset
  substituted := a.substituted || b.substituted
  missing := a.missing || b.missing
  reverseClamped := a.reverseClamped || b.reverseClamped
  letterspaced := a.letterspaced || b.letterspaced

/-- A counter raised by one, held at 65535, if its flag is set (R23). -/
def raisedIf (flag : Bool) (n : Nat) : Nat := if flag then raised n else n

/-- The counters after the append of a record with these flags: set, and each flag counter whose flag it carries
(R23, R63). -/
def Counters.appended (c : Counters) (f : Flags) : Counters where
  setLines := raised c.setLines
  exposed := c.exposed
  proofed := c.proofed
  hyphenated := raisedIf f.hyphenated c.hyphenated
  loose := raisedIf f.loose c.loose
  tight := raisedIf f.tight c.tight
  overset := raisedIf f.overset c.overset
  substituted := raisedIf f.substituted c.substituted
  missing := raisedIf f.missing c.missing
  reverseClamped := raisedIf f.reverseClamped c.reverseClamped
  letterspaced := raisedIf f.letterspaced c.letterspaced

/-- The eleven counters in the order of a GALLEY REPORT's body (R178). -/
def Counters.toList (c : Counters) : List Nat :=
  [c.setLines, c.exposed, c.proofed, c.hyphenated, c.loose, c.tight, c.overset, c.substituted, c.missing,
    c.reverseClamped, c.letterspaced]

/-- The letters of a record's flags in rank order, each as its upper-case house code (R158). -/
def Flags.letters (f : Flags) : List Nat :=
  [(f.loose, 76), (f.tight, 84), (f.overset, 79), (f.hyphenated, 72), (f.substituted, 83), (f.missing, 88),
    (f.reverseClamped, 67)].filterMap fun (set, letter) => if set then some letter else Option.none

end Sys2Proof.Machine
end

