-- ==== Sys2Proof/Machine/Operands.lean ====
section
/-! DEFINITION. What the blocks read out of what reaches them: the coded fields of a posting, the metrics record of a
font, and the next unit of the galley the composer works on. -/

namespace Sys2Proof.Machine

/-! ## Coded fields (R178); none for a value that is no code, which R1 judges -/

def Priority.ofCode : Nat → Option Priority
  | 0 => some .rush
  | 1 => some .normal
  | 2 => some .deferred
  | _ => none

def GalleyMode.ofCode : Nat → Option GalleyMode
  | 0 => some .film
  | 1 => some .proof
  | 2 => some .both
  | _ => none

def Stock.ofCode : Nat → Option Stock
  | 0 => some .paper
  | 1 => some .film
  | _ => none

def FontPolicy.ofCode : Nat → Option FontPolicy
  | 0 => some .hold
  | 1 => some .substitute
  | _ => none

/-- The place of a priority in the compose order (R8). -/
def Priority.rank : Priority → Nat
  | .rush => 0
  | .normal => 1
  | .deferred => 2

def GalleyMode.wantsFilm : GalleyMode → Bool
  | .film | .both => true
  | .proof => false

def GalleyMode.wantsProof : GalleyMode → Bool
  | .proof | .both => true
  | .film => false

/-- A first line of 0 is taken as 1 (R1, R21). -/
def firstLineOf (n : Nat) : Nat := if n = 0 then 1 else n

/-- The events of a GALLEY REPORT (R22, R178). -/
inductive ReportEvent where
  | accepted | started | suspended | resumed | done | aborted | proofRefused | proofAbandoned
deriving DecidableEq, Repr

def ReportEvent.code : ReportEvent → Nat
  | .accepted => 0
  | .started => 1
  | .suspended => 2
  | .resumed => 3
  | .done => 4
  | .aborted => 5
  | .proofRefused => 6
  | .proofAbandoned => 7

/-- The reasons a galley is aborted for (R19). -/
inductive AbortReason where
  | cancelled | textFault | textTimeout
deriving DecidableEq, Repr

def AbortReason.code : AbortReason → Nat
  | .cancelled => 1
  | .textFault => 2
  | .textTimeout => 3

/-- The reason a suspension is reported with (R22, R178). -/
def Suspension.code : Suspension → Nat
  | .fontComposer _ => 4
  | .fontExposure _ => 4
  | .film => 5
  | .jam => 6
  | .halt => 7

/-- The supply length of a length code; none where the cassette is not valid (R141). -/
def supplyLengthOf : Nat → Option Nat
  | 1 => some 864000
  | 2 => some 1728000
  | 3 => some 2592000
  | _ => none

/-! ## The metrics record (R96, R178) -/

/-- A width byte: 0 to 127 is a width, any other value absent. -/
def widthOf (b : Byte) : Option Nat := if b.toNat ≤ 127 then some b.toNat else none

/-- The metrics record at the front of block 0. -/
def readMetrics (block0 : List Byte) : Metrics :=
  let n := (block0.getD 0 0).toNat
  let a := (block0.getD 1 0).toNat
  let b := (block0.getD 2 0).toNat
  let widths := ((block0.drop 3).take 223).map widthOf
  if a ≤ n ∧ n ≤ b ∧ b ≤ 127 then { nominal := n, minimum := a, maximum := b, widths := widths }
  else { nominal := 16, minimum := 16, maximum := 16, widths := widths }

/-- The width of a code in a font's metrics, none where it is absent; the hyphen always has one (R45, R96). -/
def Metrics.width (m : Metrics) (code : Nat) : Option Nat :=
  let w := (m.widths.getD (code - 33) none)
  if code = 45 then some (w.getD 21) else w

/-! ## The galley table and the next unit -/

def GalleyUnit.find (gu : GalleyUnit) (id : GalleyId) : Option Galley := gu.table.find? fun g => g.id = id

/-- The record of a held galley changed. -/
def GalleyUnit.update (gu : GalleyUnit) (id : GalleyId) (f : Galley → Galley) : GalleyUnit :=
  { gu with table := gu.table.map fun g => if g.id = id then f g else g }

def GalleyUnit.findWatch (gu : GalleyUnit) (id : GalleyId) : Option WatchEntry := gu.watch.find? fun w => w.id = id

def GalleyUnit.updateWatch (gu : GalleyUnit) (id : GalleyId) (f : WatchEntry → WatchEntry) : GalleyUnit :=
  { gu with watch := gu.watch.map fun w => if w.id = id then f w else w }

def GalleyUnit.removeWatch (gu : GalleyUnit) (id : GalleyId) : GalleyUnit :=
  { gu with watch := gu.watch.filter fun w => w.id ≠ id }

/-- The galley the composer works on. -/
def State.workingGalley (s : State) : Option Galley :=
  match s.composer.galley with
  | some id => s.galleys.find id
  | none => none

/-- The first unread unit of a galley's held text (R16). -/
def Galley.nextUnit (g : Galley) : Option CodeWord :=
  match g.segments with
  | slot :: _ => slot[g.unitsRead]?
  | [] => none

/-- The command that the galley unit hands the composer next: the next unread unit, or the END GALLEY supplied after
the last unit of the text (R16). None while no unit is held. -/
def Galley.nextCommand (g : Galley) : Option Instr :=
  if g.compositionEnded then none
  else
    match g.nextUnit with
    | some u => some (readUnit u)
    | none => if g.length ≤ g.consumed then some .endGalley else none

/-- The composer is RUNNING, has nothing left to do for the unit before, and is handed this command next (R25). -/
def State.taking (s : State) (i : Instr) : Bool :=
  s.composer.state == .running && s.composer.todo.isEmpty &&
    (match s.workingGalley with | some g => g.nextCommand == some i | none => false)

end Sys2Proof.Machine
end

