-- ==== Sys2Proof/Machine/Fonts.lean ====
section
/-! DEFINITION. The font store's own operations: the directory, its stamps and pins, allocation and eviction, the
storing of blocks and the want list (chapter The Font Store). -/

namespace Sys2Proof.Machine

/-! ## Looking up -/

/-- The non-FREE entry of a font (R95). -/
def FontStore.entry (fs : FontStore) (font : Nat) : Option DirEntry :=
  fs.directory.find? fun e => e.state ≠ .free ∧ e.font = font

/-- The font is at least METRICS (R95). -/
def FontStore.atLeastMetrics (fs : FontStore) (font : Nat) : Bool :=
  match fs.entry font with
  | some e => e.state == .metrics || e.state == .resident
  | none => false

def FontStore.isResident (fs : FontStore) (font : Nat) : Bool :=
  match fs.entry font with
  | some e => e.state == .resident
  | none => false

/-- The metrics of a font that is at least METRICS (R96). -/
def FontStore.metricsOf (fs : FontStore) (font : Nat) : Option Metrics :=
  match fs.entry font with
  | some e => e.metrics
  | none => none

def FontStore.want (fs : FontStore) (font : Nat) : Option Want := fs.wants.find? fun w => w.font = font

def FontStore.isUnavailable (fs : FontStore) (font : Nat) : Bool :=
  match fs.want font with
  | some w => w.state == .unavailable
  | none => false

/-- A font of a complete catalog (R109). -/
def FontStore.catalogEntry (fs : FontStore) (font : Nat) : Option CatalogEntry :=
  if fs.slot = .present then fs.catalog.find? fun c => c.font = font else none

/-- The want entry in service, in ASKING or LOADING (R102). -/
def FontStore.inService (fs : FontStore) : Option Want :=
  fs.wants.find? fun w => w.state = .asking ∨ w.state = .loading

/-- The entry of a font changed. -/
def FontStore.updateEntry (fs : FontStore) (font : Nat) (f : DirEntry → DirEntry) : FontStore :=
  { fs with directory := fs.directory.map fun e => if e.state ≠ .free ∧ e.font = font then f e else e }

/-- The want entry of a font changed. -/
def FontStore.updateWant (fs : FontStore) (font : Nat) (f : Want → Want) : FontStore :=
  { fs with wants := fs.wants.map fun w => if w.font = font then f w else w }

/-- The numbers of the free blocks, lowest first (R94). -/
def FontStore.freeBlocks (fs : FontStore) : List Nat :=
  let listed := fs.directory.flatMap fun e => if e.state = .free then [] else e.blocks
  (List.range fs.size).filter fun b => b ∉ listed

/-! ## Stamps (R98) -/

/-- The use count rises by one; where it would pass 65535 the non-FREE entries are restamped. -/
def FontStore.advanceUse (fs : FontStore) : FontStore :=
  if fs.useCount < Config.maxCount then { fs with useCount := fs.useCount + 1 }
  else
    let stamps := (fs.directory.filter fun e => e.state ≠ .free).map DirEntry.stamp
    { fs with
      directory := fs.directory.map fun e => if e.state = .free then e else { e with stamp := rankIn stamps e.stamp }
      useCount := (distinct stamps).length }

/-- The fonts of one record take the use count as their stamp, and it then rises by one (R98). A record that
references no font is no use. -/
def FontStore.stampUse (fs : FontStore) (fonts : List Nat) : FontStore :=
  if fonts = [] then fs
  else
    FontStore.advanceUse
      { fs with
        directory := fs.directory.map fun e =>
          if e.state ≠ .free ∧ e.font ∈ fonts then { e with stamp := fs.useCount } else e }

/-! ## Restarting and recounting -/

/-- Every DEFERRED entry returns to WAITING with its attempts unchanged, its deferral limit stopped (R107). -/
def FontStore.restartDeferred (fs : FontStore) : FontStore :=
  { fs with
    wants := fs.wants.map fun w => if w.state = .deferred then { w with state := .waiting, timer := none } else w }

/-- Every pin count set to the references its font now has (R97); if one fell to 0, R107 is applied. -/
def FontStore.recount (fs : FontStore) (references : Nat → Nat) : FontStore :=
  let fell := fs.directory.any fun e => e.state ≠ .free ∧ 0 < e.pins ∧ references e.font = 0
  let counted : FontStore :=
    { fs with
      directory := fs.directory.map fun e => if e.state = .free then e else { e with pins := references e.font } }
  if fell then counted.restartDeferred else counted

/-! ## Allocation and eviction (R99) -/

/-- The directory indices of the candidates for eviction: RESIDENT, pin count 0, by stamp and then by index. -/
def FontStore.candidates (fs : FontStore) : List Nat :=
  let listed := fs.directory.zipIdx.filter fun (e, _) => e.state = .resident ∧ e.pins = 0
  (orderBy (fun (a : DirEntry × Nat) b => a.1.stamp < b.1.stamp) listed).map Prod.snd

/-- There is room for `k` blocks and, where one is needed, a FREE entry. -/
def FontStore.hasRoom (fs : FontStore) (k : Nat) (entryNeeded : Bool) : Bool :=
  k ≤ fs.freeBlocks.length && (!entryNeeded || fs.directory.any fun e => e.state = .free)

/-- An eviction: the entry becomes FREE and its blocks with it. -/
def FontStore.evict (fs : FontStore) (index : Nat) : FontStore :=
  { fs with directory := fs.directory.set index DirEntry.unused }

/-- As many leading candidates evicted as room for the load needs; none if all of them do not suffice. -/
def FontStore.makeRoom (k : Nat) (entryNeeded : Bool) : List Nat → FontStore → Option FontStore
  | [], fs => if fs.hasRoom k entryNeeded then some fs else none
  | index :: rest, fs =>
    if fs.hasRoom k entryNeeded then some fs else FontStore.makeRoom k entryNeeded rest (fs.evict index)

/-- The lowest-numbered FREE entry. -/
def FontStore.freeEntry (fs : FontStore) : Option Nat := fs.directory.findIdx? fun e => e.state = .free

/-- A FREE entry taken for a load from block 0, with the blocks it needs; the use count gives its stamp (R98, R99). -/
def FontStore.allocateNew (fs : FontStore) (font total : Nat) (lendable : Bool) : FontStore :=
  match fs.freeEntry with
  | some index =>
    FontStore.advanceUse
      { fs with
        directory := fs.directory.set index
          { font := font, state := .loading, total := total, present := 0, blocks := fs.freeBlocks.take total,
            lendable := lendable, pins := 0, stamp := fs.useCount, metrics := none } }
  | none => fs

/-- The outline blocks of a METRICS entry appended to its block list (R99). -/
def FontStore.allocateOutline (fs : FontStore) (font : Nat) : FontStore :=
  fs.updateEntry font fun e => { e with blocks := e.blocks ++ fs.freeBlocks.take (e.total - 2) }

/-- The allocation of R99 for a font: all that the load will write, evicting the least recently used unpinned
RESIDENT entries where that makes room; none, with nothing evicted, where it does not. Entries the evictions could
serve are restarted after it is made (R107). -/
def FontStore.allocate (fs : FontStore) (font total : Nat) (lendable : Bool) : Option FontStore :=
  match fs.entry font with
  | none =>
    (FontStore.makeRoom total true fs.candidates fs).map fun roomy =>
      let made := roomy.allocateNew font total lendable
      if fs.hasRoom total true then made else made.restartDeferred
  | some e =>
    (FontStore.makeRoom (e.total - 2) false fs.candidates fs).map fun roomy =>
      let made := roomy.allocateOutline font
      if fs.hasRoom (e.total - 2) false then made else made.restartDeferred

/-! ## Loading (R100, R101) -/

/-- A block stored at the entry's next index: the entry enters METRICS with block 1, whose record is then read, and
RESIDENT with its last block (R96, R100). -/
def FontStore.storeBlock (fs : FontStore) (font : Nat) (data : List Byte) : FontStore :=
  match fs.entry font with
  | none => fs
  | some e =>
    let memory := Memory.writeBlock fs.memory (e.blocks.getD e.present 0) data
    let present := e.present + 1
    let metrics :=
      if present = 2 ∧ e.metrics.isNone then some (readMetrics (Memory.readBlock memory (e.blocks.getD 0 0)))
      else e.metrics
    let state := if present = e.total then .resident else if present = 2 then .metrics else e.state
    FontStore.updateEntry { fs with memory := memory } font fun e =>
      { e with present := present, metrics := metrics, state := state }

/-- An attempt ends before its last block: a LOADING entry becomes FREE, a METRICS entry keeps its two metrics blocks,
and the DEFERRED entries are restarted (R101). -/
def FontStore.endAttempt (fs : FontStore) (font : Nat) : FontStore :=
  FontStore.restartDeferred
    { fs with
      directory := fs.directory.map fun e =>
        if e.font = font ∧ e.state = .loading then DirEntry.unused
        else if e.font = font ∧ e.state = .metrics then { e with blocks := e.blocks.take 2, present := 2 }
        else e }

/-! ## The want list (R102 to R105) -/

/-- A new want entry, last in entry order. Its first block wanted has no value before it is taken into service (R102), and
is held at 0 (log entry 3). -/
def FontStore.addWant (fs : FontStore) (font : Nat) (demand : Bool) : FontStore :=
  { fs with
    wants := fs.wants ++
      [{ font := font, state := .waiting, attempts := 0, firstBlock := 0, demand := demand, timer := none }] }

/-- A want entry removed, its timer with it. -/
def FontStore.removeWant (fs : FontStore) (font : Nat) : FontStore :=
  { fs with wants := fs.wants.filter fun w => w.font ≠ font }

/-- A prefetch need for one font (R103). -/
def FontStore.prefetch (fs : FontStore) (font : Nat) : FontStore :=
  if fs.isResident font ∨ (fs.want font).isSome then fs
  else if fs.wants.length < Config.wantCapacity then fs.addWant font false
  else fs

/-- The entry a demand may replace on a full list: the youngest with demand no and not in LOADING (R104, step 3). -/
def FontStore.replaceable (fs : FontStore) : Option Want :=
  (fs.wants.filter fun w => w.demand = false ∧ w.state ≠ .loading).getLast?

/-- Demand set on a want entry that stands: a retry wait or a deferral limit not running is started (R104, step 1). -/
def Want.demanded (w : Want) : Want :=
  let timer :=
    match w.state, w.timer with
    | .unavailable, none => some Config.retryWait
    | .deferred, none => some Config.deferralLimit
    | _, t => t
  { w with demand := true, timer := timer }

/-- The WAITING entry the inbound channel takes next: demand entries in entry order, then the others (R105). -/
def FontStore.nextWaiting (fs : FontStore) : Option Want :=
  match fs.wants.find? fun w => w.state = .waiting ∧ w.demand = true with
  | some w => some w
  | none => fs.wants.find? fun w => w.state = .waiting

/-- The cartridge as the source of a font: listed in the complete catalog, with the blocks total of the font's
METRICS entry if it has one (R105). -/
def FontStore.cartridgeSource (fs : FontStore) (font : Nat) : Option CatalogEntry :=
  match fs.catalogEntry font, fs.entry font with
  | some c, some e => if c.total = e.total then some c else none
  | some c, none => some c
  | none, _ => none

/-- The first block a service of the font wants (R105). -/
def FontStore.firstBlockOf (fs : FontStore) (font : Nat) : Nat := if (fs.entry font).isSome then 2 else 0

/-- A failed line service: attempts rise by one, and at 3 the entry is given up (R106, R114, R119). -/
def Want.failed (w : Want) : Want :=
  { w with
    attempts := min 3 (w.attempts + 1)
    state := if w.attempts + 1 < 3 then .waiting else .unavailable
    timer := none }

/-- A want entry in UNAVAILABLE: a demand entry starts its retry wait (R106). -/
def Want.givenUp (w : Want) : Want :=
  { w with state := .unavailable, timer := if w.demand then some Config.retryWait else none }

/-- A want entry in DEFERRED: a demand entry starts its deferral limit (R107). -/
def Want.deferred (w : Want) : Want :=
  { w with state := .deferred, timer := if w.demand then some Config.deferralLimit else none }

/-- A want entry back in WAITING, its timer stopped. -/
def Want.waitingAgain (w : Want) : Want := { w with state := .waiting, timer := none }

/-- A want entry back in WAITING with attempts 0 (R106, R109). -/
def Want.freshAgain (w : Want) : Want := { w with state := .waiting, timer := none, attempts := 0 }

/-! ## References (R44, R97) -/

def Box.font? : Box → Option Nat
  | .char _ f _ _ => some f
  | .fixed _ => none

def Item.font? : Item → Option Nat
  | .box b _ => b.font?
  | .glue _ => none

/-- The fonts a task of the composer still holds: a closed record not yet appended, a box not yet in its word. -/
def Task.fonts : Task → List Nat
  | .offer r => r.fonts
  | .begin b _ => b.font?.toList
  | _ => []

/-- The fonts the line under construction uses: those of its placed items, its word in progress, a word or box
carried on, and a closed record not yet appended (R44). -/
def Composer.fontsInUse (c : Composer) : List Nat :=
  c.line.items.filterMap Item.font? ++ c.word.boxes.filterMap Box.font? ++ c.todo.flatMap Task.fonts ++
    (match c.waiting with | some r => r.fonts | none => [])

/-- The pin count of a font: the records in the queue that reference it, one if the line under construction uses it,
one if the outbound channel is OFFERED or SENDING it (R97). -/
def State.references (s : State) (font : Nat) : Nat :=
  s.queue.countP (fun r => font ∈ r.line.fonts) + (if font ∈ s.composer.fontsInUse then 1 else 0) +
    (if (s.fonts.outbound.mode = .offered ∨ s.fonts.outbound.mode = .sending) ∧ s.fonts.outbound.font = font then 1
      else 0)

/-- The font store brought up to date with the references that now stand (R97). -/
def State.recount (s : State) : State := { s with fonts := s.fonts.recount s.references }

end Sys2Proof.Machine
end

