-- ==== Sys2Proof/Machine/Hyphens.lean ====
section
/-! DEFINITION. The hyphenation unit: the reply to a request from the exception dictionary, the soft hyphens, the letter
rules and the hard hyphens, and the learning of words (chapter Hyphenation). -/

namespace Sys2Proof.Machine

/-! ## Letters (house code classes, R66) -/

def isLetter (code : Nat) : Bool :=
  (65 ≤ code && code ≤ 90) || (97 ≤ code && code ≤ 122) || (192 ≤ code && code ≤ 255)

/-- Folding: a letter's lower-case form. -/
def fold (code : Nat) : Nat :=
  if (65 ≤ code ∧ code ≤ 90) ∨ (192 ≤ code ∧ code ≤ 223) then code + 32 else code

/-- The house code of a character box; none for a fixed space. -/
def Box.code? : Box → Option Nat
  | .char code _ _ _ => some code
  | .fixed _ => none

def Box.isLetter (b : Box) : Bool :=
  match b.code? with
  | some code => Machine.isLetter code
  | none => false

def Box.isHyphen (b : Box) : Bool := b.code? == some 45

/-! ## The core (R66) -/

/-- The number of non-letter boxes before the first letter box. -/
def leadOf (boxes : List Box) : Nat := (boxes.takeWhile fun b => !b.isLetter).length

/-- The boxes from the first letter box to the last. -/
def coreOf (boxes : List Box) : List Box :=
  ((boxes.dropWhile fun b => !b.isLetter).reverse.dropWhile fun b => !b.isLetter).reverse

/-- The folded core of a letters-only core; none where the core is empty or holds a non-letter. -/
def foldedCore (boxes : List Box) : Option (List Nat) :=
  let core := coreOf boxes
  if core ≠ [] ∧ core.all Box.isLetter then some ((core.filterMap Box.code?).map fold) else none

/-! ## The fixed tables (R71) -/

def codesOf (letters : List Char) : List Nat := letters.map Char.toNat

def consonantPairs : List (List Nat) :=
  [['c', 'h'], ['s', 'h'], ['t', 'h'], ['p', 'h'], ['w', 'h'], ['g', 'h'], ['c', 'k'], ['q', 'u']].map codesOf

def permittedOnsets : List (List Nat) :=
  [['b', 'l'], ['b', 'r'], ['c', 'l'], ['c', 'r'], ['d', 'r'], ['f', 'l'], ['f', 'r'], ['g', 'l'], ['g', 'r'],
    ['p', 'l'], ['p', 'r'], ['s', 'c'], ['s', 'k'], ['s', 'l'], ['s', 'm'], ['s', 'n'], ['s', 'p'], ['s', 't'],
    ['s', 'w'], ['t', 'r'], ['t', 'w']].map codesOf

def wordPrefixes : List (List Nat) :=
  [['a', 'n', 't', 'i'], ['a', 'u', 't', 'o'], ['c', 'o', 'm'], ['c', 'o', 'n'], ['c', 'o', 'u', 'n', 't', 'e', 'r'],
    ['d', 'i', 's'], ['e', 'n'], ['e', 'x'], ['h', 'y', 'p', 'e', 'r'], ['i', 'n'], ['i', 'n', 't', 'e', 'r'],
    ['m', 'i', 's'], ['n', 'o', 'n'], ['o', 'v', 'e', 'r'], ['p', 'o', 's', 't'], ['p', 'r', 'e'], ['p', 'r', 'o'],
    ['r', 'e'], ['s', 'e', 'm', 'i'], ['s', 'u', 'b'], ['s', 'u', 'p', 'e', 'r'], ['t', 'r', 'a', 'n', 's'],
    ['u', 'n'], ['u', 'n', 'd', 'e', 'r']].map codesOf

def wordSuffixes : List (List Nat) :=
  [['a', 'b', 'l', 'e'], ['i', 'b', 'l', 'e'], ['i', 'n', 'g'], ['m', 'e', 'n', 't'], ['n', 'e', 's', 's'],
    ['t', 'i', 'o', 'n'], ['s', 'i', 'o', 'n'], ['f', 'u', 'l'], ['l', 'e', 's', 's'], ['l', 'y'], ['o', 'u', 's'],
    ['i', 'v', 'e'], ['i', 's', 't'], ['i', 's', 'm'], ['i', 'z', 'e'], ['a', 'n', 'c', 'e'], ['e', 'n', 'c', 'e'],
    ['i', 't', 'y'], ['e', 's', 't'], ['e', 'd']].map codesOf

/-! ## Units and letter-rule points (R71, R72) -/

/-- A unit of the folded core: its letters, the letters before it, and whether it is a vowel. -/
structure CoreUnit where
  letters : List Nat
  start : Nat
  vowel : Bool
deriving DecidableEq, Repr

/-- A one-letter unit is a vowel when it is a, e, i, o, u, an accented letter, or a y that is not the first letter of
the core (R71). -/
def isVowelAt (code start : Nat) : Bool :=
  code ∈ codesOf ['a', 'e', 'i', 'o', 'u'] || (224 ≤ code && code ≤ 255) || (code == 121 && start != 0)

/-- The units of a folded core from letter position `start` on, at most `fuel` of them (R71). -/
def unitsFrom (fuel start : Nat) (letters : List Nat) : List CoreUnit :=
  match fuel, letters with
  | 0, _ => []
  | _, [] => []
  | fuel + 1, a :: rest =>
    match rest with
    | b :: rest' =>
      if [a, b] ∈ consonantPairs then
        { letters := [a, b], start := start, vowel := false } :: unitsFrom fuel (start + 2) rest'
      else { letters := [a], start := start, vowel := isVowelAt a start } :: unitsFrom fuel (start + 1) rest
    | [] => [{ letters := [a], start := start, vowel := isVowelAt a start }]

def coreUnits (core : List Nat) : List CoreUnit := unitsFrom core.length 0 core

/-- The point of one consonant run, given last unit first (R72). -/
def runPoint : List CoreUnit → List Nat
  | [] => []
  | [u] => [u.start]
  | last :: before :: _ =>
    if before.letters.length = 1 ∧ last.letters.length = 1 ∧ before.letters ++ last.letters ∈ permittedOnsets then
      [before.start]
    else [last.start]

/-- The letter-rule points: `seen` is the consonant run since the last vowel, last unit first, none before the first
vowel (R72). -/
def letterPointsFrom (seen : Option (List CoreUnit)) : List CoreUnit → List Nat
  | [] => []
  | u :: rest =>
    if u.vowel then (match seen with | some run => runPoint run | none => []) ++ letterPointsFrom (some []) rest
    else letterPointsFrom (seen.map fun run => u :: run) rest

def letterPoints (core : List Nat) : List Nat := letterPointsFrom none (coreUnits core)

/-! ## Prefix, suffix and rule points (R70, R73, R74) -/

def frontPoints (core : List Nat) : List Nat :=
  (wordPrefixes.filter fun p => p.isPrefixOf core && decide (p.length + 3 ≤ core.length)).map List.length

def backPoints (core : List Nat) : List Nat :=
  (wordSuffixes.filter fun x =>
      x.isSuffixOf core && decide (x.length + 2 ≤ core.length) &&
        (x != codesOf ['e', 'd'] || (core[core.length - 3]?.getD 0) ∈ codesOf ['d', 't'])).map
    fun x => core.length - x.length

/-- The rule points of a folded core as letter positions, the edge minima applied to the union (R70). -/
def rulePoints (core : List Nat) : List Nat :=
  (letterPoints core ++ frontPoints core ++ backPoints core).filter fun j => 2 ≤ j && j + 3 ≤ core.length

/-! ## The reply (R65, R67 to R69) -/

/-- The hard points: a hyphen box with a box before it that is not a hyphen, and a box after it (R68). -/
def hardPoints (boxes : List Box) : List Nat :=
  (List.range' 1 (boxes.length - 1)).filter fun j =>
    (boxes[j - 1]?.any Box.isHyphen) && ((boxes.take (j - 1)).any fun b => !b.isHyphen)

def Hyphenation.find (u : Hyphenation) (word : List Nat) : Option DictEntry := u.entries.find? fun e => e.word = word

/-- The points beside the hard points, by the order of authority of R67. Rule points are for a core of 5 to 24 letters: the
table of R67 says at least 5, and the text behind it sends a core of 25 letters or more to case 4 (log entry 38). -/
def softerPoints (u : Hyphenation) (boxes : List Box) (soft : List Nat) : List Nat :=
  let shift := fun points : List Nat => points.map fun j => leadOf boxes + j
  match foldedCore boxes with
  | some core =>
    match (if 2 ≤ core.length ∧ core.length ≤ 24 then u.find core else none) with
    | some e => shift e.points
    | none => if soft ≠ [] then soft else if 5 ≤ core.length ∧ core.length ≤ 24 then shift (rulePoints core) else []
  | none => soft

/-- The reply to a request: the points in increasing order, each once, from 1 to the box count less one (R65). -/
def Hyphenation.points (u : Hyphenation) (boxes : List Box) (soft : List Nat) : List Nat :=
  let soft := soft.filter fun p => p < boxes.length
  (List.range' 1 (boxes.length - 1)).filter fun p => p ∈ softerPoints u boxes soft ++ hardPoints boxes

/-! ## The exception dictionary (R75, R76, R79, R80) -/

/-- The age count rises by one; where it would pass 65535 the entries are restamped in order (R75). -/
def Hyphenation.advanceAge (u : Hyphenation) : Hyphenation :=
  if u.ageCount < Config.maxCount then { u with ageCount := u.ageCount + 1 }
  else
    let stamps := u.entries.map DictEntry.stamp
    { entries := u.entries.map fun e => { e with stamp := rankIn stamps e.stamp }, ageCount := u.entries.length }

/-- An entry for a word not in the dictionary (R75). -/
def Hyphenation.insert (u : Hyphenation) (word : List Nat) (never : Bool) (points : List Nat) (origin : Origin) :
    Hyphenation :=
  Hyphenation.advanceAge
    { u with
      entries := u.entries ++
        [{ word := word, never := never, points := points, origin := origin, stamp := u.ageCount }] }

/-- The entry of a word replaced in place, with a new stamp (R75). -/
def Hyphenation.replace (u : Hyphenation) (word : List Nat) (never : Bool) (points : List Nat) (origin : Origin) :
    Hyphenation :=
  Hyphenation.advanceAge
    { u with
      entries := u.entries.map fun e =>
        if e.word = word then { e with never := never, points := points, origin := origin, stamp := u.ageCount }
        else e }

/-- The oldest of some entries. -/
def oldestOf (entries : List DictEntry) : Option DictEntry :=
  (orderBy (fun (a : DictEntry) b => a.stamp < b.stamp) entries).head?

def Hyphenation.oldestHeard (u : Hyphenation) : Option DictEntry := oldestOf (u.entries.filter fun e => e.origin ≠ .here)

def Hyphenation.oldestLocal (u : Hyphenation) : Option DictEntry := oldestOf (u.entries.filter fun e => e.origin = .here)

def Hyphenation.remove (u : Hyphenation) (e : DictEntry) : Hyphenation := { u with entries := u.entries.erase e }

/-- A word taught at this station is always entered (R76). -/
def Hyphenation.learnLocal (u : Hyphenation) (word : List Nat) (never : Bool) (points : List Nat) : Hyphenation :=
  match u.find word with
  | some _ => u.replace word never points .here
  | none =>
    if u.entries.length < Config.dictionaryCapacity then u.insert word never points .here
    else
      match u.oldestHeard with
      | some e => (u.remove e).insert word never points .here
      | none =>
        match u.oldestLocal with
        | some e => (u.remove e).insert word never points .here
        | none => u

/-- A word heard from a station, checked and normalised, is entered, or ignored against a LOCAL entry or a dictionary
full of them (R79, R80). -/
def Hyphenation.learnHeard (u : Hyphenation) (word : List Nat) (never : Bool) (points : List Nat) (station : Nat) :
    Hyphenation :=
  match u.find word with
  | some e => if e.origin = .here then u else u.replace word never points (.heard station)
  | none =>
    if u.entries.length < Config.dictionaryCapacity then u.insert word never points (.heard station)
    else
      match u.oldestHeard with
      | some e => (u.remove e).insert word never points (.heard station)
      | none => u

/-! ## Words in bodies and learn sequences (R40, R78) -/

/-- Points within 1 to the word length less one, each once, in increasing order; none for kind NEVER. -/
def keptPoints (never : Bool) (length : Nat) (points : List Nat) : List Nat :=
  if never then [] else (List.range' 1 (length - 1)).filter fun j => j ∈ points

/-- The word of a WORD LEARNED body that passes the check of R78: its kind, folded letters and normalised points. -/
def readWord (body : List Byte) : Option (Bool × List Nat × List Nat) :=
  match body with
  | kind :: n :: rest =>
    let letters := (rest.take n.toNat).map BitVec.toNat
    match rest.drop n.toNat with
    | c :: points =>
      if kind.toNat ≤ 1 ∧ 2 ≤ n.toNat ∧ n.toNat ≤ 24 ∧ letters.length = n.toNat ∧ letters.all isLetter ∧
          points.length = c.toNat ∧ c.toNat ≤ 23 then
        let never := kind.toNat == 1
        some (never, letters.map fold, keptPoints never n.toNat (points.map BitVec.toNat))
      else none
    | [] => none
  | _ => none

/-- The word a closed learn sequence hands on: valid, of 2 to 24 letters, its outlying points dropped (R40). -/
def LearnWord.handed (w : LearnWord) : Option (Bool × List Nat × List Nat) :=
  if w.valid ∧ 2 ≤ w.letters.length ∧ w.letters.length ≤ 24 then
    some (w.never, w.letters, keptPoints w.never w.letters.length w.points)
  else none

end Sys2Proof.Machine
end

