-- ==== Sys2Proof/Machine/Setting.lean ====
section
/-! DEFINITION. The arithmetic and the decisions of the composer: widths, the test of a word, the breaks, justification,
positions and the record of a closed line (chapter Composition and Justification). -/

namespace Sys2Proof.Machine

/-! ## Widths (R33, R45, R48) -/

/-- `units` of 1/64 em at size `h`, in minims, a half rounding up (R45). -/
def scaled (units h : Nat) : Nat := (units * h * 10 + 32) / 64

/-- The width of a character of `w` width units at size `h` with track `t` (R45). -/
def characterWidth (w : Nat) (t : Int) (h : Nat) : Nat := scaled (max 0 ((w : Int) + t)).toNat h

/-- The width of a fixed space of kind 1, 2 or 3 at size `h` (R33). -/
def fixedSpaceWidth (kind h : Nat) : Nat :=
  match kind with
  | 1 => (h * 10 + 2) / 4
  | 2 => h * 5
  | _ => h * 10

/-- The glue of an interword space after a character of a font at size `h` (R48). -/
def Metrics.glue (m : Metrics) (h : Nat) : Glue :=
  { nominal := scaled m.nominal h, minimum := scaled m.minimum h, maximum := scaled m.maximum h }

/-- The glue where the line holds no character box: 16 units at the current size (R48). -/
def plainGlue (h : Nat) : Glue := { nominal := scaled 16 h, minimum := scaled 16 h, maximum := scaled 16 h }

def Box.width : Box → Nat
  | .char _ _ _ w => w
  | .fixed w => w

def Box.isChar : Box → Bool
  | .char _ _ _ _ => true
  | .fixed _ => false

/-- The font and size of a character box. -/
def Box.face? : Box → Option (Nat × Nat)
  | .char _ f h _ => some (f, h)
  | .fixed _ => none

def boxesWidth (boxes : List Box) : Nat := (boxes.map Box.width).sum

def boxesChars (boxes : List Box) : Nat := boxes.countP Box.isChar

/-! ## The line under construction (R44) -/

def Item.box? : Item → Option Box
  | .box b _ => some b
  | .glue _ => none

def Item.glue? : Item → Option Glue
  | .box _ _ => none
  | .glue g => some g

def LineBuild.boxes (l : LineBuild) : List Box := l.items.filterMap Item.box?

def LineBuild.glues (l : LineBuild) : List Glue := l.items.filterMap Item.glue?

/-- The natural width: box widths and glue nominals. -/
def LineBuild.natural (l : LineBuild) : Nat := boxesWidth l.boxes + (l.glues.map Glue.nominal).sum

/-- The minimum width: box widths and glue minima. -/
def LineBuild.minimum (l : LineBuild) : Nat := boxesWidth l.boxes + (l.glues.map Glue.minimum).sum

/-- The maximum width: box widths and glue maxima. -/
def LineBuild.maximum (l : LineBuild) : Nat := boxesWidth l.boxes + (l.glues.map Glue.maximum).sum

def LineBuild.chars (l : LineBuild) : Nat := boxesChars l.boxes

def fontsOf (boxes : List Box) : List Nat := distinct (boxes.filterMap Box.font?)

/-- The line is empty: no box placed and none in the word in progress (R26). -/
def Composer.lineEmpty (c : Composer) : Bool := c.line.items.isEmpty && c.word.boxes.isEmpty

/-- The effective indent in use: of a first line, never within 20 minims of the measure (R29). -/
def Params.effectiveIndent (p : Params) : Nat := if p.firstLine then min p.indent (p.measure - 20) else 0

/-- The available width A (R50). -/
def Params.available (p : Params) : Nat := p.measure - p.effectiveIndent

/-- Boxes as placed items of one word. -/
def wordItems : List Box → List Item
  | [] => []
  | b :: rest => .box b true :: rest.map fun b => .box b false

/-- Boxes placed on the line after the waiting space, which stands only behind a placed box; the word's marks pass to
the line (R44, R50, R51). -/
def Composer.place (c : Composer) (boxes : List Box) : Composer :=
  let space := if c.line.items = [] then [] else (c.space.map Item.glue).toList
  { c with
    line :=
      { items := c.line.items ++ space ++ wordItems boxes, missing := c.line.missing || c.word.missing,
        substituted := c.line.substituted || c.word.substituted }
    space := none }

/-- What a break carries to the next line: the boxes after the first `n`, their soft-hyphen positions lowered by `n`,
and the word's marks (R50, R52). Where a forced break has placed every box nothing is carried, and the marks stay with the
line alone (log entry 40). -/
def Word.carried (w : Word) (n : Nat) : Word :=
  if w.boxes.drop n = [] then Word.empty
  else { w with boxes := w.boxes.drop n, soft := (w.soft.filter fun p => n < p).map fun p => p - n }

/-- How many boxes a forced break places: as many as stay within the width, and at least one (R50). -/
def fitCount (width : Nat) : List Box → Nat
  | [] => 0
  | b :: rest => if b.width ≤ width then fitCount (width - b.width) rest + 1 else 0

/-! ## Setting a closed line (R55 to R60) -/

/-- What closes a line (R55). -/
inductive Closing where
  | forced | hyphen | plain | unit
deriving DecidableEq, Repr

/-- The setting of a closed line: its quad offset, its glue widths and letter gaps from the left, the flags the
setting gives, and its set width. -/
structure LineSetting where
  quadOffset : Nat
  glues : List Int
  gaps : List Nat
  flags : Flags
  setWidth : Int
deriving DecidableEq, Repr

/-- The letter gap after a box: the next item is a box of the same placed word, and both are character boxes (R57). -/
def gapAfter (b : Box) (rest : List Item) : Bool :=
  match rest with
  | .box b' false :: _ => b.isChar && b'.isChar
  | _ => false

/-- The number of letter gaps g of a line. -/
def gapCount : List Item → Nat
  | [] => 0
  | .glue _ :: rest => gapCount rest
  | .box b _ :: rest => (if gapAfter b rest then 1 else 0) + gapCount rest

/-- `total` spread over `n` places by equal shares, the remainder one each from the left (R56, R57). -/
def shares (total : Int) (n : Nat) : List Int :=
  (List.range n).map fun i => total / (n : Int) + (if (i : Int) < total % (n : Int) then 1 else 0)

/-- Letterspacing is allowed for an excess: a cap above 0, a gap, and no gap above the cap (R57). -/
def letterspaceFits (cap gaps : Nat) (excess : Int) : Bool := 0 < cap && 0 < gaps && excess ≤ (gaps * cap : Nat)

/-- A JUSTIFY break (R56, R57, R58) of a line with available width `width` and letterspace cap `cap`. -/
def justify (l : LineBuild) (width cap : Nat) : LineSetting :=
  let slack : Int := (width : Int) - (l.natural : Int)
  let glues := l.glues
  let k := glues.length
  let g := gapCount l.items
  let stretch : Int := (l.maximum : Int) - (l.natural : Int)
  let spread := fun excess : Int => (shares excess g).map Int.toNat
  if 0 < k then
    if slack ≤ stretch then
      let set := glues.zipWith (fun x d => (x.nominal : Int) + d) (shares slack k)
      let tight := (glues.zip set).any fun (x, w) => w < (x.minimum : Int)
      { quadOffset := 0, glues := set, gaps := [], flags := { Flags.none with tight := tight }, setWidth := width }
    else
      let excess := slack - stretch
      if letterspaceFits cap g excess then
        { quadOffset := 0, glues := glues.map fun x => (x.maximum : Int), gaps := spread excess,
          flags := { Flags.none with letterspaced := true }, setWidth := width }
      else
        { quadOffset := 0, glues := glues.zipWith (fun x d => (x.maximum : Int) + d) (shares excess k), gaps := [],
          flags := { Flags.none with loose := true }, setWidth := width }
  else if slack ≤ 0 then
    { quadOffset := 0, glues := [], gaps := [], flags := Flags.none, setWidth := l.natural }
  else if letterspaceFits cap g slack then
    { quadOffset := 0, glues := [], gaps := spread slack, flags := { Flags.none with letterspaced := true },
      setWidth := width }
  else
    { quadOffset := 0, glues := [], gaps := [], flags := { Flags.none with loose := true }, setWidth := width }

/-- A line set at its natural width with a quad offset (R59, R60). -/
def setNatural (l : LineBuild) (offset : Nat) : LineSetting where
  quadOffset := offset
  glues := l.glues.map fun x => (x.nominal : Int)
  gaps := []
  flags := Flags.none
  setWidth := l.natural

/-- A line set by quad; a negative slack gives offset 0 (R60). JUSTIFY is set as LEFT (R55). -/
def setByQuad (l : LineBuild) (width : Nat) (quad : Quad) : LineSetting :=
  match quad with
  | .left | .justify => setNatural l 0
  | .right => setNatural l (width - l.natural)
  | .center => setNatural l ((width - l.natural) / 2)

/-- The setting of the line by what closes it and the mode at the close (R55). -/
def Composer.setting (c : Composer) (how : Closing) : LineSetting :=
  let width := c.params.available
  match how with
  | .forced => setNatural c.line 0
  | .unit => setByQuad c.line width c.params.quad
  | .hyphen | .plain =>
    if c.params.quad = .justify then justify c.line width c.params.letterspaceCap
    else setByQuad c.line width c.params.quad

/-! ## Positions and the record (R61, R62) -/

/-- Every placed box with its x, from `x` on (R61). -/
def positions (x : Int) : List Item → List Int → List Nat → List (Box × Int)
  | [], _, _ => []
  | .glue _ :: rest, w :: ws, gaps => positions (x + w) rest ws gaps
  | .glue _ :: rest, [], gaps => positions x rest [] gaps
  | .box b _ :: rest, ws, gaps =>
    if gapAfter b rest then
      (b, x) :: positions (x + (b.width : Int) + ((gaps.headD 0 : Nat) : Int)) rest ws gaps.tail
    else (b, x) :: positions (x + (b.width : Int)) rest ws gaps

/-- A character put before the runs of the characters behind it (R61). -/
def consRun (code font size : Nat) (x : Int) : List Run → List Run
  | [] => [{ font := font, size := size, chars := [(code, x)] }]
  | r :: rest =>
    if r.font = font ∧ r.size = size then { r with chars := (code, x) :: r.chars } :: rest
    else { font := font, size := size, chars := [(code, x)] } :: r :: rest

/-- The run list of positioned boxes: successive character boxes of one font and size (R61). -/
def runsOf : List (Box × Int) → List Run
  | [] => []
  | (.fixed _, _) :: rest => runsOf rest
  | (.char code font size _, x) :: rest => consRun code font size x (runsOf rest)

/-- The record of the line as it is closed (R62). A BLANK record has no characters, carries no reverse, and its set
width is 0. -/
def Composer.record (c : Composer) (g : Galley) (how : Closing) (closeFlags : Flags) : SetLine :=
  let p := c.params
  let set := c.setting how
  let text := !c.line.boxes.isEmpty
  let start : Int := (p.effectiveIndent + set.quadOffset : Nat)
  let runs := runsOf (positions start c.line.items set.glues set.gaps)
  let marks : Flags := { Flags.none with missing := c.line.missing, substituted := c.line.substituted }
  { galley := g.id, number := c.nextLine, kind := if text then .text else .blank, leading := p.leading,
    advance := p.pendingAdvance, back := p.pendingBack, offset := p.offset, measure := p.measure,
    setWidth := if text then set.setWidth else 0, flags := (set.flags.union closeFlags).union marks,
    reverse := text && p.reverse, trim := p.trim, cutAfter := p.cut, runs := runs,
    fonts := distinct (runs.map Run.font), needsExposure := g.mode.wantsFilm,
    needsProof :=
      g.mode.wantsProof && decide (g.firstLine ≤ c.nextLine) &&
        (g.lastLine == 0 || decide (c.nextLine ≤ g.lastLine)) }

/-- The running state after a close: moves and cut at rest, the first line item no after a TEXT record, the ladder
count as the close gives it, deferred parameters in effect (R29, R37, R38, R55). -/
def Params.afterClose (p : Params) (text : Bool) (ladder : Nat) : Params :=
  { p with
    pendingAdvance := 0
    pendingBack := 0
    cut := false
    firstLine := p.firstLine && !text
    ladderCount := ladder
    measure := p.deferredMeasure.getD p.measure
    indent := p.deferredIndent.getD p.indent
    deferredMeasure := none
    deferredIndent := none }

/-- The line closed: its record, and the composer with the line empty again (R55). Only a hyphen break leaves a ladder
count, one higher (R32, R82). -/
def Composer.closeLine (c : Composer) (g : Galley) (how : Closing) : Composer × SetLine :=
  let closeFlags : Flags :=
    match how with
    | .forced => { Flags.none with overset := true }
    | .hyphen => { Flags.none with hyphenated := true }
    | _ => Flags.none
  let r := c.record g how closeFlags
  let ladder := if how = .hyphen then c.params.ladderCount + 1 else 0
  ({ c with
      params := c.params.afterClose (!c.line.boxes.isEmpty) ladder, line := LineBuild.empty, space := none,
      nextLine := c.nextLine + 1 }, r)

/-! ## The test of a word (R50 to R53) -/

/-- The last character box's font and size. -/
def lastFace (boxes : List Box) : Option (Nat × Nat) := (boxes.filterMap Box.face?).getLast?

/-- The hyphen box that a point adds after these boxes, in the font and size of their last character box with the
track in force (R52). -/
def hyphenBox (fs : FontStore) (track : Int) (boxes : List Box) : Option Box :=
  (lastFace boxes).map fun (font, size) =>
    let w := (((fs.metricsOf font).map fun m => m.width 45).join).getD 21
    .char 45 font size (characterWidth w track size)

/-- What a point of a word places on the line: its front boxes, and a hyphen unless the last of them is one; none for
a point whose front boxes hold no character (R52). -/
def pointBoxes (fs : FontStore) (track : Int) (boxes : List Box) (p : Nat) : Option (List Box) :=
  let front := boxes.take p
  if front.getLast?.any Box.isHyphen then some front
  else (hyphenBox fs track front).map fun h => front ++ [h]

/-- The width T of the line and s of the waiting space, as the mode in force has them (R51). -/
def Composer.testBase (c : Composer) : Nat :=
  if c.params.quad = .justify then c.line.minimum + ((c.space.map Glue.minimum).getD 0)
  else c.line.natural + ((c.space.map Glue.nominal).getD 0)

/-- The fitting point of the largest place with the boxes it puts on the line (R52). -/
def Composer.bestPoint (c : Composer) (fs : FontStore) (points : List Nat) : Option (Nat × List Box) :=
  (points.filterMap fun p =>
    match pointBoxes fs c.params.track c.word.boxes p with
    | some boxes =>
      if c.testBase + boxesWidth boxes ≤ c.params.available ∧
          c.line.chars + boxesChars boxes ≤ Config.maxCharacters then some (p, boxes)
      else none
    | none => none).getLast?

/-- The word that ended is tested (R50 to R53): taken whole, or the line closes by a forced, a hyphen or a plain break
and what is carried is tested next. `c` is the composer with this test off its list. -/
def Composer.testWord (c : Composer) (u : Hyphenation) (fs : FontStore) (g : Galley) : Composer :=
  let w := c.word
  if w.boxes = [] then
    { c with
      line :=
        { c.line with
          missing := c.line.missing || w.missing, substituted := c.line.substituted || w.substituted }
      word := Word.empty }
  else if c.line.items = [] then
    if boxesWidth w.boxes ≤ c.params.available then { c.place w.boxes with word := Word.empty }
    else
      let n := max 1 (fitCount c.params.available w.boxes)
      let (c, r) := (c.place (w.boxes.take n)).closeLine g .forced
      { c with word := w.carried n, todo := .offer r :: .test :: c.todo }
  else
    let limits :=
      decide (c.line.chars + boxesChars w.boxes ≤ Config.maxCharacters) &&
        decide ((fontsOf (c.line.boxes ++ w.boxes)).length ≤ Config.maxFonts)
    if c.testBase + boxesWidth w.boxes ≤ c.params.available ∧ limits then
      { c.place w.boxes with word := Word.empty }
    else
      let best :=
        if c.params.hyphenation ∧ c.params.ladderCount < c.params.ladderLimit ∧ limits then
          c.bestPoint fs (u.points w.boxes w.soft)
        else none
      match best with
      | some (p, boxes) =>
        let (c, r) := (c.place boxes).closeLine g .hyphen
        { c with word := w.carried p, todo := .offer r :: .test :: c.todo }
      | none =>
        let (c, r) := c.closeLine g .plain
        { c with todo := .offer r :: .test :: c.todo }

/-! ## The interword space (R26, R48) -/

/-- The glue of a space taken now: scaled from the last character box placed, or at the current size where the line
holds none (R48). -/
def Composer.glueNow (c : Composer) (fs : FontStore) : Glue :=
  match lastFace c.line.boxes with
  | some (font, size) => ((fs.metricsOf font).map fun m => m.glue size).getD (plainGlue size)
  | none => plainGlue c.params.size

/-- An interword space becomes the waiting space; it is dropped on an empty line, and behind another space (R26). -/
def Composer.takeSpace (c : Composer) (fs : FontStore) : Composer :=
  if c.line.items = [] ∨ c.space.isSome then c else { c with space := some (c.glueNow fs) }

/-! ## Learn sequences (R39) -/

/-- A point at the present letter count, if not already recorded. -/
def LearnWord.mark (w : LearnWord) : LearnWord :=
  if w.letters.length ∈ w.points then w else { w with points := w.points ++ [w.letters.length] }

def LearnWord.spoil (w : LearnWord) : LearnWord := { w with valid := false }

/-- A character unit of 32 to 255 taken in an open learn sequence. -/
def LearnWord.take (w : LearnWord) (code : Nat) : LearnWord :=
  if isLetter code then
    if w.letters.length < Config.maxLearnLetters then { w with letters := w.letters ++ [fold code] } else w.spoil
  else w.spoil

end Sys2Proof.Machine
end

