-- ==== Sys2Proof/Machine/Galleys.lean ====
section
/-! DEFINITION. The galley unit's own operations: compose order, credit, reports, suspension and resumption, the end of
a galley, and the watch list's shared steps (chapter Galleys). -/

namespace Sys2Proof.Machine

/-! ## Compose order (R8) -/

/-- By priority, and within a priority by claim order stamp. -/
def Galley.precedes (a b : Galley) : Bool :=
  a.priority.rank < b.priority.rank || (a.priority.rank == b.priority.rank && a.stamp < b.stamp)

def GalleyUnit.composeOrder (gu : GalleyUnit) : List Galley := orderBy Galley.precedes gu.table

/-- The compose head: the galley the composer works on, or else the first WAITING galley in compose order. A galley whose
END GALLEY has been taken and whose record waits in WAIT_QUEUE stays the head while the composer works on it, although it
may be SUSPENDED with its composition ended, or DRAINING (R8, R42, log entry 19). -/
def GalleyUnit.head (gu : GalleyUnit) (working : Option GalleyId) : Option GalleyId :=
  match working with
  | some id => some id
  | none => (gu.composeOrder.find? fun g => g.state = .waiting).map Galley.id

/-! ## Credit (R12 to R14) -/

def Galley.outstanding (g : Galley) : Nat :=
  match g.granted with
  | none => 0
  | some limit => limit + 1 - g.nextSegment

def Galley.need (g : Galley) : Nat :=
  match g.granted with
  | none => g.expected
  | some limit => g.expected - 1 - limit

/-- 256 less the slots held and outstanding over the held galleys. -/
def GalleyUnit.uncommitted (gu : GalleyUnit) : Nat :=
  Config.textSlots - (gu.table.map fun g => g.segments.length + g.outstanding).sum

/-- The granted limit raised by `a` segments. -/
def raisedLimit (granted : Option Nat) (a : Nat) : Option Nat :=
  match granted with
  | some limit => some (limit + a)
  | none => if a = 0 then none else some (a - 1)

/-- The galley is passed over by an evaluation (R13). -/
def Galley.passedOver (g : Galley) (l : Line) : Bool :=
  g.state == .draining || g.compositionEnded || g.cancelPending || l.holds (fun d => d.owner == .credit g.id) ||
    (g.need == 0 && !g.creditUnsent)

/-- The largest grant a (R13). -/
def GalleyUnit.largestGrant (gu : GalleyUnit) (head : Option GalleyId) (g : Galley) : Nat :=
  if head = some g.id then min g.need gu.uncommitted else min g.need (gu.uncommitted - Config.creditReserve)

/-- A grant of `a` segments and its TEXT CREDIT (R13, R14). -/
def sendCredit (takesPart : Bool) (gu : GalleyUnit) (l : Line) (g : Galley) (a : Nat) : GalleyUnit × Line :=
  let granted := raisedLimit g.granted a
  let sent := l.offer takesPart .textCredit (BitVec.ofNat 5 g.id.poster) (creditBody g.id (granted.getD 0)) (.credit g.id)
  (gu.update g.id fun g => { g with granted := granted, creditUnsent := !sent.2 }, sent.1)

/-- One galley of a credit evaluation (R13). -/
def grantCredit (takesPart : Bool) (head : Option GalleyId) (before : GalleyUnit × Line) (id : GalleyId) :
    GalleyUnit × Line :=
  match before.1.find id with
  | none => before
  | some g =>
    let a := before.1.largestGrant head g
    if g.passedOver before.2 = false ∧ ((min 8 g.need ≤ a ∧ 0 < a) ∨ g.creditUnsent) then
      sendCredit takesPart before.1 before.2 g a
    else before

/-- The galleys in the order an evaluation considers them: the head first, the others in compose order (R13). -/
def GalleyUnit.creditOrder (gu : GalleyUnit) (head : Option GalleyId) : List GalleyId :=
  let ids := gu.composeOrder.map Galley.id
  match head with
  | some id => id :: ids.filter fun i => i ≠ id
  | none => ids

/-- A credit evaluation (R13). A TEXT CREDIT discarded within it starts no second one (log entry 12). -/
def State.evaluateCredit (s : State) : State :=
  let head := s.galleys.head s.composer.galley
  let after := (s.galleys.creditOrder head).foldl (grantCredit s.station.takesPart head) (s.galleys, s.line)
  { s with galleys := after.1, line := after.2 }

/-! ## Reports (R22) -/

/-- The destination of a frame to a posting station. -/
def posterField (poster : Nat) : BitVec 5 :=
  if poster < 32 then BitVec.ofNat 5 poster else Config.unaddressablePoster poster

/-- A GALLEY REPORT offered for queueing with these counters. -/
def State.sendReport (s : State) (id : GalleyId) (event : ReportEvent) (reason : Nat) (counters : Counters) : State :=
  s.send .galleyReport (posterField id.poster) (reportBody id event.code reason counters.toList) (.report id)

/-- A GALLEY REPORT of a held galley with its counters as they stand. -/
def State.report (s : State) (id : GalleyId) (event : ReportEvent) (reason : Nat) : State :=
  match s.galleys.find id with
  | some g => s.sendReport id event reason g.counters
  | none => s

/-! ## The end of a galley (R11) -/

/-- An attached record of the galley stands in the set-line queue (R92). -/
def State.hasRecords (s : State) (id : GalleyId) : Bool :=
  s.queue.any fun r => r.attached && r.line.galley == id

/-- A record is still to come from the composer for a galley whose END GALLEY it has taken: one that waits, one closed and
not yet offered, or one that the rest of END GALLEY closes (R41). -/
def Composer.owes (c : Composer) : Bool :=
  c.waiting.isSome ||
    c.todo.any fun t =>
      match t with
      | .offer _ => true
      | .closeLast => !c.lineEmpty
      | .closeCut => c.params.cut
      | _ => false

/-- The composer works on the galley, and its text has not ended or a record of it is still to come. -/
def State.stillComposing (s : State) (id : GalleyId) : Bool :=
  s.composer.galley == some id &&
    (s.composer.owes || (match s.galleys.find id with | some g => !g.compositionEnded | none => false))

/-- A line of the galley is still to come: an attached record stands in the queue, or the composer has yet to make one
(R11, R92). -/
def State.hasLines (s : State) (id : GalleyId) : Bool := s.hasRecords id || s.stillComposing id

/-- The composer is released from its galley and enters IDLE: line, word, waiting record, parameters and learn
sequence are discarded, the text timer stops, and the fonts it used are reported free of it (R19, R43). -/
def State.releaseComposer (s : State) : State :=
  State.recount
    { s with composer := Composer.rest, galleys := { s.galleys with textTimer := none } }

/-- The composer, if it works on the galley, discards its line and returns to IDLE (R19, R43). -/
def State.freeComposer (s : State) (id : GalleyId) : State :=
  if s.composer.galley = some id then s.releaseComposer else s

/-- The record of a galley removed; the head is chosen afresh and credit evaluated (R11, R19). -/
def State.removeGalley (s : State) (id : GalleyId) : State :=
  State.evaluateCredit
    (s.mapGalleys fun gu => { gu with table := gu.table.filter fun g => g.id ≠ id })

/-- The galley is DONE (R11). -/
def State.finishGalley (s : State) (id : GalleyId) : State := (s.report id .done 0).removeGalley id

/-- The galley enters DRAINING: its slots are freed, its grant is withdrawn and credit is evaluated, and with no
record in the queue it is DONE at once (R11). -/
def State.enterDraining (s : State) (id : GalleyId) : State :=
  let s := State.evaluateCredit
    (s.mapGalleys fun gu => gu.update id fun g =>
      { g with
        state := .draining, suspension := none, compositionEnded := true, segments := [], unitsRead := 0,
        granted := none })
  if s.hasLines id then s else s.finishGalley id

/-- The DONE check at a departure: a galley without a record left is DONE if it is DRAINING, or SUSPENDED with its
composition ended (R9, R89); a composer that has no more to do for it than to finish is released. A galley with cancel
pending ends by its cancel (R18, log entry 13). -/
def State.checkDone (s : State) (id : GalleyId) : State :=
  match s.galleys.find id with
  | none => s
  | some g =>
    if s.hasLines id ∨ g.cancelPending then s
    else if g.state = .draining ∨ (g.state = .suspended ∧ g.compositionEnded) then (s.freeComposer id).finishGalley id
    else s

/-! ## Suspension (R9, R10) -/

/-- A suspending condition for a galley: a COMPOSING or DRAINING galley enters SUSPENDED with a report, and one already
SUSPENDED keeps its reason (R9). With cancel pending it enters SUSPENDED and the reason is not reported (R19, log
entry 36). -/
def State.suspend (s : State) (id : GalleyId) (why : Suspension) : State :=
  match s.galleys.find id with
  | none => s
  | some g =>
    if g.state = .composing ∨ g.state = .draining then
      let s := s.mapGalleys fun gu => gu.update id fun g => { g with state := .suspended, suspension := some why }
      if g.cancelPending then s else s.report id .suspended why.code
    else s

/-- A suspended galley resumes (R8, R9): to COMPOSING, or to DRAINING if its composition has ended. A composer HELD
on it returns to RUNNING (R42). With cancel pending the RESUMED report is queued as well (log entry 36). -/
def State.resume (s : State) (id : GalleyId) : State :=
  match s.galleys.find id with
  | none => s
  | some g =>
    if g.state = .suspended then
      let s := s.report id .resumed 0
      if g.compositionEnded then s.enterDraining id
      else
        let s := s.mapGalleys fun gu => gu.update id fun g => { g with state := .composing, suspension := none }
        if s.composer.galley = some id ∧ s.composer.state = .held then
          s.mapComposer fun c => { c with state := .running, awaited := none }
        else s
    else s

/-- The held galleys whose recorded suspension meets `p`, in the order of the galley table, which is the model's choice (log
entry 31). -/
def State.suspendedFor (s : State) (p : Suspension → Bool) : List GalleyId :=
  (s.galleys.table.filter fun g =>
    g.state = .suspended && (match g.suspension with | some why => p why | none => false)).map Galley.id

/-- Every galley whose recorded suspension meets `p` resumes (R9, R10, R130, R182). That they resume, and their RESUMED
reports are queued, in table order is the model's choice (log entry 31). -/
def State.resumeAll (s : State) (p : Suspension → Bool) : State := (s.suspendedFor p).foldl State.resume s

/-- At the halt every COMPOSING or DRAINING galley with an attached record lacking a done mark is suspended (R10), in the
order of the galley table, which is the order of claiming (log entry 31). A galley with cancel pending is suspended like
any other, without its report (R19, log entry 36). -/
def State.suspendHalted (s : State) : State :=
  let ids := (s.galleys.table.map Galley.id).filter fun id =>
    s.queue.any fun r => r.attached && r.line.galley == id && !(r.exposed && r.proofed)
  ids.foldl (fun s id => s.suspend id .halt) s

/-! ## The composer and the text (R16, R17) -/

/-- The composer's next unit consumed; a slot whose last unit that was is freed, and credit evaluated (R16). -/
def State.consumeUnit (s : State) : State :=
  match s.workingGalley with
  | none => s
  | some g =>
    match g.segments with
    | [] => s
    | slot :: rest =>
      if g.unitsRead + 1 < slot.length then
        s.mapGalleys fun gu => gu.update g.id fun g =>
          { g with unitsRead := g.unitsRead + 1, consumed := g.consumed + 1 }
      else
        State.evaluateCredit
          (s.mapGalleys fun gu => gu.update g.id fun g =>
            { g with segments := rest, unitsRead := 0, consumed := g.consumed + 1 })

/-- The composer asks for the next unit: with none held and the text not exhausted it enters WAIT_TEXT, the text timer
starts and credit is evaluated (R13, R16, R17). -/
def State.askNext (s : State) : State :=
  match s.workingGalley with
  | none => s
  | some g =>
    if s.composer.state = .running ∧ g.nextCommand.isNone ∧ g.compositionEnded = false then
      State.evaluateCredit
        { s with
          composer := { s.composer with state := .waitText }
          galleys := { s.galleys with textTimer := some Config.textTimer } }
    else s

/-! ## The watch list (R3, R4, R6, R20) -/

/-- A queued claim of a watch entry withdrawn (R174). -/
def State.withdrawClaim (s : State) (id : GalleyId) : State :=
  s.mapLine fun l => l.withdraw fun d => d.owner = .claim id

/-- A watch entry enters SETTLED. -/
def State.settleWatch (s : State) (id : GalleyId) : State :=
  s.mapGalleys fun gu => gu.updateWatch id fun w => { w with state := .settled, delay := none }

/-- A watch entry removed, its claim withdrawn if it is queued (R6, R20). -/
def State.dropWatch (s : State) (id : GalleyId) : State :=
  match s.galleys.findWatch id with
  | none => s
  | some w =>
    let s := if w.state = .claimQueued then s.withdrawClaim id else s
    s.mapGalleys fun gu => gu.removeWatch id

/-- The halt settles every watch entry in CONSIDERING and CLAIM_QUEUED, withdrawing queued claims (R6). -/
def State.settleWatches (s : State) : State :=
  let s := s.mapLine fun l => l.withdraw fun d =>
    s.galleys.watch.any fun w => w.state == .claimQueued && d.owner == .claim w.id
  s.mapGalleys fun gu =>
    { gu with
      watch := gu.watch.map fun w =>
        if w.state = .considering ∨ w.state = .claimQueued then { w with state := .settled, delay := none } else w }

end Sys2Proof.Machine
end

