-- ==== Sys2Proof/Machine/Walks.lean ====
section
/-! DEFINITION. The two walks of the set-line queue, the demands raised for fonts, and what a font's coming or being
given up does to the parties that wait on it (R85, R86, R104, R106, R129, and R47's policy). -/

namespace Sys2Proof.Machine

/-! ## The walks (R85, R86) -/

/-- The exposure walk's next record: the first attached record without its exposure done mark. -/
def State.exposureNext (s : State) : Option QueueRecord := s.queue.find? fun r => r.attached && !r.exposed

/-- The proof walk's next record. -/
def State.proofNext (s : State) : Option QueueRecord := s.queue.find? fun r => r.attached && !r.proofed

/-- What tells one attached record from another: its galley and its line number. -/
def QueueRecord.name (r : QueueRecord) : GalleyId × Nat := (r.line.galley, r.line.number)

def State.exposureNextName (s : State) : Option (GalleyId × Nat) := s.exposureNext.map QueueRecord.name

/-- The exposure walk sets the done marks of the records that do not need it, up to its next record (R86). -/
def markExposure : List QueueRecord → List QueueRecord
  | [] => []
  | r :: rest =>
    if r.attached ∧ r.exposed = false then
      if r.line.needsExposure then r :: rest else { r with exposed := true } :: markExposure rest
    else r :: markExposure rest

/-- The proof walk sets the done marks of the records that do not need it, up to its next record (R86). -/
def markProof : List QueueRecord → List QueueRecord
  | [] => []
  | r :: rest =>
    if r.attached ∧ r.proofed = false then
      if r.line.needsProof then r :: rest else { r with proofed := true } :: markProof rest
    else r :: markProof rest

def State.markNotNeeded (s : State) : State := { s with queue := markProof (markExposure s.queue) }

/-- The fonts of a record that are not RESIDENT (R129). -/
def State.missingFonts (s : State) (r : QueueRecord) : List Nat :=
  r.line.fonts.filter fun f => !s.fonts.isResident f

/-- The exposure walk's next record references a font in UNAVAILABLE: its galley enters SUSPENDED(FONT) (R129). -/
def State.suspendForFonts (s : State) : State :=
  match s.exposureNext with
  | none => s
  | some r =>
    let missing := s.missingFonts r
    if missing.any s.fonts.isUnavailable then s.suspend r.line.galley (.fontExposure missing) else s

/-- A font has entered UNAVAILABLE, or counts as having done so: the galley of the walk's next record is suspended if that
record references the font (R129). -/
def State.suspendForFont (s : State) (font : Nat) : State :=
  match s.exposureNext with
  | some r => if font ∈ r.line.fonts then s.suspendForFonts else s
  | none => s

/-! ## Demands (R104) -/

/-- The party is still blocked on the font (R104, step 4). -/
def State.blockedOn (s : State) (party : Party) (font : Nat) : Bool :=
  match party with
  | .composer => s.composer.state == .waitFont && s.composer.awaited == some font
  | .exposure =>
    match s.exposureNext with
    | some r => font ∈ r.line.fonts && !s.fonts.isResident font
    | none => false

/-- A FONT WANTED of the inbound channel for this font. -/
def Descriptor.asksFor (font : Nat) (d : Descriptor) : Bool :=
  d.owner == .inbound && d.kind == .fontWanted && d.body == fontWantedBody font

/-- The service of an ASKING entry ends: its FONT WANTED is discarded no more, and due no more. -/
def Inbound.unasked (i : Inbound) : Inbound := { i with unsent := false, askDue := false }

/-- The want entry that a demand replaces on a full list is removed; if it was ASKING its service ends, and a FONT WANTED of
its own that stands in the transmit queue is withdrawn (R104, step 3). One that an earlier service of the channel left there is
not its own (log entry 23). -/
def State.dropWant (s : State) (w : Want) : State :=
  let s := s.mapFonts fun fs => fs.removeWant w.font
  if w.state = .asking then
    { s with
      line := s.line.withdraw (Descriptor.asksFor w.font)
      fonts := { s.fonts with inbound := s.fonts.inbound.unasked } }
  else s

/-- One demand by steps 1 to 4 of R104. A demand set on a non-demand entry in UNAVAILABLE counts as its entering
UNAVAILABLE for the exposure walk (R129). A demand refused again keeps the place at which it was first refused (log
entry 39). -/
def State.demandOnce (s : State) (party : Party) (font : Nat) : State :=
  match s.fonts.want font with
  | some w =>
    let s' := s.mapFonts fun fs => fs.updateWant font Want.demanded
    if w.state = .unavailable ∧ w.demand = false then s'.suspendForFont font else s'
  | none =>
    if s.fonts.wants.length < Config.wantCapacity then s.mapFonts fun fs => fs.addWant font true
    else
      match s.fonts.replaceable with
      | some w => (s.dropWant w).mapFonts fun fs => fs.addWant font true
      | none =>
        if (party, font) ∈ s.fonts.refused then s
        else s.mapFonts fun fs => { fs with refused := fs.refused ++ [(party, font)] }

/-- One refused demand looked at again: it is dropped from the record if its party is no longer blocked or its font
has a want entry, and raised again otherwise (R104, step 4). -/
def State.demandAgain (s : State) (d : Party × Nat) : State :=
  let forget := fun s : State => s.mapFonts fun fs => { fs with refused := fs.refused.filter fun x => x ≠ d }
  if s.blockedOn d.1 d.2 = false ∨ (s.fonts.want d.2).isSome then forget s
  else
    let s' := s.demandOnce d.1 d.2
    if (s'.fonts.want d.2).isSome then forget s' else s'

/-- A want entry has been removed from the list: the refused demands are raised again in the order first refused
(R104, step 4, and R108). -/
def State.wantRemoved (s : State) : State := s.fonts.refused.foldl State.demandAgain s

/-- A demand raised for a font on which a party is blocked (R104). -/
def State.raiseDemand (s : State) (party : Party) (font : Nat) : State :=
  let replaced :=
    (s.fonts.want font).isNone && decide (Config.wantCapacity ≤ s.fonts.wants.length) && s.fonts.replaceable.isSome
  let s' := s.demandOnce party font
  if replaced then s'.wantRemoved else s'

/-! ## The composer's font (R46, R47) -/

/-- The composer holds on an unavailable font: its galley is SUSPENDED(FONT) if it is not suspended already, and the
composer is HELD (R47). -/
def State.holdComposer (s : State) (id : GalleyId) (font : Nat) : State :=
  (s.suspend id (.fontComposer font)).mapComposer fun c => { c with state := .held, awaited := some font }

/-- The composer waits on a font it has demanded (R46). -/
def State.waitForFont (s : State) (font : Nat) : State :=
  (s.raiseDemand .composer font).mapComposer fun c => { c with state := .waitFont, awaited := some font }

/-- The font policy's decision for an unavailable font (R47): to go on with the fallback, or the state in which the
composer waits or holds. -/
inductive FontDecision where
  | goOn (font : Nat)
  | stay (s : State)

/-- R47 for the galley's current font in UNAVAILABLE, the demand of R104 on it already raised. -/
def State.applyPolicy (s : State) (g : Galley) (font : Nat) : FontDecision :=
  match g.policy with
  | .hold => .stay (s.holdComposer g.id font)
  | .substitute =>
    if s.fonts.atLeastMetrics g.fallback then .goOn g.fallback
    else if s.fonts.isUnavailable g.fallback then
      .stay ((s.raiseDemand .composer g.fallback).holdComposer g.id g.fallback)
    else .stay (s.waitForFont g.fallback)

/-- The font the composer waits on in WAIT_FONT has become UNAVAILABLE (R42, R47). A wait on the fallback that ends so
suspends the galley; where the fallback is at hand the composer takes its unit again. -/
def State.composerGivenUp (s : State) (font : Nat) : State :=
  if s.composer.state = .waitFont ∧ s.composer.awaited = some font then
    match s.workingGalley with
    | none => s
    | some g =>
      if g.policy = .substitute ∧ font = g.fallback then s.holdComposer g.id font
      else
        match s.applyPolicy g font with
        | .goOn _ => s.mapComposer fun c => { c with state := .running, awaited := none }
        | .stay s' => s'
  else s

/-- A want entry enters UNAVAILABLE (R106): its retry wait if it is a demand entry, the composer's policy, and the
exposure walk's suspension (R129). -/
def State.giveUp (s : State) (font : Nat) : State :=
  ((s.mapFonts fun fs => fs.updateWant font Want.givenUp).composerGivenUp font).suspendForFont font

/-- A failed line service of a want entry is counted, and at the third it is given up (R106, R114, R119). -/
def State.countFailure (s : State) (font : Nat) : State :=
  let s := s.mapFonts fun fs => fs.updateWant font Want.failed
  if s.fonts.isUnavailable font then s.giveUp font else s

/-! ## The coming of a font (R100) -/

/-- The galley's recorded suspension clears with the font that has come: the composer's font at METRICS or RESIDENT,
or, for an exposure suspension, when all its fonts are RESIDENT (R9). -/
def FontStore.clears (fs : FontStore) (font : Nat) : Suspension → Bool
  | .fontComposer f => f == font && fs.atLeastMetrics f
  | .fontExposure wanted => font ∈ wanted && wanted.all fs.isResident
  | _ => false

/-- A font has entered METRICS or RESIDENT: a composer waiting or held on it returns to RUNNING, and the galleys whose
suspension it clears resume (R42, R47, R9, R100). -/
def State.fontArrived (s : State) (font : Nat) : State :=
  let s :=
    if (s.composer.state = .waitFont ∨ s.composer.state = .held) ∧ s.composer.awaited = some font then
      s.mapComposer fun c => { c with state := .running, awaited := none }
    else s
  s.resumeAll (s.fonts.clears font)

/-- A block stored for the want entry in service, with what follows from it (R100, R108): at block 1 the composer and
its galley go on; at the last block the want entry is removed and the channel returns to IDLE. -/
def State.blockStored (s : State) (font : Nat) (data : List Byte) : State :=
  let s := s.mapFonts fun fs => fs.storeBlock font data
  match s.fonts.entry font with
  | none => s
  | some e =>
    if e.state = .resident then
      ((s.mapFonts fun fs => { fs.removeWant font with inbound := Inbound.rest }).fontArrived font).wantRemoved
    else if e.present = 2 then s.fontArrived font
    else s

end Sys2Proof.Machine
end

