-- ==== Sys2Proof/Machine/Queue.lean ====
section
/-! DEFINITION. The set-line queue at work: the append of records, the composer's tasks, the records' leaving, the abort
of a galley, and the tests the blocks make whenever something may have changed (R63, R83 to R92, R127, R130, R155). -/

namespace Sys2Proof.Machine

/-! ## Appending (R63, R84) -/

/-- A closed record appended at the tail: the counters and stamps of R63, then, while the station is HALTED, R10. The galley is
suspended before the walks mark the record, and one that is DRAINING as one that is COMPOSING (log entry 28). -/
def State.appendRecord (s : State) (r : SetLine) : State :=
  let s : State :=
    { s with
      queue := s.queue ++
        [{ line := r, exposed := false, proofed := false, attached := true, exposing := false, rasterizing := false }]
      galleys := s.galleys.update r.galley fun g => { g with counters := g.counters.appended r.flags }
      fonts := s.fonts.stampUse r.fonts }
  if s.station.mode = .halted then s.suspend r.galley .halt else s

/-- A departure lets the composer's waiting record be appended, and the composer goes on (R84). -/
def State.takeWaiting (s : State) : State :=
  match s.composer.waiting with
  | some r =>
    if s.composer.state = .waitQueue ∧ s.queue.length < Config.queueCapacity then
      State.recount
        ((s.appendRecord r).mapComposer fun c => { c with state := .running, waiting := none })
    else s
  | none => s

/-! ## Leaving (R89, R91) -/

/-- A detached record with no operation in flight on it (R91). -/
def QueueRecord.spent (r : QueueRecord) : Bool := !r.attached && !r.exposing && !r.rasterizing

/-- The record has both marks and no hindrance to leaving from the head (R89). -/
def QueueRecord.finished (r : QueueRecord) : Bool := r.attached && r.exposed && r.proofed

/-- The next departure: of the first spent detached record, or of a finished head (R89, R91); none if no record may
leave. -/
def State.departure (s : State) : Option State :=
  match s.queue.findIdx? QueueRecord.spent with
  | some i => some (State.takeWaiting (State.recount { s with queue := s.queue.eraseIdx i }))
  | none =>
    match s.queue with
    | r :: rest =>
      if r.finished then
        some (State.checkDone (State.takeWaiting (State.recount { s with queue := rest })) r.line.galley)
      else none
    | [] => none

/-! ## The composer's tasks -/

/-- The composer has finished its galley (R11, R41): a SUSPENDED galley keeps its suspension with its composition
ended (R9), and any other enters DRAINING. -/
def State.finishComposition (s : State) (id : GalleyId) : State :=
  let s := s.releaseComposer
  match s.galleys.find id with
  | none => s
  | some g =>
    if g.state = .suspended then
      State.evaluateCredit (s.mapGalleys fun gu => gu.update id fun g => { g with compositionEnded := true })
    else s.enterDraining id

/-- A record closed by END LINE, END PARA or END GALLEY, and its offer to the queue. -/
def Composer.closeUnit (c : Composer) (g : Galley) : Composer :=
  let (c, r) := c.closeLine g .unit
  { c with todo := .offer r :: c.todo }

/-- A record closed as END PARA closes it: the next TEXT line is a first line (R36, R41). -/
def Composer.closePara (c : Composer) (g : Galley) : Composer :=
  let c := c.closeUnit g
  { c with params := { c.params with firstLine := true } }

/-- One task of the composer, `rest` the tasks behind it. -/
def State.perform (s : State) (g : Galley) (task : Task) (rest : List Task) : State :=
  let s := s.mapComposer fun c => { c with todo := rest }
  match task with
  | .test => s.mapComposer fun c => c.testWord s.hyphenation s.fonts g
  | .offer r =>
    if s.queue.length < Config.queueCapacity then s.appendRecord r
    else s.mapComposer fun c => { c with state := .waitQueue, waiting := some r }
  | .space => s.mapComposer fun c => c.takeSpace s.fonts
  | .begin b substituted =>
    s.mapComposer fun c =>
      { c with word := { boxes := [b], soft := [], missing := false, substituted := substituted } }
  | .close para =>
    s.mapComposer fun c => if para then c.closePara g else c.closeUnit g
  | .closeLast => s.mapComposer fun c => if c.line.items = [] then c else c.closePara g
  | .closeCut =>
    s.mapComposer fun c =>
      if c.params.cut then
        Composer.closeUnit { c with params := { c.params with pendingAdvance := 0, pendingBack := 0 } } g
      else c
  | .finish => s.finishComposition g.id
  | .ask => s.askNext

/-- The composer's next task, if it is RUNNING and has one. -/
def State.composerTask (s : State) : Option State :=
  match s.composer.state, s.composer.todo, s.workingGalley with
  | .running, task :: rest, some g => some (State.recount (s.perform g task rest))
  | _, _, _ => none

/-! ## Settling

What follows from a change of the queue or of the composer, carried out in turn until nothing follows: marks that need
no operation, departures, and the composer's tasks. -/

/-- One step of settling; none when nothing follows any more. -/
def State.settleStep (s : State) : Option State :=
  let s := s.markNotNeeded
  match s.departure with
  | some s' => some s'
  | none => s.composerTask

def State.settleFor : Nat → State → State
  | 0, s => s.markNotNeeded
  | fuel + 1, s =>
    match s.settleStep with
    | some s' => State.settleFor fuel s'
    | none => s.markNotNeeded

/-- A bound on the steps of settling: each record leaves once, each task is performed once, and a test closes at most
one line for each box of the word. -/
def State.settleFuel (s : State) : Nat :=
  64 + 2 * s.queue.length + 8 * (s.composer.word.boxes.length + s.composer.todo.length)

def State.settle (s : State) : State := State.settleFor s.settleFuel s

/-! ## Abort (R19, R90) -/

/-- The records of an aborted galley leave, or are detached where a walk has an operation in flight on them (R90). -/
def removeRecords (id : GalleyId) (queue : List QueueRecord) : List QueueRecord :=
  (queue.map fun r => if r.attached ∧ r.line.galley = id then { r with attached := false } else r).filter
    fun r => !r.spent

/-- The galley's records are removed from the queue, and a waiting record of another galley is appended if one left
(R90). -/
def State.dropRecords (s : State) (id : GalleyId) : State :=
  let kept := removeRecords id s.queue
  let dropped := State.recount { s with queue := kept }
  if kept.length < s.queue.length then dropped.takeWaiting else dropped

/-- A galley is aborted (R19): the composer is released, its records are removed, ABORTED is queued with the counters, and
the record is removed with its slots and its grant. -/
def State.abort (s : State) (id : GalleyId) (why : AbortReason) : State :=
  match s.galleys.find id with
  | none => s
  | some g =>
    (((s.freeComposer id).dropRecords id).sendReport id .aborted why.code g.counters).removeGalley id

/-- A reason for an abort met for a galley; with cancel pending it is not reported and the galley waits for its cancel
(R19). -/
def State.abortUnlessCancelled (s : State) (id : GalleyId) (why : AbortReason) : State :=
  match s.galleys.find id with
  | some g => if g.cancelPending then s else s.abort id why
  | none => s

/-- An exposure has ended: a cancel that waited for it is applied (R18). -/
def State.applyCancel (s : State) (id : GalleyId) : State :=
  match s.galleys.find id with
  | some g => if g.cancelPending then s.abort id .cancelled else s
  | none => s

/-! ## Film tests (R64, R130) -/

/-- The film movement M before a record's line (R64). -/
def SetLine.movement (r : SetLine) : Int := (r.leading : Int) + r.advance - r.back

/-- Its forward movement F (R130). -/
def SetLine.forward (r : SetLine) : Nat := r.movement.toNat

/-- The lead-out K of its cut (R130). -/
def SetLine.cutLength (r : SetLine) : Nat := if r.cutAfter then Config.leadOut else 0

/-- The supply test. -/
def Transport.supplyServes (t : Transport) (r : SetLine) : Bool := r.forward + Config.leadOut ≤ t.remaining

/-- The take-up test. -/
def Transport.takeUpServes (t : Transport) (r : SetLine) : Bool :=
  t.takeUpHeld + r.forward + r.cutLength ≤ Config.takeUpCapacity

/-- The transport has no film for any record: NO_CASSETTE, FILM_OUT or TAKEUP_FULL. -/
def Transport.withoutFilm (t : Transport) : Bool :=
  t.state == .noCassette || t.state == .filmOut || t.state == .takeUpFull

/-- The film test for the walk's next record, where R130 has it made. -/
def State.filmTest (s : State) : State :=
  match s.exposureNext with
  | none => s
  | some r =>
    if s.station.mode = .running ∧ s.imaging.state ≠ .exposing ∧ s.transport.state = .idle then
      if s.transport.supplyServes r.line = false then
        (s.mapTransport fun t => { t with state := .filmOut }).suspend r.line.galley .film
      else if s.transport.takeUpServes r.line = false then
        (s.mapTransport fun t => { t with state := .takeUpFull }).suspend r.line.galley .film
      else s
    else s

/-- A transport found without film suspends the galley of the walk's next record (R130). -/
def State.filmCheck (s : State) : State :=
  match s.exposureNext with
  | none => s
  | some r =>
    if s.station.mode = .running ∧ s.transport.withoutFilm then s.suspend r.line.galley .film else s

/-- A record has become the exposure walk's next record: its outlines are demanded, an UNAVAILABLE font suspends its
galley (R129), and so does a transport without film (R130). Where both hold the font is looked at first, and FONT is the
reason recorded (log entry 31). -/
def State.nextArrived (s : State) : State :=
  match s.exposureNext with
  | none => s
  | some r =>
    let s := (s.missingFonts r).foldl (fun s f => s.raiseDemand .exposure f) s
    s.suspendForFonts.filmCheck

/-! ## The watches of the imaging controller and the printer (R127, R155, R161, R164) -/

/-- The standby timer, and the wake from STANDBY (R127). -/
def Imaging.watch (i : Imaging) (next : Bool) : Imaging :=
  match i.state, next with
  | .ready, true => { i with standby := none }
  | .ready, false => { i with standby := some (i.standby.getD Config.standby) }
  | .standby, true => { i with state := .warming, warmUp := some Config.warmUp, standby := none }
  | _, _ => i

/-- A wake demand (R155, R161, R162). -/
def Printer.wake (p : Printer) : Printer :=
  match p.state with
  | .asleep => { p with state := .waking, waking := some Config.waking }
  | .settling => { p with wakeHeld := true }
  | _ => p

/-- The idle and abandonment timers run exactly while their conditions hold (R161, R164). -/
def Printer.watch (p : Printer) (resting next : Bool) : Printer :=
  { p with
    idle := if p.state = .ready ∧ resting then some (p.idle.getD Config.printerIdle) else none
    abandonment := if p.state = .paperOut ∧ next then some (p.abandonment.getD Config.abandonment) else none }

/-- The galley of a record does not have cancel pending (R85). -/
def State.notCancelled (s : State) (r : QueueRecord) : Bool :=
  match s.galleys.find r.line.galley with
  | some g => !g.cancelPending
  | none => true

/-- Conditions 2, 3 and 4 of R155: the proof walk has a next record that it may begin while the station runs. -/
def State.proofWanting (s : State) : Bool :=
  match s.proofNext with
  | some r => s.notCancelled r && s.station.mode == .running
  | none => false

/-- The wake demand and the printer's timers. -/
def State.proofWatch (s : State) : State :=
  let resting := s.proofer.ring.isEmpty && s.proofer.raster.isNone
  let wanting := s.proofWanting
  let next := s.proofNext.isSome
  s.mapPrinter fun p => (if wanting then p.wake else p).watch resting next

/-- What the blocks look at once an event has done its work: a new next record of the exposure walk, the film test, the
standby timer and the printer. `old` is the name of the record that was the walk's next record before the event. -/
def State.examine (s : State) (old : Option (GalleyId × Nat)) : State :=
  let s := if s.exposureNextName = old then s else s.nextArrived
  let s := s.filmTest
  let s := s.mapImaging fun i => i.watch s.exposureNext.isSome
  s.proofWatch

/-- An event whose effect on the state is `f`, with all that follows from it in the queue and at the walks. -/
def State.event (s : State) (f : State → State) : State := ((f s).settle).examine s.exposureNextName

end Sys2Proof.Machine
end

