-- ==== Sys2Proof/Machine/Exposures.lean ====
section
/-! DEFINITION. The exposure sequence with its turret and its film transport (chapters Exposure and Film Transport). -/

namespace Sys2Proof.Machine

/-! ## The film transport (R141, R145, R148, R149) -/

/-- A forward stroke of `n` minims has completed (R141). -/
def Transport.forward (t : Transport) (n : Nat) : Transport :=
  { t with
    remaining := t.remaining - n, drawn := t.drawn + n, depth := t.depth + n, takeUpHeld := t.takeUpHeld + n }

/-- A reverse motion of `n` minims has completed (R141). -/
def Transport.reverse (t : Transport) (n : Nat) : Transport :=
  { t with
    remaining := t.remaining + n, drawn := t.drawn - n, depth := t.depth - n, takeUpHeld := t.takeUpHeld - n }

/-- The next stroke of a move: 40 minims, or the length still to move if that is less (R145). -/
def nextStroke (left : Nat) : MovePhase := .stroke (min Config.strokeLength left)

/-- A move or a cut asked for by the imaging controller; only an IDLE transport takes it (R144). -/
def Transport.ask (t : Transport) (kind : MoveKind) (n : Nat) : Transport :=
  if t.state = .idle then
    { t with
      state := if kind = .leadOut then .cutting else .moving
      move := some
        { kind := kind, left := n, phase := if kind = .reverse then .reversing else nextStroke n, ending := false } }
  else t

/-- The operation is over: the transport leaves MOVING or CUTTING for IDLE with no move in progress. -/
def Transport.atRest (t : Transport) : Transport := { t with state := .idle, move := none }

/-- Both cassettes are present (R144). -/
def Transport.bothPresent (t : Transport) : Bool := t.supplyPresent && t.takeUpPresent

/-- The drive is in motion. -/
def Transport.inMotion (t : Transport) : Bool := t.state == .moving || t.state == .cutting

/-- A removal in any state but JAMMED puts the transport in NO_CASSETTE; an operation under way ends without a change
of counters, but for a knife stroke, which completes (R144, R151). -/
def Transport.dismounted (t : Transport) : Transport :=
  if t.state = .jammed then t
  else
    let knife := (t.move.map Move.phase) = some .knife
    if t.inMotion then
      { t with state := .noCassette, move := none, trips := 0, depth := if knife then 0 else t.depth }
    else { t with state := .noCassette }

/-- The supply counters of a valid supply cassette just mounted (R141, R142). -/
def Transport.mountSupply (t : Transport) (length : Nat) (stock : Stock) : Transport :=
  { t with
    supplyPresent := true, supplyLength := length, stock := some stock, remaining := length, drawn := 0, depth := 0 }

/-- The supply counters with no supply cassette (R142). -/
def Transport.clearSupply (t : Transport) : Transport :=
  { t with supplyPresent := false, supplyLength := 0, stock := none, remaining := 0, drawn := 0, depth := 0 }

/-- A take-up cassette just mounted (R143). -/
def Transport.mountTakeUp (t : Transport) : Transport := { t with takeUpPresent := true, takeUpHeld := 0, depth := 0 }

/-- The station reset at the transport (R152): an operation under way is let to its end and no further, a hold-off
ends, JAMMED is left, and the trip count is 0. -/
def Transport.stationReset (t : Transport) : Transport :=
  let t := { t with trips := 0 }
  match t.state, t.move with
  | .jammed, _ => { t with state := if t.bothPresent then .idle else .noCassette, move := none }
  | .moving, some m | .cutting, some m =>
    match m.phase with
    | .holdOff _ _ => t.atRest
    | _ => { t with move := some { m with ending := true } }
  | _, _ => t

/-! ## The turret (R128) -/

/-- The band of a size. -/
def bandOf (h : Nat) : Nat := if h < 24 then 0 else if h < 48 then 1 else if h < 96 then 2 else 3

/-- The distance of two bands. -/
def bandsApart (a b : Nat) : Nat := (a - b) + (b - a)

/-- A standing turret sent to another band; a turret in motion is waited for. -/
def Turret.sent (t : Turret) (band : Nat) : Turret :=
  match t with
  | .standing b => if b = band then t else .moving b band (Config.turretStep * bandsApart b band)
  | _ => t

/-- The move of the turret has ended: it stands at its band; after homing, at band 0. -/
def Turret.landed (t : Turret) : Turret :=
  match t with
  | .moving _ target _ => .standing target
  | .homing => .standing 0
  | .standing b => .standing b

/-- A station reset stops a move at the end of the step under way (R128, R140). With `left` ms to go, the steps after
the one under way are `(left - 1) / 40` of them. -/
def Turret.stationReset (t : Turret) : Turret :=
  match t with
  | .moving source target left =>
    let after := (left - 1) / Config.turretStep
    let band := if source ≤ target then target - after else target + after
    .moving source band (left - after * Config.turretStep)
  | t => t

/-! ## Intensity (R134) -/

/-- The base of a band. -/
def baseIntensity (band : Nat) : Nat := band + 3

/-- clamp(base × m + trim, 1, 15). -/
def intensityOf (band multiplier : Nat) (trim : Int) : Nat :=
  (max 1 (min 15 (((baseIntensity band * multiplier : Nat) : Int) + trim))).toNat

def stockMultiplier : Option Stock → Nat
  | some .film => 2
  | _ => 1

/-! ## Movement (R64, R132) -/

/-- The movement of a record resolved against the section depth. -/
def SetLine.resolve (r : SetLine) (depth : Nat) : Movement :=
  if 0 ≤ r.movement then .forward r.movement.toNat
  else .reverse (min (-r.movement).toNat depth)

/-- The movement reaches behind the section and is clamped. -/
def SetLine.clamped (r : SetLine) (depth : Nat) : Bool := decide (r.movement < 0) && decide ((depth : Int) < -r.movement)

/-! ## The exposure in progress -/

/-- The record being exposed. -/
def State.exposingRecord (s : State) : Option QueueRecord := s.queue.find? QueueRecord.exposing

def State.mapExposure (s : State) (f : Exposure → Exposure) : State :=
  s.mapImaging fun i => { i with exposure := i.exposure.map f }

def State.sendTurret (s : State) (band : Nat) : State := s.mapImaging fun i => { i with turret := i.turret.sent band }

/-- The largest size among the runs (R133). -/
def largestSize (runs : List Run) : Nat := (runs.map Run.size).foldl max 0

/-- The positions of the characters of a run list from a given one on. -/
def nextPosition (runs : List Run) (run char : Nat) : Option (Nat × Nat) :=
  let all := runs.zipIdx.flatMap fun (r, i) => (List.range r.chars.length).map fun j => (i, j)
  all.find? fun p => decide (run < p.1) || (decide (p.1 = run) && decide (char ≤ p.2))

/-- The stop of an exposure: the controller returns to READY. -/
def State.leaveExposing (s : State) : State :=
  { s with
    queue := s.queue.map fun r => { r with exposing := false }
    imaging := { s.imaging with state := .ready, exposure := none } }

/-- The exposure ends normally (R138): the mark, the counter and the stamps of an attached record, the stamps alone of a
detached one; then the queue acts, and a cancel that waited is applied. -/
def State.endExposure (s : State) : State :=
  match s.exposingRecord with
  | none => s.leaveExposing
  | some r =>
    let id := r.line.galley
    let s : State :=
      if r.attached then
        { s with
          queue := s.queue.map fun r => if r.exposing then { r with exposed := true } else r
          galleys := s.galleys.update id fun g =>
            { g with counters := { g.counters with exposed := raised g.counters.exposed } } }
      else s
    let s := (s.mapFonts fun fs => fs.stampUse r.line.fonts).leaveExposing.settle
    s.applyCancel id

/-- The exposure ends at once without a mark, and the galley of an attached record is suspended (R136). A background pass
under way at a removal is dropped with it (log entry 37). -/
def State.stopExposure (s : State) (why : Suspension) : State :=
  match s.imaging.exposure, s.exposingRecord with
  | some _, some r =>
    let s := s.leaveExposing
    let s := if r.attached then s.suspend r.line.galley why else s
    s.settle.applyCancel r.line.galley
  | some _, none => s.leaveExposing
  | none, _ => s

/-- Stage CUT (R137). -/
def State.enterCut (s : State) (r : SetLine) : State :=
  let s := s.mapExposure fun e => { e with stage := .cut, flash := none, field := none }
  if r.cutAfter then s.mapTransport fun t => t.ask .leadOut Config.leadOut else s.endExposure

/-- The next flash of stage RUNS, a move of the turret before it where its band is another, or the stage's end
(R135). -/
def State.continueRuns (s : State) (r : SetLine) (e : Exposure) : State :=
  match nextPosition r.runs e.run e.char with
  | none => s.enterCut r
  | some (i, j) =>
    match r.runs[i]? with
    | none => s.enterCut r
    | some run =>
      let s := s.mapExposure fun e => { e with stage := .runs, run := i, char := j }
      let band := bandOf run.size
      if s.imaging.turret = .standing band then
        match run.chars[j]? with
        | none => s
        | some (code, x) =>
          s.mapExposure fun e =>
            { e with
              flash := some
                { font := run.font, size := run.size, code := code, x := (r.offset : Int) + x,
                  intensity := intensityOf band e.stockMultiplier r.trim } }
      else s.sendTurret band

/-- Stage BACKGROUND with a pass to make: the pass, or a move of the turret before it (R133). -/
def State.continueBackground (s : State) (r : SetLine) : State :=
  let size := largestSize r.runs
  let band := bandOf size
  let s := s.mapExposure fun e => { e with stage := .background }
  if s.imaging.turret = .standing band then
    s.mapExposure fun e =>
      { e with
        field := some
          { start := r.offset, stop := r.offset + r.measure, height := size * 10,
            intensity := intensityOf band e.stockMultiplier r.trim, mask := r.runs } }
  else s.sendTurret band

/-- The stage after MOVE: BACKGROUND for a reverse record with characters, and RUNS for any other (R133). -/
def State.enterBackground (s : State) : State :=
  match s.exposingRecord, s.imaging.exposure with
  | some r, some e =>
    if r.line.reverse ∧ r.line.runs ≠ [] then s.continueBackground r.line
    else s.continueRuns r.line { e with run := 0, char := 0 }
  | _, _ => s

/-- The turret has come to stand: a stage that waits for it goes on. -/
def State.turretReady (s : State) : State :=
  match s.exposingRecord, s.imaging.exposure with
  | some r, some e =>
    match e.stage with
    | .background => if e.field.isNone then s.continueBackground r.line else s
    | .runs => if e.flash.isNone then s.continueRuns r.line e else s
    | _ => s
  | _, _ => s

/-- Stage MOVE (R132). -/
def State.enterMove (s : State) (m : Movement) : State :=
  match m with
  | .forward n => if 0 < n then s.mapTransport fun t => t.ask .forward n else s.enterBackground
  | .reverse n => if 0 < n then s.mapTransport fun t => t.ask .reverse n else s.enterBackground

/-- The conditions of R131 for a record. -/
def State.mayExpose (s : State) (r : QueueRecord) : Bool :=
  s.station.mode == .running && s.imaging.state == .ready && r.line.fonts.all s.fonts.isResident &&
    s.transport.state == .idle && s.transport.supplyServes r.line && s.transport.takeUpServes r.line && s.notCancelled r

/-- The start of the exposure of the walk's next record (R131, R64). -/
def State.startExposure (s : State) (r : QueueRecord) : State :=
  let depth := s.transport.depth
  let clamped := r.line.clamped depth
  let first := clamped && !r.line.flags.reverseClamped
  let flagged (l : SetLine) : SetLine :=
    { l with flags := { l.flags with reverseClamped := l.flags.reverseClamped || clamped } }
  let m := r.line.resolve depth
  let s : State :=
    { s with
      queue := s.queue.map fun q =>
        if q.attached ∧ q.name = r.name then { q with exposing := true, line := flagged q.line } else q
      galleys := s.galleys.update r.line.galley fun g =>
        { g with
          counters := { g.counters with reverseClamped := raisedIf first g.counters.reverseClamped } }
      imaging :=
        { s.imaging with
          state := .exposing, standby := none
          exposure := some
            { movement := m, stockMultiplier := stockMultiplier s.transport.stock, stage := .move, run := 0, char := 0,
              flash := none, field := none } } }
  s.enterMove m

end Sys2Proof.Machine
end

