-- ==== Sys2Proof/Machine/Lending.lean ====
section
/-! DEFINITION. The inbound and the outbound channel's own operations (sections 6.6, 7.1 to 7.3). -/

namespace Sys2Proof.Machine

/-! ## The lender (R122 to R124) -/

def State.mapOutbound (s : State) (f : Outbound → Outbound) : State :=
  s.mapFonts fun fs => { fs with outbound := f fs.outbound }

def State.mapInbound (s : State) (f : Inbound → Inbound) : State :=
  s.mapFonts fun fs => { fs with inbound := f fs.inbound }

/-- An OFFER of the outbound channel. -/
def Descriptor.isLoanOffer (d : Descriptor) : Bool := d.owner == .outbound && d.kind == .fontOffer

def Descriptor.isOutbound (d : Descriptor) : Bool := d.owner == .outbound

/-- The outbound channel returns to IDLE: its OFFER still in the transmit queue is withdrawn and its pin is released
(R122, R123). -/
def State.releaseLoan (s : State) : State :=
  State.recount ((s.mapLine fun l => l.withdraw Descriptor.isLoanOffer).mapOutbound fun _ => Outbound.rest)

/-- The frame the outbound channel has to send: its OFFER while OFFERED, its next block while SENDING (R122, R124). -/
def State.loanFrame (s : State) : Option (FrameKind × BitVec 5 × List Byte) :=
  let o := s.fonts.outbound
  match s.fonts.entry o.font with
  | none => none
  | some e =>
    match o.mode with
    | .offered => some (.fontOffer, 0, fontOfferBody o.font o.asker e.total)
    | .sending =>
      let data := Memory.readBlock s.fonts.memory (e.blocks.getD o.next 0)
      some (.fontBlock, BitVec.ofNat 5 o.asker, fontBlockBody o.font o.next data)
    | _ => none

/-- The outbound channel's frame is offered to the transmit queue. While an earlier frame of the channel stands there it
is left due (R171), and so is a block discarded on queueing (R124); an OFFER so discarded ends the loan (R122). -/
def State.queueLoanFrame (s : State) : State :=
  match s.loanFrame with
  | none => s.mapOutbound fun o => { o with due := false }
  | some (kind, dest, body) =>
    if s.line.holds Descriptor.isOutbound then s.mapOutbound fun o => { o with due := true }
    else
      let (l, taken) := s.line.offer s.station.takesPart kind dest body .outbound
      let s := { s with line := l }
      if taken then s.mapOutbound fun o => { o with due := false }
      else if kind = .fontOffer then s.releaseLoan
      else s.mapOutbound fun o => { o with due := true }

/-- A frame has gone from the transmit queue: the outbound channel's due frame is offered. -/
def State.offerDueFrame (s : State) : State := if s.fonts.outbound.due then s.queueLoanFrame else s

/-- A FONT BLOCK has left the line (R124). -/
def State.blockLeft (s : State) : State :=
  let o := s.fonts.outbound
  if o.mode = .sending then
    match s.fonts.entry o.font with
    | some e =>
      if o.next + 1 < e.total then (s.mapOutbound fun o => { o with next := o.next + 1 }).queueLoanFrame
      else s.releaseLoan
    | none => s.releaseLoan
  else s

/-! ## The asker (R113 to R119) -/

/-- The inbound channel has a frame of its own in the transmit queue (R171). -/
def Descriptor.isInbound (d : Descriptor) : Bool := d.owner == .inbound

/-- A counted end of a line attempt (R119). -/
def State.endLineAttempt (s : State) (font : Nat) : State :=
  (s.mapFonts fun fs => { fs.endAttempt font with inbound := Inbound.rest }).countFailure font

/-- An allocation failed: the want entry enters DEFERRED (R107). -/
def State.defer (s : State) (font : Nat) : State :=
  s.mapFonts fun fs => { fs.updateWant font Want.deferred with inbound := Inbound.rest }

/-- A want entry taken into service: its first block wanted is set (R105). -/
def FontStore.serve (fs : FontStore) (font : Nat) : FontStore :=
  fs.updateWant font fun w => { w with firstBlock := fs.firstBlockOf font }

/-- The asking wait of an ASKING entry starts (R113). -/
def FontStore.startAskingWait (fs : FontStore) (font : Nat) : FontStore :=
  fs.updateWant font fun w => { w with timer := some Config.askingWait }

/-- The FONT WANTED of an ASKING entry offered for queueing. A discard on queueing starts the asking wait at once, and the
wait then counts no attempt (R113). -/
def State.queueAsk (s : State) (font : Nat) : State :=
  let (l, taken) := s.line.offer s.station.takesPart .fontWanted 0 (fontWantedBody font) .inbound
  let s : State := { s with line := l, fonts := { s.fonts with inbound := { s.fonts.inbound with askDue := false } } }
  if taken then s
  else s.mapFonts fun fs => { fs.startAskingWait font with inbound := { fs.inbound with unsent := true } }

/-- A want entry taken into service for the line: ASKING, and its FONT WANTED is queued (R105, R113); at once, or, while an
earlier frame of the channel stands in the transmit queue, when that has left it (R171, log entry 23). -/
def State.askLine (s : State) (w : Want) : State :=
  let s := s.mapFonts fun fs =>
    { (fs.serve w.font).updateWant w.font fun w => { w with state := .asking, timer := none } with
      inbound := { Inbound.rest with askDue := true } }
  if s.line.holds Descriptor.isInbound then s else s.queueAsk w.font

/-- A want entry taken into service from the cartridge (R105, R111). -/
def State.loadCartridge (s : State) (w : Want) (c : CatalogEntry) : State :=
  let first := s.fonts.firstBlockOf w.font
  let s := s.mapFonts fun fs => fs.serve w.font
  match s.fonts.allocate w.font c.total c.lendable with
  | none => s.defer w.font
  | some fs =>
    { s with
      fonts :=
        { fs.updateWant w.font fun w => { w with state := .loading, timer := none } with
          inbound :=
            { Inbound.rest with
              mode := .cartLoad, font := w.font, next := first, total := c.total, read := some Config.cartridgeRead } } }

/-- The FONT TAKE of a load from the line offered for queueing; a discard ends the attempt (R116, R119). -/
def State.queueTake (s : State) : State :=
  let i := s.fonts.inbound
  let (l, taken) := s.line.offer s.station.takesPart .fontTake 0 (fontTakeBody i.font i.lender i.next) .inbound
  let s : State := { s with line := l, fonts := { s.fonts with inbound := { i with takeDue := false } } }
  if taken then s else s.endLineAttempt i.font

/-- An offer is taken (R116): the allocation, LINE_LOAD and the FONT TAKE; or the entry is DEFERRED. An offer to an earlier
ask may come while a frame of the channel is still in the transmit queue. The channel keeps one frame there, so the TAKE is
then queued when that has left the line, and where the allocation fails that frame stays in the queue (R171, log entry
23). -/
def State.takeOffer (s : State) (w : Want) (lender total : Nat) : State :=
  match s.fonts.allocate w.font total true with
  | none => s.defer w.font
  | some fs =>
    let s : State :=
      { s with
        fonts :=
          { fs.updateWant w.font fun w => { w with state := .loading, timer := none } with
            inbound :=
              { Inbound.rest with
                mode := .lineLoad, font := w.font, lender := lender, next := w.firstBlock, total := total,
                takeDue := true } } }
    if s.line.holds Descriptor.isInbound then s else s.queueTake

/-- The FONT WANTED of the entry in service has left the line: the asking wait starts (R113). -/
def State.askLeft (s : State) : State :=
  s.mapFonts fun fs =>
    match fs.inService with
    | some w => if w.state = .asking then fs.startAskingWait w.font else fs
    | none => fs

/-- The FONT TAKE has left the line: the stall timer starts (R117). -/
def State.takeLeft (s : State) : State :=
  s.mapInbound fun i => if i.mode = .lineLoad then { i with stall := some Config.stallTimer } else i

/-- An earlier frame of the channel has left the line, and the FONT WANTED of the entry in service is queued (R113, R171). -/
def State.queueDueAsk (s : State) : State :=
  match s.fonts.inService with
  | some w => s.queueAsk w.font
  | none => s.mapInbound fun i => { i with askDue := false }

/-- A frame of the inbound channel has left the line. Where a TAKE or an ask is due, the frame was of an earlier service: it
starts no timer, and the one due is queued (R171, log entry 23). The leaving of a withdrawn one starts no wait (R104). -/
def State.inboundLeft (s : State) (f : Flight) : State :=
  if s.fonts.inbound.takeDue then s.queueTake
  else if s.fonts.inbound.askDue then s.queueDueAsk
  else if f.withdrawn then s
  else if f.desc.kind = .fontWanted then s.askLeft
  else s.takeLeft

/-- The conditions of R115 at the named asker: its want entry for the font, if the offer is taken. R113's discarded ask is
not among them (log entry 23). -/
def FontStore.takes (fs : FontStore) (font total : Nat) : Option Want :=
  match fs.want font with
  | none => none
  | some w =>
    let agrees : Bool :=
      match fs.entry font with
      | some e => e.total == total
      | none => true
    if w.state = .asking ∧ 3 ≤ total ∧ total ≤ 252 ∧ agrees then some w else none

/-! ## Frames leaving the line (R169) -/

/-- The owner of a frame that has left the line acts on it. -/
def State.ownerTold (s : State) (f : Flight) : State :=
  match f.desc.owner with
  | .claim id =>
    if f.withdrawn then s
    else
      s.mapGalleys fun gu => gu.updateWatch id fun w =>
        if w.state = .claimQueued then { w with state := .claimSent } else w
  | .credit _ => s.evaluateCredit
  | .inbound => s.inboundLeft f
  | .outbound =>
    if f.withdrawn then s
    else if f.desc.kind = .fontOffer then
      s.mapOutbound fun o => if o.mode = .offered then { o with timer := some Config.takeWait } else o
    else s.blockLeft
  | .report _ => s
  | .hyphenation => s

end Sys2Proof.Machine
end

