-- ==== Sys2Proof/Machine/FontEvents.lean ====
section
/-! DEFINITION. The commands of the font store and its two channels: the want list's timers, the cartridge, the loading of
blocks, and the frames of a loan (chapters The Font Store and Font Lending). -/

namespace Sys2Proof.Machine

/-! ## The want list (R105 to R107) -/

/-- A withdrawn FONT WANTED of a replaced entry is in flight: the channel takes another entry when it has been removed at the
end of arbitration or has left the line (R104, step 3, R174). -/
def Line.askWithdrawn (l : Line) : Bool :=
  match l.flight with
  | some f => f.withdrawn && f.desc.owner == .inbound && f.desc.kind == .fontWanted
  | none => false

/-- The WAITING entry that the IDLE inbound channel takes, with the cartridge as its source where it has one (R104, R105).
A frame of the channel that an earlier service left in the transmit queue holds no entry back: R171 bars only a second frame
there, and `State.askLine` queues it when the first is gone. -/
def State.takeable (s : State) : Option (Want × Option CatalogEntry) :=
  if s.fonts.inbound.mode = .idle ∧ s.fonts.inService.isNone ∧ s.line.askWithdrawn = false then
    s.fonts.nextWaiting.map fun w => (w, s.fonts.cartridgeSource w.font)
  else none

/-- The inbound channel takes the next WAITING entry into service (R105, R111, R113). -/
def execInboundTakesEntry (s : State) : Result :=
  match s.takeable with
  | some (w, some c) => .next (s.loadCartridge w c)
  | some (w, none) => .next (s.askLine w)
  | none => .next s

/-- The retry wait of an UNAVAILABLE entry expires (R106). -/
def execRetryWait (font : Nat) (s : State) : Result :=
  match s.fonts.want font with
  | some w =>
    .next
      (if w.state = .unavailable ∧ w.timer.isSome then s.mapFonts fun fs => fs.updateWant font Want.freshAgain else s)
  | none => .next s

/-- The deferral limit of a DEFERRED demand entry expires (R107). -/
def execDeferralLimit (font : Nat) (s : State) : Result :=
  match s.fonts.want font with
  | some w => .next (if w.state = .deferred ∧ w.timer.isSome then s.giveUp font else s)
  | none => .next s

/-- The asking wait expires (R113, R114). -/
def execAskingWait (s : State) : Result :=
  match s.fonts.inService with
  | some w =>
    if w.state = .asking ∧ w.timer.isSome then
      if s.fonts.inbound.unsent then
        .next (s.mapFonts fun fs => { fs.updateWant w.font Want.waitingAgain with inbound := Inbound.rest })
      else .next (s.countFailure w.font)
    else .next s
  | none => .next s

/-! ## The cartridge (R109 to R111) -/

/-- A cartridge is inserted in an EMPTY slot (R109). -/
def execCartridgeInsertion (s : State) : Result :=
  .next (s.mapFonts fun fs =>
    if fs.slot = .empty then { fs with slot := .reading, catalogTimer := some Config.catalogRead } else fs)

/-- The catalog as it is taken from the cartridge's font list (R109). -/
def catalogOf (fonts : List CatalogEntry) : List CatalogEntry :=
  (fonts.foldl
    (fun kept c =>
      if 1 ≤ c.font ∧ c.font ≤ 1023 ∧ 3 ≤ c.total ∧ c.total ≤ 252 ∧ kept.all (fun k => k.font != c.font) then kept ++ [c]
      else kept)
    []).take Config.catalogCapacity

/-- The catalog read ends (R109). An UNAVAILABLE entry waits again by its font number alone, also where R105 would not take
the font from this cartridge (log entry 41). -/
def execCatalogRead (fonts : List CatalogEntry) (s : State) : Result :=
  .next (s.mapFonts fun fs =>
    if fs.slot = .reading then
      let catalog := catalogOf fonts
      { fs with
        slot := .present, catalog := catalog, catalogTimer := none
        wants := fs.wants.map fun w =>
          if w.state = .unavailable ∧ catalog.any (fun c => c.font == w.font) then w.freshAgain else w }
    else fs)

/-- The load of a font from the cartridge ends with its removal, uncounted (R110). -/
def FontStore.abandonCartridge (fs : FontStore) : FontStore :=
  if fs.inbound.mode = .cartLoad then
    let font := fs.inbound.font
    { (fs.endAttempt font).updateWant font Want.waitingAgain with inbound := Inbound.rest }
  else fs

/-- The cartridge is removed (R109, R110). -/
def execCartridgeRemoval (s : State) : Result :=
  .next (s.mapFonts fun fs =>
    match fs.slot with
    | .empty => fs
    | .reading => { fs with slot := .empty, catalogTimer := none }
    | .present => FontStore.abandonCartridge { fs with slot := .empty, catalog := [] })

/-- One block of a cartridge load has been read (R111). -/
def execCartridgeBlockRead (data : List Byte) (s : State) : Result :=
  if s.fonts.inbound.mode = .cartLoad then
    let font := s.fonts.inbound.font
    .next
      ((s.mapInbound fun i => { i with next := i.next + 1, read := some Config.cartridgeRead }).blockStored font data)
  else .next s

/-! ## The asker and the lender (R113 to R124) -/

/-- The conditions of R121 for a heard ask. -/
def State.mayOffer (s : State) (h : Header) (font : Nat) : Bool :=
  s.station.takesPart && !s.isOwn h && s.fonts.outbound.mode == .idle &&
    (match s.fonts.entry font with
      | some e => e.state == .resident && e.lendable
      | none => false)

/-- The offer delay of a station (R121). -/
def offerDelayOf (station : Nat) : Nat := station % 8 * 4

/-- FONT WANTED heard (R121). -/
def execFontWanted (h : Header) (font : Nat) (s : State) : Result :=
  .next (s.onFrame .fontWanted h fun s =>
    if s.mayOffer h font then
      s.mapOutbound fun _ =>
        { Outbound.rest with
          mode := .offerPending, font := font, asker := h.sender, timer := some (offerDelayOf s.station.number) }
    else s)

/-- The offer delay expires (R122): the font is offered and pinned, if it is still RESIDENT and lendable. One that is RESIDENT
and no longer lendable is treated as one no longer RESIDENT (log entry 42). -/
def execOfferDelay (s : State) : Result :=
  let o := s.fonts.outbound
  if o.mode = .offerPending then
    match s.fonts.entry o.font with
    | some e =>
      if e.state = .resident ∧ e.lendable then
        .next (State.queueLoanFrame (State.recount (s.mapOutbound fun o => { o with mode := .offered, timer := none })))
      else .next (s.mapOutbound fun _ => Outbound.rest)
    | none => .next (s.mapOutbound fun _ => Outbound.rest)
  else .next s

/-- An offer at the asker it names (R115), also in an asking wait that a discarded FONT WANTED started (R113, log
entry 23). -/
def State.hearOfferToSelf (s : State) (h : Header) (font asker total : Nat) : State :=
  if s.station.takesPart ∧ asker = s.station.number then
    match s.fonts.takes font total with
    | some w => s.takeOffer w h.sender total
    | none => s
  else s

/-- Another station's offer at a channel in OFFER_PENDING for the same font and asker (R122). -/
def State.hearOtherOffer (s : State) (h : Header) (font asker : Nat) : State :=
  let o := s.fonts.outbound
  if o.mode = .offerPending ∧ o.font = font ∧ o.asker = asker ∧ s.isOwn h = false then
    s.mapOutbound fun _ => Outbound.rest
  else s

/-- FONT OFFER heard (R115, R122). -/
def execFontOffer (h : Header) (font asker total : Nat) (s : State) : Result :=
  .next (s.onFrame .fontOffer h fun s => (s.hearOfferToSelf h font asker total).hearOtherOffer h font asker)

/-- A take heard from the asker of the outbound channel's loan for its font (R122, R123). -/
def State.hearTake (s : State) (lender first : Nat) : State :=
  let o := s.fonts.outbound
  match o.mode with
  | .offerPending => s.mapOutbound fun _ => Outbound.rest
  | .offered =>
    let total := ((s.fonts.entry o.font).map DirEntry.total).getD 0
    if lender = s.station.number ∧ (first = 0 ∨ first = 2) ∧ first < total then
      State.queueLoanFrame (s.mapOutbound fun o => { o with mode := .sending, next := first, timer := none })
    else s.releaseLoan
  | _ => s

/-- FONT TAKE heard (R122, R123). -/
def execFontTake (h : Header) (font lender first : Nat) (s : State) : Result :=
  .next (s.onFrame .fontTake h fun s =>
    if h.sender = s.fonts.outbound.asker ∧ font = s.fonts.outbound.font then s.hearTake lender first else s)

/-- The TAKE wait expires (R123). -/
def execTakeWait (s : State) : Result :=
  .next (if s.fonts.outbound.mode = .offered ∧ s.fonts.outbound.timer.isSome then s.releaseLoan else s)

/-- A block heard while the channel is in LINE_LOAD from its lender for its font (R117, R118). -/
def State.hearBlock (s : State) (index : Nat) (data : List Byte) : State :=
  let i := s.fonts.inbound
  if index < i.next then s
  else if index = i.next then
    (s.mapInbound fun i => { i with next := i.next + 1, stall := some Config.stallTimer }).blockStored i.font data
  else s.endLineAttempt i.font

/-- FONT BLOCK heard (R118). -/
def execFontBlock (h : Header) (font index : Nat) (data : List Byte) (s : State) : Result :=
  .next (s.onFrame .fontBlock h fun s =>
    let i := s.fonts.inbound
    if i.mode = .lineLoad ∧ h.sender = i.lender ∧ font = i.font then s.hearBlock index data else s)

/-- The stall timer expires (R117, R119). -/
def execStallTimer (s : State) : Result :=
  .next
    (if s.fonts.inbound.mode = .lineLoad ∧ s.fonts.inbound.stall.isSome then s.endLineAttempt s.fonts.inbound.font
    else s)

end Sys2Proof.Machine
end

