-- ==== Sys2Proof/Machine/Rasters.lean ====
section
/-! DEFINITION. The proof controller's own operations: the dots of a band, the band ring, the start and the end of a
rasterizing, and the abandonment of proofs (chapter Proof Printing). -/

namespace Sys2Proof.Machine

/-! ## The dots of a band (R156 to R159) -/

/-- The proof dot of a film x (R157). -/
def proofDot (x : Int) : Int := 16 + x * 5 / 72

/-- The five dots of a code in a band row, none of them in a row its glyph does not occupy (R157). -/
def glyphDots (code row : Nat) : BitVec 5 :=
  if code ≤ 126 then (if 3 ≤ row ∧ row ≤ 9 then Config.glyphRow code (row - 2) else 0)
  else if 5 ≤ row ∧ row ≤ 9 then 31 else 0

/-- A cell's dots placed with its leftmost dot at `dot`; dots outside 0 to 1023 are not written (R157). -/
def placeDots (dots : BitVec 5) (dot : Int) : DotRow :=
  if 1023 < dot then 0
  else if 0 ≤ dot then dots.setWidth 1024 <<< dot.toNat
  else dots.setWidth 1024 >>> (-dot).toNat

/-- The glyphs of a run list in a band row, or-ed (R157). -/
def runDots (runs : List Run) (offset row : Nat) : DotRow :=
  (runs.flatMap Run.chars).foldl
    (fun acc (code, x) => acc ||| placeDots (glyphDots code row) (proofDot ((offset : Int) + x))) 0

/-- The margin letters of a record's flags in a band row: the two of highest rank, at dots 1 and 8 (R158). -/
def marginDots (flags : Flags) (row : Nat) : DotRow :=
  match flags.letters with
  | [] => 0
  | [a] => placeDots (glyphDots a row) 1
  | a :: b :: _ => placeDots (glyphDots a row) 1 ||| placeDots (glyphDots b row) 8

/-- The measure in dots (R159). -/
def measureDots (measure : Nat) : Nat := measure * 5 / 72

/-- The span that a reverse line inverts: dots 16 to 15 + md (R159). -/
def inversionSpan (measure : Nat) : DotRow := ((1#1024 <<< measureDots measure) - 1) <<< 16

/-- One row of a band, rows numbered 1 to 12 from the top (R156). -/
def Raster.row (r : Raster) (row : Nat) : DotRow :=
  match r.kind with
  | .blank => 0
  | .text =>
    let dots := runDots r.runs r.offset row ||| marginDots r.flags row
    if r.reverse ∧ r.runs ≠ [] then dots ^^^ inversionSpan r.measure else dots

/-! ## Rasterizing (R155, R156, R88) -/

/-- The conditions of R155 for the proof walk's next record. -/
def State.mayRasterize (s : State) : Bool :=
  s.proofer.raster.isNone && s.proofWanting &&
    (s.proofer.printer.state == .ready || s.proofer.printer.state == .printing) &&
    decide (s.proofer.ring.length + Config.bandRows ≤ Config.ringRows)

/-- The band's content fixed from the record, and the walk's operation in flight on it (R156, R85). -/
def State.startRaster (s : State) (r : QueueRecord) : State :=
  { s with
    queue := s.queue.map fun q => if q.attached ∧ q.name = r.name then { q with rasterizing := true } else q
    proofer :=
      { s.proofer with
        raster := some
          { kind := r.line.kind, runs := r.line.runs, offset := r.line.offset, measure := r.line.measure,
            reverse := r.line.reverse, flags := r.line.flags, rows := 0, timer := Config.rowWrite } } }

/-- The twelfth row has been added: the mark, the counter and the stamps of R88, or the stamps alone for a detached
record (R91). -/
def State.endRaster (s : State) : State :=
  let s := s.mapProofer fun p => { p with raster := none }
  match s.queue.find? QueueRecord.rasterizing with
  | none => s
  | some r =>
    let s := s.mapFonts fun fs => fs.stampUse r.line.fonts
    if r.attached then
      { s with
        queue := s.queue.map fun q => if q.rasterizing then { q with proofed := true, rasterizing := false } else q
        galleys := s.galleys.update r.line.galley fun g =>
          { g with counters := { g.counters with proofed := raised g.counters.proofed } } }
    else { s with queue := s.queue.map fun q => { q with rasterizing := false } }

/-- One row written into the ring (R156). -/
def State.writeRow (s : State) : State :=
  match s.proofer.raster with
  | none => s
  | some r =>
    let n := r.rows + 1
    let s := s.mapProofer fun p =>
      { p with ring := p.ring ++ [r.row n], raster := some { r with rows := n, timer := Config.rowWrite } }
    if n < Config.bandRows then s else s.endRaster

/-! ## Printing (R160, R163) -/

/-- The print of the oldest unprinted row begins (R160). -/
def Proofer.beginRow (p : Proofer) : Proofer :=
  match p.ring with
  | [] => p
  | dots :: _ => { p with printer := { p.printer with state := .printing, row := some { dots := dots, inRing := true } } }

/-- A row's print has ended: the row leaves the ring, and a PRINTING printer goes on with the next or returns to READY
(R160, R163, R166). -/
def Proofer.endRow (p : Proofer) : Proofer :=
  match p.printer.row with
  | none => p
  | some r =>
    let p : Proofer :=
      { p with ring := if r.inRing then p.ring.tail else p.ring, printer := { p.printer with row := none } }
    if p.printer.state = .printing then
      if p.ring = [] then { p with printer := { p.printer with state := .ready } } else p.beginRow
    else p

/-! ## Abandonment (R164) -/

/-- A record whose proof is abandoned: attached, needing proof, and not yet written. -/
def QueueRecord.unproofed (r : QueueRecord) : Bool := r.attached && r.line.needsProof && !r.proofed

/-- The galleys of such records, each once, in queue order. -/
def State.unproofedGalleys (s : State) : List GalleyId :=
  (s.queue.filter QueueRecord.unproofed).foldl
    (fun ids r => if r.line.galley ∈ ids then ids else ids ++ [r.line.galley]) []

/-- The abandonment: the marks, then a report for each galley marked (R164). -/
def State.abandonProofs (s : State) : State :=
  let ids := s.unproofedGalleys
  let s : State := { s with queue := s.queue.map fun r => if r.unproofed then { r with proofed := true } else r }
  ids.foldl (fun s id => s.report id .proofAbandoned 0) s

end Sys2Proof.Machine
end

