-- ==== Sys2Proof/Machine/Clock.lean ====
section
/-! DEFINITION. What the part does of itself while no command waits: the next event that is due, and the tick of the
millisecond time base (R180). The order in which events due together are taken is the model's (log entry 8). -/

namespace Sys2Proof.Machine

/-! ## Steps the part begins at the first moment it may -/

/-- The first of these steps that may begin now. -/
def State.readyStep (s : State) : Option Instr :=
  if s.proofer.printer.state = .ready ∧ s.proofer.printer.row.isNone ∧ s.proofer.ring ≠ [] then some .printStart
  else if s.mayRasterize then some .rasterizeStart
  else if s.exposureNext.any s.mayExpose then some .exposureStart
  else if s.takeable.isSome then some .inboundTakesEntry
  else if s.composer.state = .idle ∧ (s.galleys.head none).isSome then some .composerTakesHead
  else if s.composer.state = .running ∧ s.composer.todo.isEmpty then s.workingGalley.bind Galley.nextCommand
  else none

/-! ## Timers that have run out -/

/-- The event, if the timer has run out. -/
def expired (t : Option Nat) (i : Instr) : Option Instr := if t = some 0 then some i else none

/-- The timers of a watch entry. -/
def WatchEntry.due (w : WatchEntry) : Option Instr :=
  (expired w.delay (.claimDelayExpiry w.id)).or (if w.expiry = 0 then some (.watchExpiryTimer w.id) else none)

/-- The timer of a want entry, by its state (R102). -/
def Want.due (w : Want) : Option Instr :=
  match w.state with
  | .asking => expired w.timer .askingWait
  | .deferred => expired w.timer (.deferralLimit w.font)
  | .unavailable => expired w.timer (.retryWait w.font)
  | _ => none

/-- The timer of the outbound channel, by its mode. -/
def Outbound.dueEvent (o : Outbound) : Option Instr :=
  match o.mode with
  | .offerPending => expired o.timer .offerDelay
  | .offered => expired o.timer .takeWait
  | _ => none

/-- The turret's move has run its time. -/
def Turret.due : Turret → Option Instr
  | .moving _ _ left => if left = 0 then some .turretMoveEnd else none
  | _ => none

/-- The hold-off after a trip has run its time. -/
def Transport.due (t : Transport) : Option Instr :=
  match t.move with
  | some m =>
    match m.phase with
    | .holdOff left _ => if left = 0 then some .holdOff else none
    | _ => none
  | none => none

/-- The timers of the printer. -/
def Printer.due (p : Printer) : List (Option Instr) :=
  [expired p.idle .idleTimer, expired p.settling .settlingTimer, expired p.waking .wakingTimer,
    expired p.abandonment .abandonmentTimer]

/-- The first timer that has run out. -/
def State.expiredTimer (s : State) : Option Instr :=
  ([expired s.line.quiet .quietPeriodEnd] ++ s.galleys.watch.map WatchEntry.due ++
    [expired s.galleys.textTimer .textTimeout] ++ s.fonts.wants.map Want.due ++
    [expired s.fonts.inbound.stall .stallTimer, s.fonts.outbound.dueEvent, expired s.imaging.warmUp .warmUpTimer,
      expired s.imaging.standby .standbyTimer, s.imaging.turret.due, s.transport.due,
      expired (s.proofer.raster.map Raster.timer) .rowWritten] ++
    s.proofer.printer.due).findSome? id

/-- The event that is due now. -/
def State.dueEvent (s : State) : Option Instr := s.readyStep.or s.expiredTimer

/-! ## The tick (R180) -/

/-- A running timer counts one millisecond. -/
def countDown (t : Option Nat) : Option Nat := t.map fun n => n - 1

def WatchEntry.tick (w : WatchEntry) : WatchEntry := { w with delay := countDown w.delay, expiry := w.expiry - 1 }

def Want.tick (w : Want) : Want := { w with timer := countDown w.timer }

def Inbound.tick (i : Inbound) : Inbound := { i with stall := countDown i.stall, read := countDown i.read }

def FontStore.tick (fs : FontStore) : FontStore :=
  { fs with
    wants := fs.wants.map Want.tick, inbound := fs.inbound.tick, catalogTimer := countDown fs.catalogTimer
    outbound := { fs.outbound with timer := countDown fs.outbound.timer } }

def Turret.tick : Turret → Turret
  | .moving source target left => .moving source target (left - 1)
  | t => t

def Imaging.tick (i : Imaging) : Imaging :=
  { i with warmUp := countDown i.warmUp, standby := countDown i.standby, turret := i.turret.tick }

def MovePhase.tick : MovePhase → MovePhase
  | .holdOff left n => .holdOff (left - 1) n
  | p => p

def Transport.tick (t : Transport) : Transport :=
  { t with move := t.move.map fun m => { m with phase := m.phase.tick } }

def Printer.tick (p : Printer) : Printer :=
  { p with
    idle := countDown p.idle, settling := countDown p.settling, waking := countDown p.waking
    abandonment := countDown p.abandonment }

def Proofer.tick (p : Proofer) : Proofer :=
  { p with raster := p.raster.map fun r => { r with timer := r.timer - 1 }, printer := p.printer.tick }

/-- One millisecond passes: the time base counts it, and every running timer with it. -/
def State.tick (s : State) : State :=
  { s with
    station := { s.station with timeBase := s.station.timeBase + 1 }
    line := { s.line with quiet := countDown s.line.quiet }
    galleys :=
      { s.galleys with watch := s.galleys.watch.map WatchEntry.tick, textTimer := countDown s.galleys.textTimer }
    fonts := s.fonts.tick
    imaging := s.imaging.tick
    transport := s.transport.tick
    proofer := s.proofer.tick }

end Sys2Proof.Machine
end

