-- ==== Sys2Proof/Machine/ComposerUnits.lean ====
section
/-! DEFINITION. The setting units as the composer takes them (chapter Setting Codes). A unit that is not the one handed
over next, or that comes while the composer takes none, changes nothing (log entry 1). -/

namespace Sys2Proof.Machine

/-! ## Taking a unit -/

/-- A unit that changes the composer alone: it is consumed, it acts, and the composer asks for the next (R16, R25). -/
def State.takeUnit (s : State) (i : Instr) (f : Composer → Composer) : State :=
  if s.taking i then State.askNext (s.consumeUnit.mapComposer f) else s

/-- A unit that changes the setting parameters alone. -/
def State.takeParam (s : State) (i : Instr) (f : Params → Params) : State :=
  s.takeUnit i fun c => { c with params := f c.params }

/-- A consumed unit gives the composer these tasks (R54). -/
def State.work (s : State) (tasks : List Task) : State :=
  s.event fun s => s.mapComposer fun c => { c with todo := tasks }

/-- A unit that ends the word in progress: it is consumed and gives the composer its tasks. -/
def State.takeTasks (s : State) (i : Instr) (tasks : List Task) : State :=
  if s.taking i then s.consumeUnit.work tasks else s

/-! ## Character units (R26, R39, R45 to R49) -/

/-- A character unit inside an open learn sequence goes to the learn word (R39). -/
def State.learnCharacter (s : State) (code : Nat) : State :=
  State.askNext
    (s.consumeUnit.mapParams fun p => { p with learn := p.learn.map fun w => w.take code })

/-- The word in progress with one more box. -/
def Word.add (w : Word) (b : Box) (substituted : Bool) : Word :=
  { w with boxes := w.boxes ++ [b], substituted := w.substituted || substituted }

/-- The box would pass the limits of a word (R49). -/
def Word.full (w : Word) (b : Box) : Bool :=
  decide (Config.maxCharacters < boxesChars (w.boxes ++ [b])) ||
    decide (Config.maxFonts < (fontsOf (w.boxes ++ [b])).length)

/-- A character unit taken with a font that is at least METRICS, `substituted` if it is the fallback in place of the
current font (R45, R47, R49). -/
def State.setCharacter (s : State) (code font : Nat) (substituted : Bool) : State :=
  let p := s.composer.params
  let s := s.consumeUnit
  match ((s.fonts.metricsOf font).bind fun m => m.width code) with
  | none =>
    State.askNext
      (s.mapComposer fun c =>
        { c with word := { c.word with missing := true, substituted := c.word.substituted || substituted } })
  | some w =>
    let b := Box.char code font p.size (characterWidth w p.track p.size)
    if s.composer.word.full b then s.work [.test, .begin b substituted, .ask]
    else State.askNext (State.recount (s.mapComposer fun c => { c with word := c.word.add b substituted }))

/-- The check of R46 for a character unit, and R47 where its font is UNAVAILABLE. -/
def State.checkFont (s : State) (g : Galley) (code : Nat) : State :=
  let font := s.composer.params.font
  if s.fonts.atLeastMetrics font then s.setCharacter code font false
  else if s.fonts.isUnavailable font then
    let s := s.raiseDemand .composer font
    match s.applyPolicy g font with
    | .goOn fallback => s.setCharacter code fallback true
    | .stay s' => s'
  else s.waitForFont font

/-- A character unit taken (R26). -/
def State.takeCharacter (s : State) (g : Galley) (code : Nat) : State :=
  if s.composer.params.learn.isSome then s.learnCharacter code
  else if code = 32 then s.consumeUnit.work [.test, .space, .ask]
  else s.checkFont g code

/-- A character unit of code 32 to 255. -/
def execCharacterUnit (code : Nat) (s : State) : Result :=
  match s.workingGalley with
  | some g => .next (if s.taking (.characterUnit code) then s.takeCharacter g code else s)
  | none => .next s

/-- A unit that the composer ignores: it is consumed and changes nothing else (R25). -/
def execIgnoredUnit (u : CodeWord) (s : State) : Result := .next (s.takeUnit (.ignoredUnit u) id)

/-! ## Setting parameters (R28 to R32, R37, R38) -/

/-- FONT (R28). -/
def execFont (p : Nat) (s : State) : Result := .next (s.takeParam (.font p) fun q => { q with font := p })

/-- SIZE (R28). -/
def execSize (p : Nat) (s : State) : Result :=
  .next (s.takeParam (.size p) fun q => { q with size := clamp p 10 288 })

/-- TRACK: parameter less 8, at most +8 (R28). -/
def execTrack (p : Nat) (s : State) : Result :=
  .next (s.takeParam (.track p) fun q => { q with track := ((min p 16 : Nat) : Int) - 8 })

/-- A measure takes effect at once on an empty line, and at the next close otherwise (R29). -/
def Composer.setMeasure (c : Composer) (m : Nat) : Composer :=
  { c with
    params :=
      if c.lineEmpty then { c.params with measure := m } else { c.params with deferredMeasure := some m } }

/-- An indent takes effect at once on an empty line, and at the next close otherwise (R29). -/
def Composer.setIndent (c : Composer) (m : Nat) : Composer :=
  { c with
    params := if c.lineEmpty then { c.params with indent := m } else { c.params with deferredIndent := some m } }

/-- MEASURE (R29). -/
def execMeasure (p : Nat) (s : State) : Result :=
  .next (s.takeUnit (.measure p) fun c => c.setMeasure (20 * clamp p 6 720))

/-- INDENT (R29). -/
def execIndent (p : Nat) (s : State) : Result := .next (s.takeUnit (.indent p) fun c => c.setIndent (20 * p))

/-- LEAD (R31). -/
def execLead (p : Nat) (s : State) : Result :=
  .next (s.takeParam (.lead p) fun q => { q with leading := 5 * min p 576 })

/-- The quad mode of a parameter (R30). -/
def quadOf (p : Nat) : Quad :=
  match p with
  | 0 => .left
  | 1 => .right
  | 2 => .center
  | _ => .justify

/-- QUAD (R30). -/
def execQuad (p : Nat) (s : State) : Result := .next (s.takeParam (.quad p) fun q => { q with quad := quadOf p })

/-- OFFSET (R31). -/
def execOffset (p : Nat) (s : State) : Result :=
  .next (s.takeParam (.offset p) fun q => { q with offset := 20 * min p 720 })

/-- HYPHENATE (R32). -/
def execHyphenate (p : Nat) (s : State) : Result :=
  .next (s.takeParam (.hyphenate p) fun q => { q with hyphenation := p != 0 })

/-- LADDER (R32). -/
def execLadder (p : Nat) (s : State) : Result :=
  .next (s.takeParam (.ladder p) fun q => { q with ladderLimit := clamp p 1 7 })

/-- LETTERSPACE (R31). -/
def execLetterspace (p : Nat) (s : State) : Result :=
  .next (s.takeParam (.letterspace p) fun q => { q with letterspaceCap := min p 40 })

/-- REVERSE (R31). -/
def execReverse (p : Nat) (s : State) : Result :=
  .next (s.takeParam (.reverse p) fun q => { q with reverse := p != 0 })

/-- DENSITY: parameter less 2, at most +2 (R31). -/
def execDensity (p : Nat) (s : State) : Result :=
  .next (s.takeParam (.density p) fun q => { q with trim := ((min p 4 : Nat) : Int) - 2 })

/-- ADVANCE (R37). -/
def execAdvance (p : Nat) (s : State) : Result :=
  .next (s.takeParam (.advance p) fun q =>
    { q with pendingAdvance := min Config.maxPendingMove (q.pendingAdvance + 5 * p) })

/-- BACK (R37). -/
def execBack (p : Nat) (s : State) : Result :=
  .next (s.takeParam (.back p) fun q =>
    { q with pendingBack := min Config.maxPendingMove (q.pendingBack + 5 * p) })

/-- CUT (R38). -/
def execCut (s : State) : Result := .next (s.takeParam .cut fun q => { q with cut := true })

/-! ## Units inside a word (R33, R34, R39) -/

/-- FIXED SPACE: a box of the word, or a spoiled learn word (R33, R39). -/
def Composer.takeFixedSpace (c : Composer) (kind : Nat) : Composer :=
  match c.params.learn with
  | some w => { c with params := { c.params with learn := some w.spoil } }
  | none => { c with word := c.word.add (.fixed (fixedSpaceWidth kind c.params.size)) false }

/-- FIXED SPACE of kind 1, 2 or 3 (R33). -/
def execFixedSpace (p : Nat) (s : State) : Result :=
  .next (s.takeUnit (.fixedSpace p) fun c => c.takeFixedSpace p)

/-- SOFT HYPHEN: a point of the word at its box count, or of the learn word (R34, R39). -/
def Composer.takeSoftHyphen (c : Composer) : Composer :=
  match c.params.learn with
  | some w => { c with params := { c.params with learn := some w.mark } }
  | none =>
    let n := c.word.boxes.length
    if n = 0 ∨ n ∈ c.word.soft then c else { c with word := { c.word with soft := c.word.soft ++ [n] } }

/-- SOFT HYPHEN (R34). -/
def execSoftHyphen (s : State) : Result := .next (s.takeUnit .softHyphen Composer.takeSoftHyphen)

/-- LEARN (R39). -/
def execLearn (p : Nat) (s : State) : Result :=
  .next (s.takeParam (.learn p) fun q =>
    { q with learn := some { never := p == 1, letters := [], points := [], valid := true } })

/-- A learned word is entered and WORD LEARNED is queued (R76, R77). -/
def State.learnWord (s : State) (never : Bool) (letters points : List Nat) : State :=
  State.send { s with hyphenation := s.hyphenation.learnLocal letters never points } .wordLearned 0
    (wordLearnedBody never letters points) .hyphenation

/-- The open learn sequence is closed and its word handed on, or discarded (R40). -/
def State.closeLearn (s : State) : State :=
  let word := s.composer.params.learn.bind LearnWord.handed
  let s := s.mapParams fun q => { q with learn := none }
  match word with
  | some (never, letters, points) => s.learnWord never letters points
  | none => s

/-- END LEARN (R40). -/
def execEndLearn (s : State) : Result :=
  .next (if s.taking .endLearn then State.askNext s.consumeUnit.closeLearn else s)

/-! ## Ending lines, paragraphs and the galley (R35, R36, R41) -/

/-- END LINE (R35). -/
def execEndLine (s : State) : Result := .next (s.takeTasks .endLine [.test, .close false, .ask])

/-- END PARA (R36). -/
def execEndPara (s : State) : Result := .next (s.takeTasks .endPara [.test, .close true, .ask])

/-- END GALLEY, in the text or supplied (R16, R41). -/
def execEndGalley (s : State) : Result :=
  match s.workingGalley with
  | some g =>
    .next
      (if s.taking .endGalley then
        let s := s.mapGalleys fun gu => gu.update g.id fun g => { g with compositionEnded := true }
        s.consumeUnit.work [.test, .closeLast, .closeCut, .finish]
      else s)
  | none => .next s

/-! ## Words heard (R78 to R80) -/

/-- A learned word heard from another station (R78). -/
def State.hearWord (s : State) (h : Header) (body : List Byte) : State :=
  if s.isOwn h then s
  else
    match readWord body with
    | some (never, letters, points) =>
      { s with hyphenation := s.hyphenation.learnHeard letters never points h.sender }
    | none => s

/-- WORD LEARNED heard (R78). -/
def execWordLearned (h : Header) (body : List Byte) (s : State) : Result :=
  .next (s.onFrame .wordLearned h fun s => s.hearWord h body)

end Sys2Proof.Machine
end

