-- ==== Sys2Proof/Machine/FilmEvents.lean ====
section
/-! DEFINITION. The commands of the film transport: strokes, trips, reverses and the knife, and the cassettes (chapter
Film Transport). -/

namespace Sys2Proof.Machine

/-! ## Strokes, reverses and the knife -/

/-- A stroke of `n` minims of move `m` has completed (R145, R149, R152). -/
def State.strokeDone (s : State) (m : Move) (n : Nat) : State :=
  let s := s.mapTransport fun t => { t.forward n with trips := 0 }
  let left := m.left - n
  if m.ending then s.mapTransport Transport.atRest
  else if 0 < left then s.mapTransport fun t => { t with move := some { m with left := left, phase := nextStroke left } }
  else if m.kind = .leadOut then s.mapTransport fun t => { t with move := some { m with left := 0, phase := .knife } }
  else (s.mapTransport Transport.atRest).enterBackground

/-- A stroke completes (R145). -/
def execStrokeCompleted (samples : List Bool) (s : State) : Result :=
  match s.transport.move with
  | some m =>
    match m.phase with
    | .stroke n => .next (if completedSamples samples then s.event fun s => s.strokeDone m n else s)
    | _ => .next s
  | none => .next s

/-- A stroke of `n` minims of move `m` has tripped (R147, R152). -/
def State.strokeTripped (s : State) (m : Move) (n : Nat) : State :=
  if m.ending then s.mapTransport Transport.atRest
  else
    let trips := s.transport.trips + 1
    if trips < 8 then
      s.mapTransport fun t => { t with trips := trips, move := some { m with phase := .holdOff Config.holdOff n } }
    else (s.mapTransport fun t => { t with state := .jammed, trips := 8, move := none }).stopExposure .jam

/-- A stroke trips (R146, R147). -/
def execStrokeTrip (samples : List Bool) (s : State) : Result :=
  match s.transport.move with
  | some m =>
    match m.phase with
    | .stroke n => .next (if trippedSamples samples then s.event fun s => s.strokeTripped m n else s)
    | _ => .next s
  | none => .next s

/-- The hold-off ends: a stroke of the tripped one's length begins (R147). -/
def execHoldOff (s : State) : Result :=
  match s.transport.move with
  | some m =>
    match m.phase with
    | .holdOff _ n => .next (s.mapTransport fun t => { t with move := some { m with phase := .stroke n } })
    | _ => .next s
  | none => .next s

/-- A reverse motion has ended (R148, R152). -/
def State.reversed (s : State) (m : Move) : State :=
  let s := s.mapTransport fun t => (t.reverse m.left).atRest
  if m.ending then s else s.enterBackground

/-- A reverse motion ends (R148). -/
def execReverseDone (s : State) : Result :=
  match s.transport.move with
  | some m =>
    match m.phase with
    | .reversing => .next (s.event fun s => s.reversed m)
    | _ => .next s
  | none => .next s

/-- The knife stroke has completed (R149, R152). -/
def State.knifed (s : State) (m : Move) : State :=
  let s := s.mapTransport fun t => { t.atRest with depth := 0 }
  if m.ending then s else s.endExposure

/-- The knife stroke completes (R149). -/
def execKnifeDone (s : State) : Result :=
  match s.transport.move with
  | some m =>
    match m.phase with
    | .knife => .next (s.event fun s => s.knifed m)
    | _ => .next s
  | none => .next s

/-! ## Cassettes (R142 to R144, R151) -/

/-- An insertion that leaves both cassettes present takes the transport from NO_CASSETTE to IDLE, and every galley
suspended for FILM resumes (R130, R144). -/
def State.cassetteMounted (s : State) : State :=
  if s.transport.state = .noCassette ∧ s.transport.bothPresent then
    (s.mapTransport fun t => { t with state := .idle }).resumeAll fun why => why == .film
  else s

/-- A supply cassette is inserted; one whose code is not valid changes nothing (R141, R142). An insertion cannot come
while the drive is in motion; one reported in IDLE resets the counters and keeps IDLE (log entry 27). -/
def execSupplyInsertion (lengthCode stockCode : Nat) (s : State) : Result :=
  if s.transport.inMotion then .next s
  else
    match supplyLengthOf lengthCode, Stock.ofCode stockCode with
    | some n, some stock => .next (s.event fun s => (s.mapTransport fun t => t.mountSupply n stock).cassetteMounted)
    | _, _ => .next s

/-- A take-up cassette is inserted (R143). An insertion cannot come while the drive is in motion; one reported in IDLE resets
the counters and keeps IDLE (log entry 27). -/
def execTakeUpInsertion (s : State) : Result :=
  if s.transport.inMotion then .next s
  else .next (s.event fun s => (s.mapTransport Transport.mountTakeUp).cassetteMounted)

/-- A cassette is taken out: the transport leaves its state, and an exposure in progress ends (R136, R144, R151). A
transport in JAMMED stays so and has no exposure to end. -/
def State.dismount (s : State) (clear : Transport → Transport) : State :=
  (s.mapTransport fun t => clear t.dismounted).stopExposure .film

/-- A supply cassette is removed; an invalid one's removal changes nothing (R142, R151). -/
def execSupplyRemoval (s : State) : Result :=
  .next (if s.transport.supplyPresent then s.event fun s => s.dismount Transport.clearSupply else s)

/-- The take-up cassette is removed (R143, R151). -/
def execTakeUpRemoval (s : State) : Result :=
  .next
    (if s.transport.takeUpPresent then s.event fun s => s.dismount fun t => { t with takeUpPresent := false } else s)

end Sys2Proof.Machine
end

