-- ==== Sys2Proof/Machine/GalleyEvents.lean ====
section
/-! DEFINITION. The commands of the galley unit: postings, claims, cancels, text, proof requests and the composer's
taking of the head (chapter Galleys). -/

namespace Sys2Proof.Machine

/-! ## Postings (R1, R2) -/

/-- The posting is well formed, its coded fields being read (R1). -/
def Posting.wellPosted (p : Posting) : Bool :=
  decide (1 ≤ p.id.poster) && decide (p.id.poster ≤ 30) && decide (1 ≤ p.fonts.length) &&
    decide (p.fonts.length ≤ 8) && p.fonts.all (fun f => decide (1 ≤ f) && decide (f ≤ 1023)) &&
    decide (1 ≤ p.length)

/-- Watch entries whose claim is still under way (R1, condition 5). -/
def WatchEntry.contending (w : WatchEntry) : Bool := w.state != .settled

/-- The printer sleeps, or is entering sleep (R2). -/
def Printer.sleeps (p : Printer) : Bool := p.state == .asleep || p.state == .settling

/-- Conditions 1 to 8 of R1. -/
def State.canTake (s : State) (id : GalleyId) (mode : GalleyMode) (stock : Stock) : Bool :=
  s.station.takesPart && s.station.mode == .running &&
    decide (s.galleys.watch.length < Config.watchCapacity) &&
    (s.galleys.findWatch id).isNone && (s.galleys.find id).isNone &&
    decide (s.galleys.watch.countP WatchEntry.contending < Config.tableCapacity - s.galleys.table.length) &&
    s.transport.state != .jammed && !s.transport.withoutFilm && s.transport.stock == some stock &&
    !(mode.wantsProof && s.proofer.printer.state == .paperOut)

/-- The fonts of a list that are neither in the directory nor in the catalog, repeats counted (R2). -/
def State.absentFonts (s : State) (fonts : List Nat) : Nat :=
  fonts.countP fun f => (s.fonts.entry f).isNone && (s.fonts.catalogEntry f).isNone

/-- The claim delay (R2). -/
def State.claimDelay (s : State) (priority : Priority) (mode : GalleyMode) (fonts : List Nat) : Nat :=
  let d :=
    4 + 8 * s.absentFonts fonts + 6 * s.galleys.table.length +
      64 * (if s.transport.remaining < Config.filmLow then 1 else 0) +
      32 * (if mode.wantsProof && s.proofer.printer.sleeps then 1 else 0)
  clamp (if priority = .rush then d / 2 else d) 2 255

/-- A watch entry in CONSIDERING with its claim delay and its expiry running (R1, R2). -/
def State.watchPosting (s : State) (p : Posting) (priority : Priority) (mode : GalleyMode) (policy : FontPolicy) :
    State :=
  let d := s.claimDelay priority mode p.fonts
  s.mapGalleys fun gu =>
    { gu with
      watch := gu.watch ++
        [{ id := p.id, priority := priority, mode := mode, firstLine := firstLineOf p.firstLine,
           lastLine := p.lastLine, fonts := p.fonts, policy := policy, length := p.length, claimDelay := d,
           delay := some d, state := .considering, expiry := Config.watchExpiry }] }

/-- The galley unit hears a posting (R1). -/
def State.hearPosting (s : State) (p : Posting) : State :=
  match Priority.ofCode p.priority, GalleyMode.ofCode p.mode, Stock.ofCode p.stock, FontPolicy.ofCode p.policy with
  | some priority, some mode, some stock, some policy =>
    if Posting.wellPosted p ∧ s.canTake p.id mode stock then s.watchPosting p priority mode policy else s
  | _, _, _, _ => s

/-- GALLEY POSTED heard (R1). -/
def execGalleyPosted (h : Header) (p : Posting) (s : State) : Result :=
  .next (s.onFrame .galleyPosted h fun s => s.hearPosting p)

/-! ## Claims (R3 to R7) -/

/-- The claim delay of a CONSIDERING entry expires (R3). -/
def execClaimDelayExpiry (id : GalleyId) (s : State) : Result :=
  match s.galleys.findWatch id with
  | some w =>
    if w.state = .considering then
      let (l, taken) := s.line.offer s.station.takesPart .galleyClaim 0 (claimBody id) (.claim id)
      .next
        { s with
          line := l
          galleys := s.galleys.updateWatch id fun w =>
            { w with delay := none, state := if taken then .claimQueued else .settled } }
    else .next s
  | none => .next s

/-- A watch entry's 2000 ms timer expires (R6). -/
def execWatchExpiryTimer (id : GalleyId) (s : State) : Result := .next (s.dropWatch id)

/-- Segments expected of a text (R7). -/
def segmentsOf (length : Nat) : Nat := (length + (Config.slotUnits - 1)) / Config.slotUnits

/-- The galley record of a watch entry (R7). -/
def WatchEntry.record (w : WatchEntry) (stamp : Nat) : Galley where
  id := w.id
  priority := w.priority
  mode := w.mode
  firstLine := w.firstLine
  lastLine := w.lastLine
  fonts := w.fonts
  policy := w.policy
  fallback := w.fonts.headD 0
  length := w.length
  expected := segmentsOf w.length
  nextSegment := 0
  granted := none
  creditUnsent := false
  segments := []
  unitsRead := 0
  consumed := 0
  state := .waiting
  suspension := none
  compositionEnded := false
  cancelPending := false
  counters := Counters.zero
  stamp := stamp

/-- The station holds the galley of its claim (R5, R7, R103). -/
def State.holdGalley (s : State) (w : WatchEntry) : State :=
  let s := s.mapGalleys fun gu =>
    { gu.removeWatch w.id with
      table := gu.table ++ [w.record gu.claimCount], claimCount := gu.claimCount + 1 }
  let s := State.evaluateCredit (s.report w.id .accepted 0)
  s.mapFonts fun fs => (distinct w.fonts).foldl FontStore.prefetch fs

/-- Another station's claim at the watch list (R4). -/
def State.hearOtherClaim (s : State) (w : WatchEntry) : State :=
  let s := if w.state = .claimQueued then s.withdrawClaim w.id else s
  s.settleWatch w.id

/-- The station's own claim (R5). -/
def State.hearOwnClaim (s : State) (w : WatchEntry) : State :=
  if (w.state = .claimSent ∨ w.state = .claimQueued) ∧ s.galleys.table.length < Config.tableCapacity then
    s.holdGalley w
  else s

/-- GALLEY CLAIM heard (R4, R5). -/
def execGalleyClaim (h : Header) (id : GalleyId) (s : State) : Result :=
  .next (s.onFrame .galleyClaim h fun s =>
    match s.galleys.findWatch id with
    | none => s
    | some w => if s.isOwn h then s.hearOwnClaim w else s.hearOtherClaim w)

/-! ## Cancels (R18 to R20) -/

/-- The exposure of one of the galley's records is in flight (R18). -/
def State.exposingGalley (s : State) (id : GalleyId) : Bool :=
  s.queue.any fun r => r.attached && r.exposing && r.line.galley == id

/-- Cancel pending is set: the composer is released from the galley (R18). -/
def State.pendCancel (s : State) (id : GalleyId) : State :=
  let s := s.mapGalleys fun gu => gu.update id fun g => { g with cancelPending := true }
  if s.composer.galley = some id then State.evaluateCredit s.releaseComposer else s

/-- GALLEY CANCEL heard (R18, R20). -/
def execGalleyCancel (h : Header) (id : GalleyId) (s : State) : Result :=
  .next (s.onFrame .galleyCancel h fun s =>
    match s.galleys.find id with
    | some g =>
      if g.cancelPending then s
      else if s.exposingGalley id then s.pendCancel id
      else s.event fun s => s.abort id .cancelled
    | none => s.dropWatch id)

/-! ## Text (R12, R15, R17) -/

/-- The unit count that a segment's number calls for (R7). -/
def Galley.unitsOf (g : Galley) (number : Nat) : Nat :=
  if number + 1 = g.expected then g.length - Config.slotUnits * (g.expected - 1) else Config.slotUnits

/-- The segment's number is within the grant (R15). -/
def Galley.within (g : Galley) (number : Nat) : Bool :=
  match g.granted with
  | some limit => decide (number ≤ limit)
  | none => false

/-- A segment stored in a slot of the galley; a composer in WAIT_TEXT on it goes on (R15, R17). -/
def State.storeSegment (s : State) (id : GalleyId) (units : List CodeWord) : State :=
  let s := s.mapGalleys fun gu => gu.update id fun g =>
    { g with segments := g.segments ++ [units], nextSegment := g.nextSegment + 1 }
  if s.composer.state = .waitText ∧ s.composer.galley = some id then
    { s with
      composer := { s.composer with state := .running }
      galleys := { s.galleys with textTimer := none } }
  else s

/-- A segment heard (R15). -/
def State.hearSegment (s : State) (id : GalleyId) (number : Nat) (units : List CodeWord) : State :=
  match s.galleys.find id with
  | none => s
  | some g =>
    if g.cancelPending ∨ g.state = .draining ∨ g.compositionEnded ∨ number < g.nextSegment then s
    else if number = g.nextSegment ∧ g.within number ∧ units.length = g.unitsOf number then s.storeSegment id units
    else s.event fun s => s.abort id .textFault

/-- TEXT SEGMENT heard (R15). -/
def execTextSegment (h : Header) (id : GalleyId) (number : Nat) (units : List CodeWord) (s : State) : Result :=
  .next (s.onFrame .textSegment h fun s => s.hearSegment id number units)

/-- TEXT CREDIT heard: dropped (R176). -/
def execTextCredit (h : Header) (_id : GalleyId) (_limit : Nat) (s : State) : Result :=
  .next (s.onFrame .textCredit h fun s => s)

/-- GALLEY REPORT heard: dropped (R176). -/
def execGalleyReport (h : Header) (_id : GalleyId) (_event _reason : Nat) (_counters : List Nat) (s : State) :
    Result :=
  .next (s.onFrame .galleyReport h fun s => s)

/-- The text timer of the galley the composer waits on expires (R17). -/
def execTextTimeout (s : State) : Result :=
  match s.galleys.textTimer, s.composer.galley with
  | some _, some id => .next (s.event fun s => s.abortUnlessCancelled id .textTimeout)
  | _, _ => .next s

/-! ## Proof requests (R21) -/

/-- A proof request granted: FILM becomes BOTH, and the range is replaced. -/
def Galley.grantProof (g : Galley) (first last : Nat) : Galley :=
  { g with
    mode := if g.mode = .film then .both else g.mode, firstLine := firstLineOf first, lastLine := last }

/-- A proof request heard (R21). -/
def State.hearProofWanted (s : State) (id : GalleyId) (first last : Nat) : State :=
  match s.galleys.find id with
  | some g =>
    if g.state = .waiting then s.mapGalleys fun gu => gu.update id fun g => g.grantProof first last
    else s.report id .proofRefused 0
  | none => s.sendReport id .proofRefused 0 Counters.zero

/-- PROOF WANTED heard (R21). -/
def execProofWanted (h : Header) (id : GalleyId) (first last : Nat) (s : State) : Result :=
  .next (s.onFrame .proofWanted h fun s => s.hearProofWanted id first last)

/-! ## The composer takes the head (R8, R27) -/

/-- The composer RUNNING on a galley, its parameters at the galley start values (R27). -/
def Composer.start (g : Galley) : Composer :=
  { Composer.rest with state := .running, galley := some g.id, params := Params.start g.fallback }

/-- A WAITING galley taken by the composer (R8). -/
def State.takeHead (s : State) (g : Galley) : State :=
  let s : State :=
    { s with
      composer := Composer.start g
      galleys := s.galleys.update g.id fun g => { g with state := .composing } }
  State.askNext (State.evaluateCredit (s.report g.id .started 0))

/-- The IDLE composer takes the compose head (R8, R43). -/
def execComposerTakesHead (s : State) : Result :=
  if s.composer.state = .idle then
    match s.galleys.head none with
    | some id =>
      match s.galleys.find id with
      | some g => .next (s.takeHead g)
      | none => .next s
    | none => .next s
  else .next s

end Sys2Proof.Machine
end

