-- ==== Sys2Proof/Machine/ImagingEvents.lean ====
section
/-! DEFINITION. The commands of the imaging controller (chapter Exposure). -/

namespace Sys2Proof.Machine

/-- The warm-up timer expires (R127): READY, with the turret homed to band 0 by then (R128). -/
def execWarmUpTimer (s : State) : Result :=
  .next
    (if s.imaging.state = .warming then
      s.event fun s => s.mapImaging fun i =>
        { i with state := .ready, warmUp := none, turret := if i.turret = .homing then .standing 0 else i.turret }
    else s)

/-- The standby timer expires (R127). -/
def execStandbyTimer (s : State) : Result :=
  .next
    (if s.imaging.state = .ready ∧ s.imaging.standby.isSome then
      s.event fun s => s.mapImaging fun i => { i with state := .standby, standby := none }
    else s)

/-- The exposure of the walk's next record begins, if R131 lets it. -/
def execExposureStart (s : State) : Result :=
  match s.exposureNext with
  | some r => .next (if s.mayExpose r then s.event fun s => s.startExposure r else s)
  | none => .next s

/-- A turret move, or the homing, ends (R128): what waits for the turret goes on. -/
def execTurretMoveEnd (s : State) : Result :=
  match s.imaging.turret with
  | .standing _ => .next s
  | _ => .next (s.event fun s => (s.mapImaging fun i => { i with turret := i.turret.landed }).turretReady)

/-- The background pass is complete: stage CUT follows (R133). -/
def execBackgroundPass (s : State) : Result :=
  match s.imaging.exposure, s.exposingRecord with
  | some e, some r =>
    .next
      (if e.field.isSome then s.event fun s => (s.mapExposure fun e => { e with field := none }).enterCut r.line else s)
  | _, _ => .next s

/-- A flash is complete: the next follows (R135). -/
def execFlashDone (s : State) : Result :=
  match s.imaging.exposure, s.exposingRecord with
  | some e, some r =>
    let e' : Exposure := { e with flash := none, char := e.char + 1 }
    .next (if e.flash.isSome then s.event fun s => (s.mapExposure fun _ => e').continueRuns r.line e' else s)
  | _, _ => .next s

end Sys2Proof.Machine
end

