-- ==== Sys2Proof/Machine/LineEvents.lean ====
section
/-! DEFINITION. The commands of the line interface: the quiet period, contention, arbitration, a frame's leaving the line
and a frame's being discarded (chapter The Shop Line). -/

namespace Sys2Proof.Machine

/-- The quiet period of 250 ms ends (R177). -/
def execQuietPeriodEnd (s : State) : Result := .next (s.mapLine fun l => { l with quiet := none })

/-- The line interface may contend (R169): the station takes part, no quiet period runs, a descriptor waits, and no
hold-off is in force. -/
def State.mayContend (s : State) : Bool :=
  s.station.takesPart && s.line.quiet.isNone && !s.line.queue.isEmpty && !s.line.holdOff

/-- The head of the transmit queue begins to be sent. -/
def Line.contend (l : Line) (station : Nat) : Line :=
  match l.queue with
  | [] => l
  | d :: rest =>
    { l with
      queue := rest
      flight := some { desc := d, stage := .arbitrating, withdrawn := false, disowned := false }
      driven := stuff (frameBits (buildFrame d.kind station d.dest d.body)) }

/-- Twelve recessive bit times have been seen: the opportunity is taken or passes (R169), and a silent one ends the
hold-off (R170). `other`: another party begins a frame at it. -/
def execContentionOpportunity (other : Bool) (s : State) : Result :=
  if s.line.flight.isSome then .next s
  else
    let ready := s.mayContend
    .next (s.mapLine fun l =>
      let l := { l with idleBits := Config.idleBits, resync := false }
      if ready then l.contend s.station.number
      else if other then l
      else { l with holdOff := false })

/-- The station reads the arbitration field as the line carried it (R169): it has lost where it sent a recessive bit and
read a dominant one. -/
def lostArbitration (sent read : BitVec 7) : Bool := sent &&& ~~~read != 0

/-- A lost descriptor returned to waiting in its place (R169). A report that finds a younger one of its galley waiting is
replaced by it, which takes its place and age, so that one report of the galley waits (R172, log entry 21). -/
def Line.returned (l : Line) (d : Descriptor) : List Descriptor :=
  match l.waitingReport d.owner with
  | some younger => insertBy Descriptor.precedes { younger with age := d.age } (l.queue.erase younger)
  | none => insertBy Descriptor.precedes d l.queue

/-- A lost descriptor returns to waiting, or is removed if it was withdrawn (R169, R174). -/
def Line.lose (l : Line) (f : Flight) : Line :=
  { l with queue := if f.withdrawn then l.queue else l.returned f.desc, flight := none, driven := [] }

/-- The end of the arbitration field of a frame the station contends with (R169). A withdrawn frame of the outbound channel
is gone with its loss, and the frame that stood behind it is queued (R171, R174). -/
def execEndOfArbitration (read : BitVec 7) (s : State) : Result :=
  match s.line.flight with
  | some f =>
    match f.stage with
    | .arbitrating =>
      if lostArbitration (arbitrationField f.desc.kind s.station.number) read then
        let s := s.mapLine fun l => l.lose f
        .next (if f.withdrawn ∧ f.desc.owner = .outbound then s.offerDueFrame else s)
      else .next (s.mapLine fun l => { l with flight := some { f with stage := .sending } })
    | .sending => .next s
  | none => .next s

/-- The station's own frame is gone from the line (R169, R170). -/
def Line.released (l : Line) (mode : ArbitrationMode) (f : Flight) : Line :=
  { l with
    flight := none, driven := [], idleBits := 0, holdOff := l.holdOff || (mode == .fair && !f.disowned) }

/-- The last check bit of the station's own frame has been sent: the descriptor is removed, FAIR mode holds off, and the
owner is told (R169, R170, R177). The owner acts on it before the outbound channel offers a block discarded earlier, so the
owner's next frame has the freed place first (R124, log entry 31). -/
def execFrameLeftLine (s : State) : Result :=
  match s.line.flight with
  | some f =>
    match f.stage with
    | .sending =>
      let s := s.mapLine fun l => l.released s.station.arbitration f
      .next (if f.disowned then s else (s.ownerTold f).offerDueFrame)
    | .arbitrating => .next s
  | none => .next s

/-- A stuffing violation, or a body length above 259: the frame is discarded and the line is busy until 12 recessive bit
times have been seen (R167). -/
def execStuffingViolation (bits : List Bool) (s : State) : Result :=
  .next (if violates bits then s.mapLine fun l => { l with resync := true, idleBits := 0 } else s)

/-- The frame of these bits is discarded at its last check bit (R175, cases 2 to 7). -/
def State.discards (s : State) (bits : List Bool) (inQuiet : Bool) : Bool :=
  match (readBits bits).bind bodyOf with
  | some (kind, h, _) => inQuiet || !s.hears kind h
  | none => true

/-- A frame read from its bits and judged at its last check bit is handed to no block (R167, R175). -/
def execFrameDiscarded (bits : List Bool) (inQuiet : Bool) (s : State) : Result :=
  .next (if (receive bits).isWhole && s.discards bits inQuiet then s.frameEnded else s)

end Sys2Proof.Machine
end

