-- ==== Sys2Proof/Machine/ProofEvents.lean ====
section
/-! DEFINITION. The commands of the proof controller (chapter Proof Printing). -/

namespace Sys2Proof.Machine

/-- The rasterizer begins the proof walk's next record, if R155 lets it. -/
def execRasterizeStart (s : State) : Result :=
  match s.proofNext with
  | some r => .next (if s.mayRasterize then s.event fun s => s.startRaster r else s)
  | none => .next s

/-- A band row is written into the ring (R156). -/
def execRowWritten (s : State) : Result :=
  .next (if s.proofer.raster.isSome then s.event State.writeRow else s)

/-- The READY printer begins to print (R160). -/
def execPrintStart (s : State) : Result :=
  .next
    (if s.proofer.printer.state = .ready ∧ s.proofer.printer.row.isNone ∧ s.proofer.ring ≠ [] then
      s.event fun s => s.mapProofer Proofer.beginRow
    else s)

/-- A row's print ends (R160, R163). -/
def execRowPrinted (s : State) : Result :=
  .next (if s.proofer.printer.row.isSome then s.event fun s => s.mapProofer Proofer.endRow else s)

/-- The idle timer expires (R161). -/
def execIdleTimer (s : State) : Result :=
  .next
    (if s.proofer.printer.state = .ready ∧ s.proofer.printer.idle.isSome then
      s.event fun s => s.mapPrinter fun p =>
        { p with state := .settling, idle := none, settling := some Config.settling, wakeHeld := false }
    else s)

/-- Settling ends: WAKING if a wake was held, ASLEEP otherwise (R161). -/
def execSettlingTimer (s : State) : Result :=
  .next
    (if s.proofer.printer.state = .settling then
      s.event fun s => s.mapPrinter fun p =>
        { p with
          state := if p.wakeHeld then .waking else .asleep, settling := none, wakeHeld := false
          waking := if p.wakeHeld then some Config.waking else none }
    else s)

/-- Waking ends (R162). -/
def execWakingTimer (s : State) : Result :=
  .next
    (if s.proofer.printer.state = .waking then
      s.event fun s => s.mapPrinter fun p => { p with state := .ready, waking := none }
    else s)

/-- The paper sensor reports paper-out (R163). -/
def execPaperOut (s : State) : Result :=
  .next
    (if s.proofer.printer.state = .paperOut then s
    else
      s.event fun s => s.mapPrinter fun p =>
        { p with state := .paperOut, idle := none, settling := none, waking := none, wakeHeld := false })

/-- The paper sensor reports paper-in (R163). -/
def execPaperIn (s : State) : Result :=
  .next
    (if s.proofer.printer.state = .paperOut then
      s.event fun s => s.mapPrinter fun p => { p with state := .waking, waking := some Config.waking }
    else s)

/-- The abandonment timer expires (R164). -/
def execAbandonmentTimer (s : State) : Result :=
  .next
    (if s.proofer.printer.state = .paperOut ∧ s.proofer.printer.abandonment.isSome then
      s.event fun s => (s.mapPrinter fun p => { p with abandonment := none }).abandonProofs
    else s)

end Sys2Proof.Machine
end

