-- ==== Sys2Proof/Machine/StationEvents.lean ====
section
/-! DEFINITION. Power-on and the three station frames (chapter Station Control and Start-up, and the reset rules of the
other chapters). -/

namespace Sys2Proof.Machine

/-! ## Power-on (R112, R153, R166, R184) -/

/-- The transport as it senses its cassettes at power-on (R153). A stock code above 1 does not occur (R141). -/
def poweredTransport (supply : Option (Nat × Nat)) (takeUp : Bool) : Transport :=
  let t := State.reset.transport
  let t :=
    match supply with
    | some (lengthCode, stockCode) =>
      match supplyLengthOf lengthCode, Stock.ofCode stockCode with
      | some n, some stock => t.mountSupply n stock
      | _, _ => t
    | none => t
  let t := if takeUp then t.mountTakeUp else t
  { t with state := if t.bothPresent then .idle else .noCassette }

/-- The font store at power-on (R94, R112). -/
def poweredFonts (largeStore cartridge : Bool) : FontStore :=
  { State.reset.fonts with
    size := if largeStore then 1024 else 512
    slot := if cartridge then .reading else .empty
    catalogTimer := if cartridge then some Config.catalogRead else none }

/-- The printer at power-on (R166). -/
def poweredPrinter (paper : Bool) : Printer :=
  { State.reset.proofer.printer with state := if paper then .asleep else .paperOut }

/-- The part as power-on leaves it, the commands that wait kept (R184). -/
def State.powered (s : State) (p : PowerInputs) : State :=
  { State.reset with
    pending := s.pending
    station :=
      { number := p.station, arbitration := if p.priorityStrap then .priority else .fair, mode := .running, timeBase := 0 }
    fonts := poweredFonts p.largeStore p.cartridge
    transport := poweredTransport p.supply p.takeUp
    proofer := { State.reset.proofer with printer := poweredPrinter p.paper } }

/-- The power-on input is released (R184). -/
def execPowerOn (p : PowerInputs) (s : State) : Result := .next (s.powered p)

/-! ## Halt and release (R6, R10, R181, R182) -/

/-- STATION HALT at a RUNNING station (R181). -/
def State.halt (s : State) : State :=
  if s.station.mode = .running then
    State.suspendHalted (State.settleWatches { s with station := { s.station with mode := .halted } })
  else s

/-- STATION HALT heard (R181). -/
def execStationHalt (h : Header) (s : State) : Result := .next (s.onFrame .stationHalt h State.halt)

/-- STATION RELEASE at a HALTED station (R182): the galleys suspended for the halt resume, the film is tested, and the
printer is woken. -/
def State.releaseHalt (s : State) : State :=
  if s.station.mode = .halted then
    let s := State.resumeAll { s with station := { s.station with mode := .running } } fun why => why == .halt
    s.filmCheck.examine s.exposureNextName
  else s

/-- STATION RELEASE heard (R182). -/
def execStationRelease (h : Header) (s : State) : Result := .next (s.onFrame .stationRelease h State.releaseHalt)

/-! ## Station reset (R24, R43, R75, R93, R112, R120, R126, R140, R152, R166, R177, R183) -/

/-- The line interface (R177). -/
def Line.stationReset (l : Line) : Line :=
  let kept :=
    match l.flight with
    | some f => if f.stage = .sending then some { f with disowned := true } else none
    | none => none
  { l with
    queue := [], flight := kept, holdOff := false, quiet := some Config.quietPeriod, resync := true, idleBits := 0,
    driven := if kept.isSome then l.driven else [] }

/-- The font store (R112, R120, R126): RESIDENT entries are kept with pin count 0. -/
def FontStore.stationReset (fs : FontStore) : FontStore :=
  { fs with
    directory := fs.directory.map fun e => if e.state = .resident then { e with pins := 0 } else DirEntry.unused
    wants := [], refused := [], inbound := Inbound.rest, outbound := Outbound.rest }

/-- The imaging controller (R128, R140). The walk is left with no next record, so a READY controller's standby timer
runs (R127). A background pass under way is dropped with the exposure (log entry 37). -/
def Imaging.stationReset (i : Imaging) : Imaging :=
  let i := { i with turret := i.turret.stationReset, exposure := none }
  Imaging.watch (if i.state = .exposing then { i with state := .ready, standby := none } else i) false

/-- The printer (R166). A row being printed completes; it is no row of the emptied ring. -/
def Printer.stationReset (p : Printer) : Printer :=
  { p with
    wakeHeld := false, row := p.row.map fun r => { r with inRing := false }, abandonment := none
    idle := if p.state = .ready then some Config.printerIdle else none }

/-- The part after a station reset (R183). -/
def State.stationReset (s : State) : State :=
  { s with
    station := { s.station with mode := .running }
    line := s.line.stationReset
    galleys := State.reset.galleys
    composer := Composer.rest
    queue := []
    fonts := s.fonts.stationReset
    imaging := s.imaging.stationReset
    transport := s.transport.stationReset
    proofer := { ring := [], raster := none, printer := s.proofer.printer.stationReset } }

/-- STATION RESET heard (R183). -/
def execStationReset (h : Header) (s : State) : Result := .next (s.onFrame .stationReset h State.stationReset)

end Sys2Proof.Machine
end

