-- ==== Sys2Proof/Machine/Dispatch.lean ====
section
/-! DEFINITION. One arm for each command, in the opcode table's order, each a direct call of the command's meaning. -/

namespace Sys2Proof.Machine

/-- The effect of a command on everything but the queue of waiting commands. -/
def exec (i : Instr) (s : State) : Host.Outcome State Fault Refusal :=
  match i with
  | .powerOn p => Sys2Proof.Machine.execPowerOn p s
  | .quietPeriodEnd => Sys2Proof.Machine.execQuietPeriodEnd s
  | .contentionOpportunity other => Sys2Proof.Machine.execContentionOpportunity other s
  | .frameLeftLine => Sys2Proof.Machine.execFrameLeftLine s
  | .stuffingViolation bits => Sys2Proof.Machine.execStuffingViolation bits s
  | .frameDiscarded bits inQuiet => Sys2Proof.Machine.execFrameDiscarded bits inQuiet s
  | .galleyPosted h p => Sys2Proof.Machine.execGalleyPosted h p s
  | .claimDelayExpiry id => Sys2Proof.Machine.execClaimDelayExpiry id s
  | .watchExpiryTimer id => Sys2Proof.Machine.execWatchExpiryTimer id s
  | .galleyClaim h id => Sys2Proof.Machine.execGalleyClaim h id s
  | .galleyCancel h id => Sys2Proof.Machine.execGalleyCancel h id s
  | .textSegment h id number units => Sys2Proof.Machine.execTextSegment h id number units s
  | .textCredit h id limit => Sys2Proof.Machine.execTextCredit h id limit s
  | .galleyReport h id event reason counters => Sys2Proof.Machine.execGalleyReport h id event reason counters s
  | .proofWanted h id first last => Sys2Proof.Machine.execProofWanted h id first last s
  | .textTimeout => Sys2Proof.Machine.execTextTimeout s
  | .composerTakesHead => Sys2Proof.Machine.execComposerTakesHead s
  | .characterUnit code => Sys2Proof.Machine.execCharacterUnit code s
  | .ignoredUnit u => Sys2Proof.Machine.execIgnoredUnit u s
  | .font p => Sys2Proof.Machine.execFont p s
  | .size p => Sys2Proof.Machine.execSize p s
  | .measure p => Sys2Proof.Machine.execMeasure p s
  | .lead p => Sys2Proof.Machine.execLead p s
  | .quad p => Sys2Proof.Machine.execQuad p s
  | .fixedSpace p => Sys2Proof.Machine.execFixedSpace p s
  | .endLine => Sys2Proof.Machine.execEndLine s
  | .endPara => Sys2Proof.Machine.execEndPara s
  | .indent p => Sys2Proof.Machine.execIndent p s
  | .offset p => Sys2Proof.Machine.execOffset p s
  | .hyphenate p => Sys2Proof.Machine.execHyphenate p s
  | .ladder p => Sys2Proof.Machine.execLadder p s
  | .letterspace p => Sys2Proof.Machine.execLetterspace p s
  | .track p => Sys2Proof.Machine.execTrack p s
  | .softHyphen => Sys2Proof.Machine.execSoftHyphen s
  | .reverse p => Sys2Proof.Machine.execReverse p s
  | .advance p => Sys2Proof.Machine.execAdvance p s
  | .back p => Sys2Proof.Machine.execBack p s
  | .cut => Sys2Proof.Machine.execCut s
  | .learn p => Sys2Proof.Machine.execLearn p s
  | .endLearn => Sys2Proof.Machine.execEndLearn s
  | .density p => Sys2Proof.Machine.execDensity p s
  | .endGalley => Sys2Proof.Machine.execEndGalley s
  | .wordLearned h body => Sys2Proof.Machine.execWordLearned h body s
  | .inboundTakesEntry => Sys2Proof.Machine.execInboundTakesEntry s
  | .cartridgeBlockRead data => Sys2Proof.Machine.execCartridgeBlockRead data s
  | .retryWait font => Sys2Proof.Machine.execRetryWait font s
  | .deferralLimit font => Sys2Proof.Machine.execDeferralLimit font s
  | .cartridgeInsertion => Sys2Proof.Machine.execCartridgeInsertion s
  | .catalogRead fonts => Sys2Proof.Machine.execCatalogRead fonts s
  | .cartridgeRemoval => Sys2Proof.Machine.execCartridgeRemoval s
  | .askingWait => Sys2Proof.Machine.execAskingWait s
  | .fontWanted h font => Sys2Proof.Machine.execFontWanted h font s
  | .offerDelay => Sys2Proof.Machine.execOfferDelay s
  | .fontOffer h font asker total => Sys2Proof.Machine.execFontOffer h font asker total s
  | .fontTake h font lender first => Sys2Proof.Machine.execFontTake h font lender first s
  | .takeWait => Sys2Proof.Machine.execTakeWait s
  | .fontBlock h font index data => Sys2Proof.Machine.execFontBlock h font index data s
  | .stallTimer => Sys2Proof.Machine.execStallTimer s
  | .stationHalt h => Sys2Proof.Machine.execStationHalt h s
  | .stationRelease h => Sys2Proof.Machine.execStationRelease h s
  | .stationReset h => Sys2Proof.Machine.execStationReset h s
  | .warmUpTimer => Sys2Proof.Machine.execWarmUpTimer s
  | .standbyTimer => Sys2Proof.Machine.execStandbyTimer s
  | .exposureStart => Sys2Proof.Machine.execExposureStart s
  | .turretMoveEnd => Sys2Proof.Machine.execTurretMoveEnd s
  | .backgroundPass => Sys2Proof.Machine.execBackgroundPass s
  | .flashDone => Sys2Proof.Machine.execFlashDone s
  | .strokeCompleted samples => Sys2Proof.Machine.execStrokeCompleted samples s
  | .strokeTrip samples => Sys2Proof.Machine.execStrokeTrip samples s
  | .holdOff => Sys2Proof.Machine.execHoldOff s
  | .reverseDone => Sys2Proof.Machine.execReverseDone s
  | .knifeDone => Sys2Proof.Machine.execKnifeDone s
  | .supplyInsertion lengthCode stockCode => Sys2Proof.Machine.execSupplyInsertion lengthCode stockCode s
  | .supplyRemoval => Sys2Proof.Machine.execSupplyRemoval s
  | .takeUpInsertion => Sys2Proof.Machine.execTakeUpInsertion s
  | .takeUpRemoval => Sys2Proof.Machine.execTakeUpRemoval s
  | .rasterizeStart => Sys2Proof.Machine.execRasterizeStart s
  | .rowWritten => Sys2Proof.Machine.execRowWritten s
  | .printStart => Sys2Proof.Machine.execPrintStart s
  | .rowPrinted => Sys2Proof.Machine.execRowPrinted s
  | .idleTimer => Sys2Proof.Machine.execIdleTimer s
  | .settlingTimer => Sys2Proof.Machine.execSettlingTimer s
  | .wakingTimer => Sys2Proof.Machine.execWakingTimer s
  | .paperOut => Sys2Proof.Machine.execPaperOut s
  | .paperIn => Sys2Proof.Machine.execPaperIn s
  | .abandonmentTimer => Sys2Proof.Machine.execAbandonmentTimer s
  | .endOfArbitration read => Sys2Proof.Machine.execEndOfArbitration read s

end Sys2Proof.Machine
end

