-- ==== Sys2Proof/Safety.lean ====
section
/-! DEFINITION. What a sound state is, in the terms the statements use: every part within its capacity, the block store's
memory in its canonical form, and the film counters in agreement with one another. -/

namespace Sys2Proof.Machine

/-! ## Frames -/

/-- The line interface but for what waits in its transmit queue. -/
structure Line.Kept (l m : Line) : Prop where
  flight : m.flight = l.flight
  holdOff : m.holdOff = l.holdOff
  quiet : m.quiet = l.quiet
  resync : m.resync = l.resync
  idleBits : m.idleBits = l.idleBits
  driven : m.driven = l.driven

/-- A directory entry but for its pins and its stamp. -/
def DirEntry.content (e : DirEntry) : DirEntry := { e with pins := 0, stamp := 0 }

/-- Everything but the galley records, the composer, the set-line queue, the transmit queue, and the font store's pins,
stamps and want list; no galley is added. -/
structure State.MachineryKept (s t : State) : Prop where
  pending : t.pending = s.pending
  station : t.station = s.station
  line : Line.Kept s.line t.line
  hyphenation : t.hyphenation = s.hyphenation
  imaging : t.imaging = s.imaging
  transport : t.transport = s.transport
  proofer : t.proofer = s.proofer
  memory : t.fonts.memory = s.fonts.memory
  size : t.fonts.size = s.fonts.size
  inbound : t.fonts.inbound = s.fonts.inbound
  outbound : t.fonts.outbound = s.fonts.outbound
  slot : t.fonts.slot = s.fonts.slot
  catalog : t.fonts.catalog = s.fonts.catalog
  catalogTimer : t.fonts.catalogTimer = s.fonts.catalogTimer
  refused : t.fonts.refused = s.fonts.refused
  contents : t.fonts.directory.map DirEntry.content = s.fonts.directory.map DirEntry.content
  watch : t.galleys.watch = s.galleys.watch
  claimCount : t.galleys.claimCount = s.galleys.claimCount
  held : (t.galleys.table.map Galley.id).Sublist (s.galleys.table.map Galley.id)

/-- What an event's own effect leaves to the queue, the galleys and the walks: `s` is the state with that effect, `t` the
state when all that follows has followed. Nothing follows but the composer's work and the galleys' and records' coming to
their ends, demands for fonts, the film test of R130, the standby timer of R127, and the printer's wake and timers. -/
structure State.FollowUp (s t : State) : Prop where
  pending : t.pending = s.pending
  station : t.station = s.station
  sent : t.line.flight.map Flight.desc = s.line.flight.map Flight.desc
  holdOff : t.line.holdOff = s.line.holdOff
  quiet : t.line.quiet = s.line.quiet
  resync : t.line.resync = s.line.resync
  idleBits : t.line.idleBits = s.line.idleBits
  driven : t.line.driven = s.line.driven
  hyphenation : t.hyphenation = s.hyphenation
  memory : t.fonts.memory = s.fonts.memory
  size : t.fonts.size = s.fonts.size
  outbound : t.fonts.outbound = s.fonts.outbound
  inbound : t.fonts.inbound.unasked = s.fonts.inbound.unasked
  slot : t.fonts.slot = s.fonts.slot
  catalog : t.fonts.catalog = s.fonts.catalog
  contents : t.fonts.directory.map DirEntry.content = s.fonts.directory.map DirEntry.content
  watch : t.galleys.watch = s.galleys.watch
  claimCount : t.galleys.claimCount = s.galleys.claimCount
  held : (t.galleys.table.map Galley.id).Sublist (s.galleys.table.map Galley.id)
  transport :
    t.transport = s.transport ∨
      s.transport.state = .idle ∧
        (t.transport = { s.transport with state := .filmOut } ∨ t.transport = { s.transport with state := .takeUpFull })
  imaging : t.imaging = s.imaging.watch t.exposureNext.isSome
  ring : t.proofer.ring = s.proofer.ring
  raster : t.proofer.raster = s.proofer.raster
  printer :
    t.proofer.printer =
      (if t.proofWanting then s.proofer.printer.wake else s.proofer.printer).watch
        (s.proofer.ring.isEmpty && s.proofer.raster.isNone) t.proofNext.isSome

/-- The units of a galley's held text that the composer has still to consume, in order (R16). -/
def Galley.ahead (g : Galley) : List CodeWord := g.segments.flatten.drop g.unitsRead

/-- A galley record but for its text and its credit. -/
def Galley.apartText (g : Galley) : Galley :=
  { g with granted := none, creditUnsent := false, segments := [], unitsRead := 0, consumed := 0 }

/-- The composer has taken one unit, and nothing else has happened but credit: `c` is the composer as the unit leaves it.
The galley's text is one unit shorter, and where no further unit is at hand the composer waits for text with the text
timer started (R16, R17). -/
structure State.UnitTaken (s : State) (c : Composer) (t : State) : Prop where
  kept : State.MachineryKept s t
  queue : t.queue = s.queue
  fonts : t.fonts = s.fonts
  records : t.galleys.table.map Galley.apartText = s.galleys.table.map Galley.apartText
  timer :
    t.galleys.textTimer = if t.composer.state = .waitText then some Config.textTimer else s.galleys.textTimer
  galley :
    ∃ g g', s.workingGalley = some g ∧ t.galleys.find g.id = some g' ∧ g'.ahead = g.ahead.tail ∧
      g'.consumed = g.consumed + 1 ∧
      t.composer = { c with state := if g'.nextCommand.isSome then .running else .waitText }

/-! ## Frames offered and frames gone -/

/-- The line when a frame of the station has left it and is reported to its owner (R169, R170). -/
def State.lineFreed (s : State) : Line :=
  { s.line with
    flight := none, driven := [], idleBits := 0, holdOff := s.line.holdOff || s.station.arbitration == .fair }

/-- The line when one frame more waits in the transmit queue, as the youngest of its class (R173). -/
def Line.withWaiting (l : Line) (kind : FrameKind) (dest : BitVec 5) (body : List Byte) (owner : FrameOwner) : Line :=
  { l with
    queue :=
      insertBy Descriptor.precedes { kind := kind, dest := dest, body := body, owner := owner, age := l.nextAge } l.queue
    nextAge := l.nextAge + 1 }

/-- The line when a GALLEY REPORT of the galley has been offered to the transmit queue (R22, R172, R173). -/
def State.lineReported (s : State) (id : GalleyId) (event reason : Nat) (c : Counters) : Line :=
  (s.line.offer s.station.takesPart .galleyReport (BitVec.ofNat 5 id.poster) (reportBody id event reason c.toList)
    (.report id)).1

/-- A GALLEY REPORT of the galley waits in the transmit queue (R22). -/
def Line.ReportWaits (l : Line) (id : GalleyId) (event reason : Nat) (c : Counters) : Prop :=
  ∃ d ∈ l.queue,
    d.kind = .galleyReport ∧ d.dest = BitVec.ofNat 5 id.poster ∧ d.owner = .report id ∧
      d.body = reportBody id event reason c.toList

/-- A TEXT CREDIT of the galley waits in the transmit queue (R14). -/
def Line.CreditWaits (l : Line) (id : GalleyId) (limit : Nat) : Prop :=
  ∃ d ∈ l.queue,
    d.kind = .textCredit ∧ d.dest = BitVec.ofNat 5 id.poster ∧ d.owner = .credit id ∧ d.body = creditBody id limit

/-- The state with the outbound channel's block of this index waiting in the transmit queue (R124). -/
def State.withBlockWaiting (s : State) (e : DirEntry) (index : Nat) : State :=
  let o := s.fonts.outbound
  { s with
    line :=
      s.line.withWaiting .fontBlock (BitVec.ofNat 5 o.asker)
        (fontBlockBody o.font index (Memory.readBlock s.fonts.memory (e.blocks.getD index 0))) .outbound
    fonts := { s.fonts with outbound := { o with next := index, due := false } } }

/-! ## Spaces -/

/-- R48: the glue of an interword space behind these boxes: the three glue values of the last character box's font at its
size, or 16 units at the current size where no box is a character, each to the nearest minim with a half rounded up. -/
def State.SpaceIs (s : State) (boxes : List Box) (space : Option Glue) : Prop :=
  (∀ before code font size width behind m, boxes = before ++ .char code font size width :: behind →
      (∀ b ∈ behind, b.isChar = false) → s.fonts.metricsOf font = some m →
      space =
        some
          { nominal := (m.nominal * size * 10 + 32) / 64, minimum := (m.minimum * size * 10 + 32) / 64
            maximum := (m.maximum * size * 10 + 32) / 64 }) ∧
    ((∀ b ∈ boxes, b.isChar = false) →
      space =
        some
          { nominal := (16 * s.composer.params.size * 10 + 32) / 64
            minimum := (16 * s.composer.params.size * 10 + 32) / 64
            maximum := (16 * s.composer.params.size * 10 + 32) / 64 })

/-! ## Points that fit -/

/-- R52: a point of the word in progress fits on the line. A point behind a hyphen adds nothing; any other adds a hyphen in
the font and size of the last character box before it, of its font's width or of 21 units. -/
def Composer.PointFits (c : Composer) (fs : FontStore) (p : Nat) : Prop :=
  (c.word.boxes[p - 1]?.any Box.isHyphen = true ∧
      c.testBase + boxesWidth (c.word.boxes.take p) ≤ c.params.available ∧
      c.line.chars + boxesChars (c.word.boxes.take p) ≤ 160) ∨
    (c.word.boxes[p - 1]?.any Box.isHyphen = false ∧
      ∃ before code font size width behind, c.word.boxes.take p = before ++ .char code font size width :: behind ∧
        (∀ b ∈ behind, b.isChar = false) ∧
        c.testBase + boxesWidth (c.word.boxes.take p) +
            characterWidth (((fs.metricsOf font).bind fun m => m.width 45).getD 21) c.params.track size ≤
          c.params.available ∧
        c.line.chars + boxesChars (c.word.boxes.take p) + 1 ≤ 160)

/-- The character codes of a record, in the order of its runs. -/
def SetLine.codes (r : SetLine) : List Nat := r.runs.flatMap fun run => run.chars.map Prod.fst

/-! ## The queue at rest, and the film -/

/-- Nothing follows of itself in the queue or at the composer: no mark that needs no operation, no departure, and no task. -/
structure State.AtRest (s : State) : Prop where
  marks : s.markNotNeeded = s
  departure : s.departure.isNone = true
  todo : s.composer.todo = []

/-- The galley of this id is held and SUSPENDED for FILM (R130, R136). -/
def State.SuspendedForFilm (t : State) (id : GalleyId) : Prop :=
  ∃ g, t.galleys.find id = some g ∧ g.state = .suspended ∧ g.suspension = some .film

/-- R130: what the film test for the record leaves of an IDLE transport `u` and of the record's galley. -/
def State.FilmTested (t : State) (r : SetLine) (u : Transport) : Prop :=
  (u.remaining < r.movement.toNat + 1440 →
      t.transport = { u with state := .filmOut } ∧ t.SuspendedForFilm r.galley) ∧
    (r.movement.toNat + 1440 ≤ u.remaining →
      2592000 < u.takeUpHeld + r.movement.toNat + (if r.cutAfter then 1440 else 0) →
        t.transport = { u with state := .takeUpFull } ∧ t.SuspendedForFilm r.galley) ∧
    (r.movement.toNat + 1440 ≤ u.remaining →
      u.takeUpHeld + r.movement.toNat + (if r.cutAfter then 1440 else 0) ≤ 2592000 → t.transport = u)

/-! ## Soundness -/

/-- Every list of the part stays within the capacity its rule gives: the watch list (R1), the galley table (R7), the
set-line queue (R83), the exception dictionary (R75), the directory (R95), the want list (R102), the catalog (R109), the
transmit queue (R171), and the band ring with the rows still to be written into it (R154, R155). -/
structure State.WithinCapacities (s : State) : Prop where
  watch : s.galleys.watch.length ≤ Config.watchCapacity
  table : s.galleys.table.length ≤ Config.tableCapacity
  queue : s.queue.length ≤ Config.queueCapacity
  dictionary : s.hyphenation.entries.length ≤ Config.dictionaryCapacity
  directory : s.fonts.directory.length = Config.directoryEntries
  wants : s.fonts.wants.length ≤ Config.wantCapacity
  catalog : s.fonts.catalog.length ≤ Config.catalogCapacity
  transmit : s.line.count ≤ Config.transmitCapacity
  ring :
    match s.proofer.raster with
    | some r => r.rows < Config.bandRows ∧ s.proofer.ring.length + (Config.bandRows - r.rows) ≤ Config.ringRows
    | none => s.proofer.ring.length ≤ Config.ringRows

/-- R97: every pin count is the number of its font's references. A font that is referenced is at least METRICS, so that no
eviction and no end of a load takes it away (R46, R99, R101), and an IDLE composer uses none (R43). -/
structure State.PinsSound (s : State) : Prop where
  agree : ∀ e ∈ s.fonts.directory, e.state ≠ .free → e.pins = s.references e.font
  held : ∀ font, 0 < s.references font → s.fonts.atLeastMetrics font = true
  idle : s.composer.state = .idle → s.composer.fontsInUse = []

/-- The block store's memory is in canonical form (log entry 7). -/
def State.MemoryCanonical (s : State) : Prop := Memory.wf s.fonts.memory

/-- A move in progress can be carried out: what is left of a forward move is on the supply, and a reverse lies within the
section (R145, R148). -/
def Transport.movePossible (t : Transport) : Bool :=
  match t.move with
  | none => true
  | some m =>
    t.inMotion &&
      (match m.phase with
        | .stroke n => decide (n ≤ m.left) && decide (m.left ≤ t.remaining)
        | .holdOff _ n => decide (n ≤ m.left) && decide (m.left ≤ t.remaining)
        | .reversing => decide (m.left ≤ t.depth)
        | .knife => true)

/-- What a forward move in progress still has to move. -/
def Transport.stillToMove (t : Transport) : Nat :=
  match t.move with
  | none => 0
  | some m =>
    match m.phase with
    | .stroke _ | .holdOff _ _ => m.left
    | _ => 0

/-- The supply keeps the lead-out in hand behind what is still to be moved (R130, R149). -/
def Transport.leadOutKept (t : Transport) : Bool := decide (t.stillToMove + Config.leadOut ≤ t.remaining)

/-- Stage and mechanism agree (R132 to R137): no flash and no pass during a move or a cut, no move during the flashes
and the pass, nothing but a lead-out and the knife in stage CUT, and the lead-out in hand until then. -/
def State.stageSound (s : State) : Bool :=
  match s.imaging.exposure with
  | none => true
  | some e =>
    match e.stage with
    | .move => e.flash.isNone && e.field.isNone && s.transport.leadOutKept
    | .background | .runs => s.transport.move.isNone && s.transport.leadOutKept
    | .cut =>
      e.flash.isNone && e.field.isNone &&
        (match s.transport.move with
          | none => true
          | some m => m.kind == .leadOut && m.phase != .reversing)

/-- The film counters agree (R141): supply remaining and film drawn make the supply length, section depth lies within
film drawn and within take-up held, and every move
in progress can be carried out and belongs to the exposure's stage. -/
structure State.FilmSound (s : State) : Prop where
  length : s.transport.remaining + s.transport.drawn = s.transport.supplyLength
  drawn : s.transport.depth ≤ s.transport.drawn
  held : s.transport.depth ≤ s.transport.takeUpHeld
  possible : s.transport.movePossible = true
  stage : s.stageSound = true

end Sys2Proof.Machine
end

