-- ==== Sys2Proof/WellFormed.lean ====
section
/-! DEFINITION. Which commands can be written on the NT-612's three paths: every operand lies within the field, the
strap or the sensor that carries it. `exec` is total on all commands, well formed or not. -/

namespace Sys2Proof

/-- The value fits one byte. -/
def isByte (n : Nat) : Bool := n < 256

/-- The value fits a two-byte field. -/
def isField (n : Nat) : Bool := n < 65536

/-- The value fits a five-bit field (R167). -/
def isStation (n : Nat) : Bool := n < 32

/-- The value fits the parameter of a command unit (R25). -/
def isParameter (p : Nat) : Bool := p < 1024

def Header.wellFormed (h : Header) : Bool := isStation h.sender && isStation h.dest

def GalleyId.wellFormed (id : GalleyId) : Bool := isByte id.poster && isByte id.serial

def Posting.wellFormed (p : Posting) : Bool :=
  p.id.wellFormed && isByte p.priority && isByte p.mode && isField p.firstLine && isField p.lastLine &&
    isByte p.stock && isByte p.policy && isField p.length && p.fonts.all isField &&
    decide (13 + 2 * p.fonts.length ≤ Config.maxBody)

/-- The check that each command's operands lie within the fields that carry them. -/
def Instr.wellFormed : Instr → Bool
  | .powerOn p =>
    isStation p.station && (match p.supply with | some (l, c) => decide (l < 4) && decide (c < 2) | none => true)
  | .stuffingViolation bits => violates bits
  | .frameDiscarded bits _ => (receive bits).isWhole
  | .galleyPosted h p => h.wellFormed && p.wellFormed
  | .claimDelayExpiry id => id.wellFormed
  | .watchExpiryTimer id => id.wellFormed
  | .galleyClaim h id => h.wellFormed && id.wellFormed
  | .galleyCancel h id => h.wellFormed && id.wellFormed
  | .textSegment h id number units =>
    h.wellFormed && id.wellFormed && isField number && decide (5 + 2 * units.length ≤ Config.maxBody)
  | .textCredit h id limit => h.wellFormed && id.wellFormed && isField limit
  | .galleyReport h id event reason counters =>
    h.wellFormed && id.wellFormed && isByte event && isByte reason && decide (counters.length = 11) &&
      counters.all isField
  | .proofWanted h id first last => h.wellFormed && id.wellFormed && isField first && isField last
  | .characterUnit code => decide (32 ≤ code) && isByte code
  | .ignoredUnit u => decide (readUnit u = .ignoredUnit u)
  | .font p => isParameter p && decide (p ≠ 0)
  | .quad p => decide (p ≤ 3)
  | .fixedSpace p => decide (1 ≤ p) && decide (p ≤ 3)
  | .size p | .measure p | .lead p | .indent p | .offset p | .hyphenate p | .ladder p | .letterspace p | .track p
  | .reverse p | .advance p | .back p | .learn p | .density p => isParameter p
  | .wordLearned h body => h.wellFormed && decide (body.length ≤ Config.maxBody)
  | .cartridgeBlockRead data => decide (data.length = Config.blockBytes)
  | .retryWait f => decide (1 ≤ f) && decide (f ≤ 1023)
  | .deferralLimit f => decide (1 ≤ f) && decide (f ≤ 1023)
  | .fontWanted h f => h.wellFormed && isField f
  | .fontOffer h f asker total => h.wellFormed && isField f && isByte asker && isByte total
  | .fontTake h f lender first => h.wellFormed && isField f && isByte lender && isByte first
  | .fontBlock h f index data =>
    h.wellFormed && isField f && isByte index && decide (data.length = Config.blockBytes)
  | .stationHalt h => h.wellFormed
  | .stationRelease h => h.wellFormed
  | .stationReset h => h.wellFormed
  | .strokeCompleted samples => completedSamples samples
  | .strokeTrip samples => trippedSamples samples
  | .supplyInsertion lengthCode stockCode => decide (lengthCode < 4) && decide (stockCode < 2)
  | .quietPeriodEnd | .contentionOpportunity _ | .frameLeftLine | .textTimeout | .composerTakesHead | .endLine
  | .endPara | .softHyphen | .cut | .endLearn | .endGalley | .inboundTakesEntry | .cartridgeInsertion
  | .catalogRead _ | .cartridgeRemoval | .askingWait | .offerDelay | .takeWait | .stallTimer | .warmUpTimer
  | .standbyTimer | .exposureStart | .turretMoveEnd | .backgroundPass | .flashDone | .holdOff | .reverseDone
  | .knifeDone | .supplyRemoval | .takeUpInsertion | .takeUpRemoval | .rasterizeStart | .rowWritten | .printStart
  | .rowPrinted | .idleTimer | .settlingTimer | .wakingTimer | .paperOut | .paperIn | .abandonmentTimer
  | .endOfArbitration _ => true

end Sys2Proof
end

