-- ==== Sys2Proof/Certificates/Slice0/Obligations.lean ====
section
/-! DEFINITION. The statements for the provers, chapter by chapter of the manual. Each docstring names the rules it rests
on; where a statement says what the model chose, its docstring names the log entry. -/

open Sys2Proof Sys2Proof.Machine

/-! ## The step and the clock -/

/-- STEP RUNS THE COMMAND: a step takes the command at the front of the queue and runs it with the queue's rest. -/
def Obligations.StepTakesFrontCommand : Prop :=
  ∀ (s : State) (i : Instr) (rest : List Instr),
    s.pending = i :: rest → step s = exec i { s with pending := rest }

/-- Section 12 (R180), with the model's choice of log entry 8: with no command waiting, the event that is due is taken,
and where none is due one millisecond is counted: the time base is one more, every running timer has one millisecond less
to go (one at 0, whose end comes as a command, stays there), and nothing else changes. -/
def Obligations.IdleStepCountsOneMillisecond : Prop :=
  ∀ s : State, s.pending = [] →
    (∀ i, s.dueEvent = some i → step s = exec i s) ∧
      (s.dueEvent = none →
        step s =
          .next
            { s with
              station := { s.station with timeBase := s.station.timeBase + 1 }
              line := { s.line with quiet := s.line.quiet.map (· - 1) }
              galleys :=
                { s.galleys with
                  watch := s.galleys.watch.map fun w =>
                    { w with delay := w.delay.map (· - 1), expiry := w.expiry - 1 }
                  textTimer := s.galleys.textTimer.map (· - 1) }
              fonts :=
                { s.fonts with
                  wants := s.fonts.wants.map fun w => { w with timer := w.timer.map (· - 1) }
                  inbound :=
                    { s.fonts.inbound with
                      stall := s.fonts.inbound.stall.map (· - 1), read := s.fonts.inbound.read.map (· - 1) }
                  outbound := { s.fonts.outbound with timer := s.fonts.outbound.timer.map (· - 1) }
                  catalogTimer := s.fonts.catalogTimer.map (· - 1) }
              imaging :=
                { s.imaging with
                  warmUp := s.imaging.warmUp.map (· - 1), standby := s.imaging.standby.map (· - 1)
                  turret :=
                    match s.imaging.turret with
                    | .moving source target left => .moving source target (left - 1)
                    | turret => turret }
              transport :=
                { s.transport with
                  move := s.transport.move.map fun m =>
                    { m with
                      phase :=
                        match m.phase with
                        | .holdOff left n => .holdOff (left - 1) n
                        | phase => phase } }
              proofer :=
                { s.proofer with
                  raster := s.proofer.raster.map fun b => { b with timer := b.timer - 1 }
                  printer :=
                    { s.proofer.printer with
                      idle := s.proofer.printer.idle.map (· - 1)
                      settling := s.proofer.printer.settling.map (· - 1)
                      waking := s.proofer.printer.waking.map (· - 1)
                      abandonment := s.proofer.printer.abandonment.map (· - 1) } } })

/-! ## Bits, units and frames -/

/-- Section 11.1 and R175, R178: a receiver reads out of the frame that a sender builds exactly the command the frame
stands for, for every kind and every value its fields can carry; and it does so out of the bits that are sent for it, whatever
recessive bits come before them and whatever bits behind. -/
def Obligations.FrameReadBack : Prop :=
  ∀ (i : Instr) (f : Frame), i.wellFormed = true → frameOf i = some f →
    readFrame f = some i ∧
      ∀ (idle : Nat) (behind : List Bool),
        readBits (List.replicate idle true ++ stuff (frameBits f) ++ behind) = some i

/-- R167: a receiver that removes the stuffed bits has the sender's bits again, and meets no violation. -/
def Claims.StuffedBitsReadBack : Prop :=
  ∀ bits : List Bool, unstuff (stuff bits) = some bits

/-- R167: a receiver follows a frame from its start bit, reads its fields out of the bits with the stuffed bits removed, finds
its end from the body length field, and meets no violation in any part of it. A body length above 259 ends the reading, and so
does a sixth successive bit of equal level in a frame that has not ended. -/
def Claims.FrameReadFromItsBits : Prop :=
  (∀ f : Frame, f.body.length = f.length.toNat → f.body.length ≤ 259 →
      (∀ (idle : Nat) (behind : List Bool),
        receive (List.replicate idle true ++ stuff (frameBits f) ++ behind) = .whole f) ∧
        ∀ n, receive ((stuff (frameBits f)).take n) ≠ .discarded) ∧
    (∀ (f : Frame) (idle : Nat) (behind : List Bool), 259 < f.length.toNat →
      receive (List.replicate idle true ++ stuff (frameBits f) ++ behind) = .discarded) ∧
    ∀ (before : List Bool) (b : Bool), b = false ∨ false ∈ before →
      receive (before ++ List.replicate 5 b) = .unfinished → receive (before ++ List.replicate 6 b) = .discarded

/-- R168: one covered bit changed changes the check, wherever it stands. -/
def Claims.SingleBitErrorFailsCheck : Prop :=
  ∀ (before behind : List Bool) (b : Bool), checkOf (before ++ b :: behind) ≠ checkOf (before ++ (!b) :: behind)

/-- R167 and R168: stuffing loses no bit, a frame is read out of its bits, and one covered bit changed changes the check. -/
def Obligations.BitsOnTheLine : Prop :=
  Claims.StuffedBitsReadBack ∧ Claims.FrameReadFromItsBits ∧ Claims.SingleBitErrorFailsCheck

/-! ## The line interface -/

/-- R169 and R170: at an opportunity a station that may contend begins to send the head of its queue; one that may not
lets the opportunity pass, and a silent one ends the hold-off. -/
def Obligations.ContentionOpportunity : Prop :=
  ∀ (s : State) (other : Bool), s.line.flight = none →
    (∀ (d : Descriptor) (rest : List Descriptor), 1 ≤ s.station.number → s.station.number ≤ 30 → s.line.quiet = none →
        s.line.holdOff = false → s.line.queue = d :: rest →
        exec (.contentionOpportunity other) s =
          .next
            { s with
              line :=
                { s.line with
                  queue := rest
                  flight := some { desc := d, stage := .arbitrating, withdrawn := false, disowned := false }
                  resync := false, idleBits := 12
                  driven := stuff (frameBits (buildFrame d.kind s.station.number d.dest d.body)) } }) ∧
      (¬(1 ≤ s.station.number ∧ s.station.number ≤ 30) ∨ s.line.quiet ≠ none ∨ s.line.holdOff = true ∨
          s.line.queue = [] →
        exec (.contentionOpportunity other) s =
          .next
            { s with
              line := { s.line with resync := false, idleBits := 12, holdOff := s.line.holdOff && other } })

/-- R169, R172 and R174: a station loses to every lower class, and within its class to every higher station number; its
descriptor then goes back to its place, or is removed where it was withdrawn. A report that finds a younger one of its
galley waiting gives it its place and age instead (the model's choice, log entry 21). A station that reads its own field has
won. -/
def Obligations.ArbitrationOrder : Prop :=
  ∀ (s : State) (f : Flight), s.line.flight = some f → f.stage = .arbitrating →
    (∀ (kind : FrameKind) (n : Nat), n < 32 → s.station.number < 32 →
        kind.cls < f.desc.kind.cls ∨ kind.cls = f.desc.kind.cls ∧ s.station.number < n →
        (f.withdrawn = false → s.line.waitingReport f.desc.owner = none →
          exec (.endOfArbitration (arbitrationField kind n)) s =
            .next
              { s with
                line :=
                  { s.line with
                    queue := insertBy Descriptor.precedes f.desc s.line.queue, flight := none, driven := [] } }) ∧
          (∀ younger, f.withdrawn = false → s.line.waitingReport f.desc.owner = some younger →
            exec (.endOfArbitration (arbitrationField kind n)) s =
              .next
                { s with
                  line :=
                    { s.line with
                      queue :=
                        insertBy Descriptor.precedes { younger with age := f.desc.age } (s.line.queue.erase younger)
                      flight := none, driven := [] } }) ∧
          (f.withdrawn = true → f.desc.owner ≠ .outbound ∨ s.fonts.outbound.due = false →
            exec (.endOfArbitration (arbitrationField kind n)) s =
              .next { s with line := { s.line with flight := none, driven := [] } })) ∧
      exec (.endOfArbitration (arbitrationField f.desc.kind s.station.number)) s =
        .next { s with line := { s.line with flight := some { f with stage := .sending } } }

/-- R169, R170 and the rules of the owners (R3, R22, R77, R113, R117, R122): a frame's leaving the line frees the flight,
starts the hold-off in FAIR mode, and tells the owner of a claim, an ask, a take or an offer; one that a station reset
disowned is reported to no block (R177). -/
def Claims.FrameLeavesItsOwner : Prop :=
  ∀ (s : State) (f : Flight), s.line.flight = some f → f.stage = .sending → s.fonts.outbound.due = false →
    (f.disowned = true →
      exec .frameLeftLine s = .next { s with line := { s.line with flight := none, driven := [], idleBits := 0 } }) ∧
      (f.disowned = false → f.withdrawn = false →
        ∀ l : Line,
          l = { s.line with
                flight := none, driven := [], idleBits := 0
                holdOff := s.line.holdOff || s.station.arbitration == .fair } →
          (f.desc.owner = .hyphenation ∨ (∃ id, f.desc.owner = .report id) →
            exec .frameLeftLine s = .next { s with line := l }) ∧
            (∀ id, f.desc.owner = .claim id →
              exec .frameLeftLine s =
                .next
                  { s with
                    line := l
                    galleys := s.galleys.updateWatch id fun w =>
                      if w.state = .claimQueued then { w with state := .claimSent } else w }) ∧
            (∀ w, f.desc.owner = .inbound → f.desc.kind = .fontWanted → s.fonts.inService = some w →
              w.state = .asking → s.fonts.inbound.askDue = false → s.fonts.inbound.takeDue = false →
              exec .frameLeftLine s =
                .next
                  { s with
                    line := l
                    fonts := s.fonts.updateWant w.font fun w => { w with timer := some 120 } }) ∧
            (f.desc.owner = .inbound → f.desc.kind = .fontTake → s.fonts.inbound.mode = .lineLoad →
              s.fonts.inbound.askDue = false → s.fonts.inbound.takeDue = false →
              exec .frameLeftLine s =
                .next
                  { s with
                    line := l
                    fonts := { s.fonts with inbound := { s.fonts.inbound with stall := some 200 } } }) ∧
            (f.desc.owner = .outbound → f.desc.kind = .fontOffer → s.fonts.outbound.mode = .offered →
              exec .frameLeftLine s =
                .next
                  { s with
                    line := l
                    fonts := { s.fonts with outbound := { s.fonts.outbound with timer := some 100 } } }))

/-- R13: a TEXT CREDIT's leaving the line starts a credit evaluation, also where it was withdrawn. -/
def Claims.CreditLeaves : Prop :=
  ∀ (s : State) (f : Flight) (id : GalleyId), s.line.flight = some f → f.stage = .sending → f.disowned = false →
    f.desc.owner = .credit id → s.fonts.outbound.due = false →
    exec .frameLeftLine s = .next (State.evaluateCredit { s with line := s.lineFreed })

/-- R124: a FONT BLOCK's leaving the line queues the next block of the font, and behind the last the channel is IDLE with its
pin released; a block that was discarded on queueing is queued when the next frame of the station leaves the line. -/
def Claims.BlockLeaves : Prop :=
  ∀ (s : State) (f : Flight) (e : DirEntry), s.line.flight = some f → f.stage = .sending → f.disowned = false →
    f.withdrawn = false → s.fonts.outbound.mode = .sending → s.fonts.entry s.fonts.outbound.font = some e →
    s.station.takesPart = true → s.line.queue.length < 16 → (∀ d ∈ s.line.queue, d.owner ≠ .outbound) →
    (f.desc.owner = .outbound → f.desc.kind = .fontBlock → s.fonts.outbound.due = false →
        (s.fonts.outbound.next + 1 < e.total →
          exec .frameLeftLine s =
            .next ({ s with line := s.lineFreed }.withBlockWaiting e (s.fonts.outbound.next + 1))) ∧
          (e.total ≤ s.fonts.outbound.next + 1 →
            exec .frameLeftLine s =
              .next
                (State.recount
                  { s with line := s.lineFreed, fonts := { s.fonts with outbound := Outbound.rest } }))) ∧
      (f.desc.owner = .hyphenation → s.fonts.outbound.due = true →
        exec .frameLeftLine s = .next ({ s with line := s.lineFreed }.withBlockWaiting e s.fonts.outbound.next))

/-- R113, R116 and R171, with the model's choice of log entry 23: where an offer was taken, or an entry was taken into service
for the line, while a frame of an earlier service of the channel stood in the transmit queue, the FONT TAKE or the FONT WANTED
is queued when that has left the line, and no timer starts. The leaving of a FONT WANTED starts no wait where it was withdrawn
(R104), or where no entry in service is ASKING. -/
def Claims.DueFrameFollows : Prop :=
  ∀ (s : State) (f : Flight), s.line.flight = some f → f.stage = .sending → f.disowned = false →
    f.desc.owner = .inbound → s.fonts.outbound.due = false →
    (s.station.takesPart = true → s.line.queue.length < 16 →
      (s.fonts.inbound.takeDue = true →
        exec .frameLeftLine s =
          .next
            { s with
              line :=
                s.lineFreed.withWaiting .fontTake 0
                  (fontTakeBody s.fonts.inbound.font s.fonts.inbound.lender s.fonts.inbound.next) .inbound
              fonts := { s.fonts with inbound := { s.fonts.inbound with takeDue := false } } }) ∧
        (∀ w, s.fonts.inbound.takeDue = false → s.fonts.inbound.askDue = true → s.fonts.inService = some w →
          exec .frameLeftLine s =
            .next
              { s with
                line := s.lineFreed.withWaiting .fontWanted 0 (fontWantedBody w.font) .inbound
                fonts := { s.fonts with inbound := { s.fonts.inbound with askDue := false } } })) ∧
      (s.fonts.inbound.takeDue = false → s.fonts.inbound.askDue = false → f.desc.kind = .fontWanted →
        f.withdrawn = true ∨ (∀ w, s.fonts.inService = some w → w.state ≠ .asking) →
        exec .frameLeftLine s = .next { s with line := s.lineFreed })

/-- R3, R13, R22, R77, R104, R113, R116, R117, R122, R124, R169 to R171 and R177: a frame's leaving the line, owner by owner. -/
def Obligations.FrameLeavesLine : Prop :=
  Claims.FrameLeavesItsOwner ∧ Claims.CreditLeaves ∧ Claims.BlockLeaves ∧ Claims.DueFrameFollows

/-- R167, R168 and R175: a stuffing violation makes the line busy, and a frame read from its bits that fails its check, whose
kind code, class or body length is wrong, or whose start bit came in the quiet period, is handed to no block. -/
def Claims.BadFramesReachNoBlock : Prop :=
  (∀ (bits : List Bool) (s : State), violates bits = true →
      exec (.stuffingViolation bits) s = .next { s with line := { s.line with resync := true, idleBits := 0 } }) ∧
    ∀ (bits : List Bool) (f : Frame) (inQuiet : Bool) (s : State), receive bits = .whole f →
      inQuiet = true ∨ f.passes = false ∨ FrameKind.ofCode f.kind.toNat = none ∨
          (∃ kind, FrameKind.ofCode f.kind.toNat = some kind ∧
            (f.cls.toNat ≠ kind.cls ∨ ∀ h, readBody kind h f.body = none)) →
        exec (.frameDiscarded bits inQuiet) s = .next { s with line := { s.line with idleBits := 0 } }

/-- R167, R175, cases 6 and 7, and R176: a frame of any kind that comes in the quiet period or while the line is treated as
busy, or that is not addressed to the station, changes nothing but the line's idle count. -/
def Claims.UnheardFramesChangeNothing : Prop :=
  ∀ (i : Instr) (kind : FrameKind) (h : Header) (body : List Byte) (s : State), bodyOf i = some (kind, h, body) →
    s.line.quiet ≠ none ∨ s.line.resync = true ∨ s.station.addressed kind h.dest = false →
    exec i s = .next { s with line := { s.line with idleBits := 0 } }

/-- R176: a heard TEXT CREDIT or GALLEY REPORT is dropped. -/
def Claims.CreditsAndReportsAreDropped : Prop :=
  ∀ (h : Header) (id : GalleyId) (limit event reason : Nat) (counters : List Nat) (s : State),
    exec (.textCredit h id limit) s = .next { s with line := { s.line with idleBits := 0 } } ∧
      exec (.galleyReport h id event reason counters) s = .next { s with line := { s.line with idleBits := 0 } }

/-- R177 and R167: a station reset starts the quiet period, in which no frame is heard, and from the first 12 recessive bit
times behind its end on every frame addressed to the station is. -/
def Claims.QuietPeriod : Prop :=
  (∀ s : State, exec .quietPeriodEnd s = .next { s with line := { s.line with quiet := none } }) ∧
    (∀ (h : Header) (s : State), s.hears .stationReset h = true →
      ∃ t u, exec (.stationReset h) s = .next t ∧ t.line.quiet = some 250 ∧ (∀ k h', t.hears k h' = false) ∧
        exec .quietPeriodEnd t = .next u ∧ (∀ k h', u.hears k h' = false) ∧
        ∀ other, u.line.flight = none →
          ∃ v, exec (.contentionOpportunity other) u = .next v ∧
            ∀ k h', v.hears k h' = v.station.addressed k h'.dest) ∧
    ∀ (k : FrameKind) (h : Header) (s : State),
      s.hears k h = (!s.line.resync && s.line.quiet.isNone && s.station.addressed k h.dest)

/-- R171 and R173: the transmit queue never passes 16 descriptors, a frame that finds room is queued behind those of its
class and above, one that finds none displaces the youngest waiting report of a less urgent class, and otherwise it is
discarded with the queue unchanged. -/
def Obligations.TransmitQueueBounded : Prop :=
  ∀ (l : Line) (kind : FrameKind) (dest : BitVec 5) (body : List Byte) (owner : FrameOwner),
    l.count ≤ 16 →
    (l.offer true kind dest body owner).1.count ≤ 16 ∧
      (l.waitingReport owner = none → l.queue.Pairwise (fun a b => a.precedes b = true) →
        (∀ d ∈ l.queue, d.age < l.nextAge) →
        (l.offer true kind dest body owner).1.queue.Pairwise (fun a b => a.precedes b = true) ∧
          (l.count < 16 →
            (l.offer true kind dest body owner).2 = true ∧
              { kind := kind, dest := dest, body := body, owner := owner, age := l.nextAge } ∈
                (l.offer true kind dest body owner).1.queue ∧
              (l.offer true kind dest body owner).1.count = l.count + 1) ∧
          (∀ lost, l.count = 16 → l.displaceable kind.cls = some lost →
            (l.offer true kind dest body owner).2 = true ∧
              { kind := kind, dest := dest, body := body, owner := owner, age := l.nextAge } ∈
                (l.offer true kind dest body owner).1.queue ∧
              lost ∉ (l.offer true kind dest body owner).1.queue) ∧
          (l.count = 16 → l.displaceable kind.cls = none → l.offer true kind dest body owner = (l, false)))

/-- R172: a GALLEY REPORT offered while one for the same galley waits takes the older one's place and age, even in a full
queue, and no other descriptor is touched. -/
def Claims.ReportTakesThePlaceOfTheWaitingOne : Prop :=
  ∀ (before behind : List Descriptor) (l : Line) (old : Descriptor) (id : GalleyId) (dest : BitVec 5)
    (body : List Byte), l.queue = before ++ old :: behind → old.owner = .report id →
    (∀ d ∈ before ++ behind, d.owner ≠ .report id) →
    l.offer true .galleyReport dest body (.report id) =
      ({ l with
          queue :=
            before ++ { kind := .galleyReport, dest := dest, body := body, owner := .report id, age := old.age } ::
              behind }, true)

/-- R9, R11, R19, R22 and R164: a galley's suspension, its resuming, its being DONE, its abort and the abandonment of its
proofs each offer one GALLEY REPORT to the transmit queue, addressed to the poster, with the event, its reason, and the
counters as they stand. A galley with cancel pending enters SUSPENDED without a report. That it enters SUSPENDED, and that
its resuming is reported, is read from R19, which speaks of the report of a reason alone (log entry 36). -/
def Claims.ReportsOfAGalley : Prop :=
  ∀ (s : State) (id : GalleyId) (g : Galley), s.galleys.find id = some g → id.poster < 32 →
    (∀ why code, g.state = .composing ∨ g.state = .draining →
        (∃ font fonts,
          (why, code) ∈ [(Suspension.fontComposer font, 4), (.fontExposure fonts, 4), (.film, 5), (.jam, 6), (.halt, 7)]) →
        s.suspend id why =
          { s with
            galleys := s.galleys.update id fun g => { g with state := .suspended, suspension := some why }
            line := if g.cancelPending then s.line else s.lineReported id 2 code g.counters }) ∧
      (g.state = .suspended → g.compositionEnded = false →
        s.resume id =
          { s with
            galleys := s.galleys.update id fun g => { g with state := .composing, suspension := none }
            line := s.lineReported id 3 0 g.counters
            composer :=
              if s.composer.galley = some id ∧ s.composer.state = .held then
                { s.composer with state := .running, awaited := none }
              else s.composer }) ∧
      s.finishGalley id =
        State.evaluateCredit
          { s with
            galleys := { s.galleys with table := s.galleys.table.filter fun g => g.id ≠ id }
            line := s.lineReported id 4 0 g.counters } ∧
      (∀ why code, (why, code) ∈ [(AbortReason.cancelled, 1), (.textFault, 2), (.textTimeout, 3)] →
        s.composer.galley ≠ some id → s.composer.waiting = none →
        s.abort id why =
          State.evaluateCredit
            { State.recount { s with queue := removeRecords id s.queue } with
              galleys := { s.galleys with table := s.galleys.table.filter fun g => g.id ≠ id }
              line := s.lineReported id 5 code g.counters }) ∧
      ((∃ r ∈ s.queue, r.unproofed = true) → (∀ r ∈ s.queue, r.unproofed = true → r.line.galley = id) →
        s.abandonProofs =
          { s with
            queue := s.queue.map fun r => if r.unproofed then { r with proofed := true } else r
            line := s.lineReported id 7 0 g.counters })

/-- R5, R8, R10, R22 and R181: where the transmit queue has room, ACCEPTED waits in it when the station's own claim makes a
galley held, STARTED when the composer takes the head, and SUSPENDED for HALT for each galley without cancel pending that
a halt suspends. -/
def Claims.ReportsQueued : Prop :=
  ∀ (h : Header) (s : State) (id : GalleyId), s.station.takesPart = true → s.line.count ≤ 4 →
    s.galleys.table.length ≤ 4 → id.poster < 32 → (s.galleys.table.map Galley.id).Nodup →
    (∀ w, s.hears .galleyClaim h = true → h.sender = s.station.number → s.galleys.findWatch id = some w →
        w.state = .claimSent → s.galleys.table.length < 4 → s.galleys.find id = none →
        ∃ t, exec (.galleyClaim h id) s = .next t ∧ t.line.ReportWaits id 0 0 Counters.zero) ∧
      (∀ g, s.composer.state = .idle → s.galleys.head none = some id → s.galleys.find id = some g →
        ∃ t, exec .composerTakesHead s = .next t ∧ t.line.ReportWaits id 1 0 g.counters) ∧
      ∀ g, s.hears .stationHalt h = true → s.station.mode = .running → s.galleys.find id = some g →
        (g.state = .composing ∨ g.state = .draining) → g.cancelPending = false →
        (∃ r ∈ s.queue, r.attached = true ∧ r.line.galley = id ∧ (r.exposed && r.proofed) = false) →
        ∃ t, exec (.stationHalt h) s = .next t ∧ t.line.ReportWaits id 2 7 g.counters

/-- R21, with log entry 6: a PROOF_REFUSED for a galley id whose poster byte fits no destination field is offered with a
destination the manual does not give. -/
def Claims.RefusalToNoStation : Prop :=
  ∀ (h : Header) (id : GalleyId) (first last : Nat) (s : State), s.hears .proofWanted h = true → 32 ≤ id.poster →
    s.galleys.find id = none →
    ∃ dest : BitVec 5,
      exec (.proofWanted h id first last) s =
        .next
          { s with
            line :=
              (Line.offer { s.line with idleBits := 0 } s.station.takesPart .galleyReport dest
                (reportBody id 6 0 Counters.zero.toList) (.report id)).1 }

/-- R5, R8 to R11, R19, R22, R164, R172 and R181: the reports of a galley, and the place each takes among the waiting ones. -/
def Obligations.ReportReplacesWaitingReport : Prop :=
  Claims.ReportTakesThePlaceOfTheWaitingOne ∧ Claims.ReportsOfAGalley ∧ Claims.ReportsQueued ∧
    Claims.RefusalToNoStation

/-- R176 and R179: a listening station's line interface discards every frame offered to it, and it takes no posting. -/
def Claims.ListeningStation : Prop :=
  ∀ s : State, s.station.number = 0 ∨ s.station.number = 31 →
    (∀ kind dest body owner, s.line.offer s.station.takesPart kind dest body owner = (s.line, false)) ∧
      (∀ (h : Header) (p : Posting),
        exec (.galleyPosted h p) s = .next { s with line := { s.line with idleBits := 0 } }) ∧
      ∀ (h : Header) (font : Nat),
        exec (.fontWanted h font) s = .next { s with line := { s.line with idleBits := 0 } }

/-- R167, R168, R175, R176, R177 and R179: which frames reach no block, what the quiet period shuts out, and what a listening
station discards. -/
def Obligations.FramesReachNoBlock : Prop :=
  Claims.BadFramesReachNoBlock ∧ Claims.UnheardFramesChangeNothing ∧ Claims.CreditsAndReportsAreDropped ∧
    Claims.QuietPeriod ∧ Claims.ListeningStation

/-! ## Galleys -/

/-- R1 and R2: a well-formed posting that the station can take, and no other, makes one watch entry in CONSIDERING with its
claim delay and its 2000 ms expiry running; nothing else changes. -/
def Claims.PostingWatched : Prop :=
  ∀ (h : Header) (p : Posting) (s : State), s.hears .galleyPosted h = true →
    (∀ priority mode stock policy,
        Priority.ofCode p.priority = some priority → GalleyMode.ofCode p.mode = some mode →
        Stock.ofCode p.stock = some stock → FontPolicy.ofCode p.policy = some policy →
        Posting.wellPosted p = true → s.canTake p.id mode stock = true →
        exec (.galleyPosted h p) s =
          .next
            { s with
              line := { s.line with idleBits := 0 }
              galleys :=
                { s.galleys with
                  watch := s.galleys.watch ++
                    [{ id := p.id, priority := priority, mode := mode,
                       firstLine := if p.firstLine = 0 then 1 else p.firstLine, lastLine := p.lastLine,
                       fonts := p.fonts, policy := policy, length := p.length,
                       claimDelay := s.claimDelay priority mode p.fonts,
                       delay := some (s.claimDelay priority mode p.fonts), state := .considering, expiry := 2000 }] } }) ∧
      (Posting.wellPosted p = false ∨ 2 < p.priority ∨ 2 < p.mode ∨ 1 < p.stock ∨ 1 < p.policy ∨ s.station.mode = .halted ∨
          8 ≤ s.galleys.watch.length ∨ (s.galleys.findWatch p.id).isSome ∨ (s.galleys.find p.id).isSome ∨
          s.transport.state = .jammed ∨ s.transport.state = .filmOut ∨ s.transport.state = .takeUpFull ∨
          s.transport.state = .noCassette ∨ s.transport.stock = none ∨
          (∀ mode stock, GalleyMode.ofCode p.mode = some mode → Stock.ofCode p.stock = some stock →
            s.canTake p.id mode stock = false) →
        exec (.galleyPosted h p) s = .next { s with line := { s.line with idleBits := 0 } })

/-- R2: the claim delay by its terms; every claim delay lies in 2 to 255 ms, a RUSH galley's is never longer than a NORMAL one's, and one
font more on the list never makes it shorter. -/
def Claims.ClaimDelayBounds : Prop :=
  ∀ (s : State) (mode : GalleyMode) (fonts : List Nat) (priority : Priority),
    (∀ d : Nat,
        d = 4 + 8 * (fonts.filter fun f => (s.fonts.entry f).isNone && (s.fonts.catalogEntry f).isNone).length +
            6 * s.galleys.table.length + (if s.transport.remaining < 86400 then 64 else 0) +
            (if mode ≠ .film ∧ (s.proofer.printer.state = .asleep ∨ s.proofer.printer.state = .settling) then 32
              else 0) →
        s.claimDelay priority mode fonts = max 2 (min 255 (if priority = .rush then d / 2 else d))) ∧
      2 ≤ s.claimDelay priority mode fonts ∧ s.claimDelay priority mode fonts ≤ 255 ∧
      s.claimDelay .rush mode fonts ≤ s.claimDelay .normal mode fonts ∧
      ∀ font, s.claimDelay priority mode fonts ≤ s.claimDelay priority mode (font :: fonts)

/-- R1 and R2: what a posting heard does, and the claim delay it starts. -/
def Obligations.PostingHeard : Prop :=
  Claims.PostingWatched ∧ Claims.ClaimDelayBounds

/-- R3: at the expiry of the claim delay of an entry in CONSIDERING the claim is queued as the youngest of its class, and
the entry is in CLAIM_QUEUED; where a full queue discards the claim the entry is SETTLED. -/
def Claims.ClaimQueuedAtExpiry : Prop :=
  ∀ (id : GalleyId) (w : WatchEntry) (s : State), s.galleys.findWatch id = some w → w.state = .considering →
    1 ≤ s.station.number → s.station.number ≤ 30 →
    (s.line.count < 16 →
      exec (.claimDelayExpiry id) s =
        .next
          { s with
            line :=
              { s.line with
                queue :=
                  insertBy Descriptor.precedes
                    { kind := .galleyClaim, dest := 0, body := claimBody id, owner := .claim id, age := s.line.nextAge }
                    s.line.queue
                nextAge := s.line.nextAge + 1 }
            galleys := s.galleys.updateWatch id fun w => { w with delay := none, state := .claimQueued } }) ∧
      (16 ≤ s.line.count → s.line.displaceable 1 = none →
        exec (.claimDelayExpiry id) s =
          .next
            { s with galleys := s.galleys.updateWatch id fun w => { w with delay := none, state := .settled } })

/-- R6: a watch entry is removed at its expiry in whatever state it stands, its waiting claim with it; every other entry,
every galley and every other descriptor stays. -/
def Claims.WatchEntryExpires : Prop :=
  ∀ (id : GalleyId) (w : WatchEntry) (s : State), s.galleys.findWatch id = some w →
    ∃ t, exec (.watchExpiryTimer id) s = .next t ∧ t.galleys.findWatch id = none ∧
      (∀ id', id' ≠ id → t.galleys.findWatch id' = s.galleys.findWatch id') ∧ t.galleys.table = s.galleys.table ∧
      (w.state = .claimQueued → ∀ d ∈ t.line.queue, d.owner ≠ .claim id) ∧
      (∀ d ∈ s.line.queue, d.owner ≠ .claim id → d ∈ t.line.queue) ∧ t.composer = s.composer ∧ t.queue = s.queue ∧
      t.fonts = s.fonts ∧ t.imaging = s.imaging ∧ t.transport = s.transport ∧ t.proofer = s.proofer

/-- R3 and R6: the two timers of a watch entry. -/
def Obligations.WatchEntryTimers : Prop :=
  Claims.ClaimQueuedAtExpiry ∧ Claims.WatchEntryExpires

/-- R5 and R7: the station's own claim, heard while its entry waits for it and a record is free, makes the galley held: the
entry is gone, the record has the posting's values with the claim count as its stamp, and the claim count rises by one. -/
def Claims.OwnClaimHoldsTheGalley : Prop :=
  ∀ (h : Header) (id : GalleyId) (w : WatchEntry) (s : State), s.hears .galleyClaim h = true →
    h.sender = s.station.number → s.galleys.findWatch id = some w → (w.state = .claimSent ∨ w.state = .claimQueued) →
    s.galleys.table.length < 4 → s.galleys.find id = none →
    ∃ t g, exec (.galleyClaim h id) s = .next t ∧ t.galleys.findWatch id = none ∧
      t.galleys.find id = some g ∧ g.state = .waiting ∧ g.priority = w.priority ∧ g.mode = w.mode ∧
      g.firstLine = w.firstLine ∧ g.lastLine = w.lastLine ∧ g.fallback = w.fonts.headD 0 ∧
      g.fonts = w.fonts ∧ g.policy = w.policy ∧ g.length = w.length ∧ g.expected = (w.length + 31) / 32 ∧
      g.nextSegment = 0 ∧ g.segments = [] ∧ g.counters = Counters.zero ∧ g.cancelPending = false ∧
      g.compositionEnded = false ∧ g.suspension = none ∧ g.stamp = s.galleys.claimCount ∧
      t.galleys.claimCount = s.galleys.claimCount + 1 ∧
      t.galleys.table.map Galley.id = s.galleys.table.map Galley.id ++ [id] ∧ t.composer = s.composer ∧
      t.queue = s.queue ∧ t.imaging = s.imaging ∧ t.transport = s.transport ∧ t.proofer = s.proofer ∧
      t.fonts.directory = s.fonts.directory ∧ t.fonts.memory = s.fonts.memory

/-- R103: each distinct font of a galley come to be held is RESIDENT or wanted, or the want list is full; a font that was
wanted keeps its entry, and no entry is added for a RESIDENT font. -/
def Claims.HeldGalleyRaisesPrefetch : Prop :=
  ∀ (h : Header) (id : GalleyId) (w : WatchEntry) (s : State), s.hears .galleyClaim h = true →
    h.sender = s.station.number → s.galleys.findWatch id = some w → w.state = .claimSent →
    s.galleys.table.length < 4 →
    ∃ t, exec (.galleyClaim h id) s = .next t ∧
      (∀ font ∈ w.fonts,
        s.fonts.isResident font = true ∨ (t.fonts.want font).isSome = true ∨ 16 ≤ t.fonts.wants.length) ∧
      (∀ font x, s.fonts.want font = some x → t.fonts.want font = some x) ∧
      ∀ font x, s.fonts.want font = none → t.fonts.want font = some x →
        font ∈ w.fonts ∧ s.fonts.isResident font = false ∧ x.state = .waiting ∧ x.attempts = 0 ∧ x.demand = false

/-- R4: another station's claim settles the watch entry in every state, and withdraws a claim that waits; a claim for a
galley that is not watched changes nothing. -/
def Claims.OtherClaimSettles : Prop :=
  ∀ (h : Header) (id : GalleyId) (s : State), s.hears .galleyClaim h = true → h.sender ≠ s.station.number →
    (∀ w, s.galleys.findWatch id = some w →
      exec (.galleyClaim h id) s =
        .next
          { s with
            line :=
              if w.state = .claimQueued then
                { s.line with
                  idleBits := 0, queue := s.line.queue.filter fun d => d.owner != .claim id
                  flight := s.line.flight.map fun f =>
                    if f.desc.owner = .claim id then { f with withdrawn := true } else f }
              else { s.line with idleBits := 0 }
            galleys := s.galleys.updateWatch id fun w => { w with state := .settled, delay := none } }) ∧
      (s.galleys.findWatch id = none →
        exec (.galleyClaim h id) s = .next { s with line := { s.line with idleBits := 0 } })

/-- R4, R5, R7 and R103: the station's own claim holds the galley and raises its prefetch needs, another's settles the entry. -/
def Obligations.ClaimHeard : Prop :=
  Claims.OwnClaimHoldsTheGalley ∧ Claims.HeldGalleyRaisesPrefetch ∧ Claims.OtherClaimSettles

/-- R15, R17, R18 and R19: a cancel heard for a galley none of whose records is being exposed, a text fault and the text
timeout each end the galley: its record is gone, the composer is no longer on it, and none of its records that stood in the
queue stays attached, where the composer has no record of another galley on its hands. Nothing else happens but what
follows from the galley's end. -/
def Claims.AbortsEndTheGalley : Prop :=
  ∀ (id : GalleyId) (g : Galley) (s : State), s.galleys.find id = some g → g.cancelPending = false →
    ∀ i : Instr,
      (∃ h, i = .galleyCancel h id ∧ s.hears .galleyCancel h = true ∧
          ∀ r ∈ s.queue, r.line.galley = id → r.exposing = false) ∨
        (∃ h number units, i = .textSegment h id number units ∧ s.hears .textSegment h = true ∧ g.state ≠ .draining ∧
          g.compositionEnded = false ∧
          (g.nextSegment < number ∨
            number = g.nextSegment ∧
              (g.granted = none ∨ (∃ limit, g.granted = some limit ∧ limit < number) ∨
                units.length ≠ g.unitsOf number))) ∨
        (i = .textTimeout ∧ s.galleys.textTimer.isSome = true ∧ s.composer.galley = some id) →
      ∃ t, exec i s = .next t ∧ t.galleys.find id = none ∧ t.composer.galley ≠ some id ∧
        State.FollowUp { s with line := { s.line with idleBits := if i = .textTimeout then s.line.idleBits else 0 } } t ∧
        (s.composer.waiting = none → s.composer.todo = [] → ∀ r ∈ t.queue, r.attached = true → r.line.galley ≠ id)

/-- R18: a cancel heard while a record of the galley is being exposed waits for the exposure: cancel pending is set, the
composer is released from the galley, and its records stay. A further cancel changes nothing. -/
def Claims.CancelWaitsForTheExposure : Prop :=
  ∀ (h : Header) (id : GalleyId) (g : Galley) (s : State), s.hears .galleyCancel h = true →
    s.galleys.find id = some g →
    (g.cancelPending = false → (∃ r ∈ s.queue, r.attached = true ∧ r.exposing = true ∧ r.line.galley = id) →
      ∃ t g', exec (.galleyCancel h id) s = .next t ∧ t.galleys.find id = some g' ∧ g'.cancelPending = true ∧
        t.composer.galley ≠ some id ∧ t.queue = s.queue ∧ t.imaging = s.imaging ∧ t.transport = s.transport ∧
        t.proofer = s.proofer) ∧
      (g.cancelPending = true →
        exec (.galleyCancel h id) s = .next { s with line := { s.line with idleBits := 0 } })

/-- R15, R17, R18 and R19: what ends a galley at once, and what waits for an exposure. -/
def Obligations.CancelsAndAborts : Prop :=
  Claims.AbortsEndTheGalley ∧ Claims.CancelWaitsForTheExposure

/-- R20, whole: a cancel heard for a galley that is watched and not held removes the watch entry in every state, with its
waiting claim withdrawn; the station's own claim, heard afterwards, changes nothing. A cancel for an id that is neither
watched nor held changes nothing and queues no report. -/
def Obligations.CancelOfWatchedGalley : Prop :=
  ∀ (h : Header) (id : GalleyId) (s : State), s.hears .galleyCancel h = true → s.galleys.find id = none →
    (∀ w, s.galleys.findWatch id = some w →
      ∃ t, exec (.galleyCancel h id) s = .next t ∧
        t = { s with
              line :=
                if w.state = .claimQueued then
                  { s.line with
                    idleBits := 0, queue := s.line.queue.filter fun d => d.owner != .claim id
                    flight := s.line.flight.map fun f =>
                      if f.desc.owner = .claim id then { f with withdrawn := true } else f }
                else { s.line with idleBits := 0 }
              galleys := { s.galleys with watch := s.galleys.watch.filter fun w => w.id ≠ id } } ∧
        t.galleys.findWatch id = none ∧
        ∀ h', h'.sender = s.station.number → exec (.galleyClaim h' id) t = .next t) ∧
      (s.galleys.findWatch id = none →
        exec (.galleyCancel h id) s = .next { s with line := { s.line with idleBits := 0 } })

/-- R15: the segment expected, within the grant and of the length its number calls for, is stored behind the segments held,
and a composer that waits for text on the galley runs on; a repeat, and any segment of a galley that takes no more text, is
ignored. -/
def Obligations.SegmentHeard : Prop :=
  ∀ (h : Header) (id : GalleyId) (number : Nat) (units : List CodeWord) (g : Galley) (s : State),
    s.hears .textSegment h = true → s.galleys.find id = some g →
    (g.cancelPending = false → g.state ≠ .draining → g.compositionEnded = false → number = g.nextSegment →
      (∃ limit, g.granted = some limit ∧ number ≤ limit) →
      units.length = (if number + 1 = g.expected then g.length - 32 * (g.expected - 1) else 32) →
      exec (.textSegment h id number units) s =
        .next
          { s with
            line := { s.line with idleBits := 0 }
            composer :=
              if s.composer.state = .waitText ∧ s.composer.galley = some id then { s.composer with state := .running }
              else s.composer
            galleys :=
              { s.galleys.update id (fun g =>
                  { g with segments := g.segments ++ [units], nextSegment := g.nextSegment + 1 }) with
                textTimer :=
                  if s.composer.state = .waitText ∧ s.composer.galley = some id then none else s.galleys.textTimer } }) ∧
      (g.cancelPending = true ∨ g.state = .draining ∨ g.compositionEnded = true ∨ number < g.nextSegment →
        exec (.textSegment h id number units) s = .next { s with line := { s.line with idleBits := 0 } })

/-- R21, whole: a proof request is granted to a WAITING galley, with FILM made BOTH and the range replaced, and is refused with a
PROOF_REFUSED to the galley id's poster for any other; that report carries no reason, and counters of 0 for a galley the
station does not hold. The poster byte of the id is one that a destination field can hold. -/
def Obligations.ProofRequested : Prop :=
  ∀ (h : Header) (id : GalleyId) (first last : Nat) (s : State), s.hears .proofWanted h = true → id.poster < 32 →
    (∀ g, s.galleys.find id = some g → g.state = .waiting →
      exec (.proofWanted h id first last) s =
        .next
          { s with
            line := { s.line with idleBits := 0 }
            galleys := s.galleys.update id fun g =>
              { g with
                mode := if g.mode = .film then .both else g.mode
                firstLine := if first = 0 then 1 else first, lastLine := last } }) ∧
      ((∀ g, s.galleys.find id = some g → g.state ≠ .waiting) →
        exec (.proofWanted h id first last) s =
          .next
            { s with
              line :=
                (Line.offer { s.line with idleBits := 0 } s.station.takesPart .galleyReport
                  (BitVec.ofNat 5 id.poster)
                  (reportBody id 6 0 (((s.galleys.find id).map Galley.counters).getD Counters.zero).toList)
                  (.report id)).1 })

/-- R8 and R27: the IDLE composer takes the compose head; the galley is COMPOSING, every parameter and running item has its
value at galley start, and the composer runs, or waits for the galley's first text. -/
def Claims.HeadTaken : Prop :=
  ∀ (id : GalleyId) (g : Galley) (s : State), s.composer.state = .idle → s.galleys.head none = some id →
    s.galleys.find id = some g →
    ∃ t g', exec .composerTakesHead s = .next t ∧ State.MachineryKept s t ∧ t.queue = s.queue ∧ t.fonts = s.fonts ∧
      t.galleys.find id = some g' ∧ g'.state = .composing ∧ g'.counters = g.counters ∧ t.composer.galley = some id ∧
      t.composer.nextLine = 1 ∧ t.composer.line = LineBuild.empty ∧ t.composer.word = Word.empty ∧
      t.composer.space = none ∧ t.composer.waiting = none ∧
      t.composer.params =
        { font := g.fallback, size := 20, measure := 3360, indent := 0, leading := 240, quad := .justify, offset := 0,
          hyphenation := true, ladderLimit := 3, letterspaceCap := 0, track := 0, reverse := false, trim := 0,
          deferredMeasure := none, deferredIndent := none, firstLine := true, ladderCount := 0, pendingAdvance := 0,
          pendingBack := 0, cut := false, learn := none } ∧
      (t.composer.state = .running ∨ t.composer.state = .waitText ∧ t.galleys.textTimer = some 5000)

/-- R8: the head the IDLE composer takes is a WAITING galley, and no WAITING galley comes before it by priority, or by claim
order stamp within its priority. -/
def Claims.HeadIsFirstInComposeOrder : Prop :=
  ∀ (gu : GalleyUnit) (id : GalleyId), gu.head none = some id →
    ∃ g ∈ gu.table, g.id = id ∧ g.state = .waiting ∧
      ∀ g' ∈ gu.table, g'.state = .waiting →
        g.priority.rank < g'.priority.rank ∨ g.priority.rank = g'.priority.rank ∧ g.stamp ≤ g'.stamp

/-- R8 and R27: which galley the composer takes, and how it begins. -/
def Obligations.ComposerTakesTheHead : Prop :=
  Claims.HeadTaken ∧ Claims.HeadIsFirstInComposeOrder

/-- R12 and R13: a credit evaluation never commits more than the 256 slots, and never grants past the last segment of a
galley. -/
def Claims.CommitmentsWithinTheTextStore : Prop :=
  ∀ s : State, (s.galleys.table.map Galley.id).Nodup →
    (s.galleys.table.map fun g => g.segments.length + g.outstanding).sum ≤ 256 →
    (∀ g ∈ s.galleys.table, ∀ limit, g.granted = some limit → limit < g.expected) →
    ((s.evaluateCredit.galleys.table.map fun g => g.segments.length + g.outstanding).sum ≤ 256 ∧
      ∀ g ∈ s.evaluateCredit.galleys.table, ∀ limit, g.granted = some limit → limit < g.expected)

/-- R13 and R14: an evaluation grants the compose head as much of its need as the uncommitted slots allow, and the one galley
held that is not the head as much as they allow beyond 32. A grant of 8 segments or of all the need, and any for a galley
whose credit is unsent, raises the limit and queues a TEXT CREDIT carrying it; one that the full transmit queue discards
leaves the credit unsent. Otherwise the galley is as before. -/
def Claims.CreditGranted : Prop :=
  ∀ (s : State) (id : GalleyId) (g : Galley) (reserve need first a : Nat), (s.galleys.table.map Galley.id).Nodup →
    s.galleys.find id = some g → g.state ≠ .draining → g.compositionEnded = false → g.cancelPending = false →
    s.line.holds (fun d => d.owner == .credit id) = false → s.station.takesPart = true →
    (s.galleys.head s.composer.galley = some id ∧ reserve = 0 ∨
      s.galleys.head s.composer.galley ≠ some id ∧ s.galleys.table = [g] ∧ reserve = 32) →
    (g.granted = none ∧ need = g.expected ∧ first = 0 ∨
      ∃ limit, g.granted = some limit ∧ need = g.expected - 1 - limit ∧ first = limit + 1) →
    a = min need (256 - (s.galleys.table.map fun g => g.segments.length + g.outstanding).sum - reserve) →
    ∃ g', s.evaluateCredit.galleys.find id = some g' ∧
      (0 < a ∧ min 8 need ≤ a ∨ g.creditUnsent = true ∧ 0 < first + a →
        g'.granted = some (first + a - 1) ∧
          (s.line.count < 16 →
            g'.creditUnsent = false ∧ s.evaluateCredit.line.CreditWaits id (first + a - 1)) ∧
          (16 ≤ s.line.count → s.line.displaceable FrameKind.textCredit.cls = none → g'.creditUnsent = true)) ∧
      (a = 0 ∨ a < min 8 need → g.creditUnsent = false → g' = g)

/-- R13: an evaluation passes over a galley that is DRAINING, whose composition has ended, that has cancel pending, or that has
a TEXT CREDIT in the transmit queue. -/
def Claims.CreditPassedOver : Prop :=
  ∀ (s : State) (id : GalleyId) (g : Galley), (s.galleys.table.map Galley.id).Nodup → s.galleys.find id = some g →
    g.state = .draining ∨ g.compositionEnded = true ∨ g.cancelPending = true ∨
        s.line.holds (fun d => d.owner == .credit id) = true →
      s.evaluateCredit.galleys.find id = some g

/-- R12 to R14: what a credit evaluation grants and queues, whom it passes over, and the text store it stays within. -/
def Obligations.CreditStaysWithinTheTextStore : Prop :=
  Claims.CommitmentsWithinTheTextStore ∧ Claims.CreditGranted ∧ Claims.CreditPassedOver

/-! ## Setting codes -/

/-- R28: FONT, SIZE and TRACK set their parameters, held to their ranges, and nothing else of the composer changes. -/
def Claims.FontSizeTrack : Prop :=
  ∀ (p : Nat) (s : State),
    (s.taking (.font p) = true →
      ∃ t, exec (.font p) s = .next t ∧
        s.UnitTaken { s.composer with params := { s.composer.params with font := p } } t) ∧
      (s.taking (.size p) = true →
        ∃ t, exec (.size p) s = .next t ∧
          s.UnitTaken { s.composer with params := { s.composer.params with size := max 10 (min 288 p) } } t) ∧
      (s.taking (.track p) = true →
        ∃ t, exec (.track p) s = .next t ∧
          s.UnitTaken
            { s.composer with params := { s.composer.params with track := if p ≤ 16 then (p : Int) - 8 else 8 } } t)

/-- R29: MEASURE and INDENT take effect at once on an empty line and are deferred to its close otherwise. -/
def Claims.MeasureIndent : Prop :=
  ∀ (p : Nat) (s : State),
    (s.taking (.measure p) = true →
      ∃ t, exec (.measure p) s = .next t ∧
        s.UnitTaken
          { s.composer with
            params :=
              if s.composer.line.items = [] ∧ s.composer.word.boxes = [] then
                { s.composer.params with measure := 20 * max 6 (min 720 p) }
              else { s.composer.params with deferredMeasure := some (20 * max 6 (min 720 p)) } } t) ∧
      (s.taking (.indent p) = true →
        ∃ t, exec (.indent p) s = .next t ∧
          s.UnitTaken
            { s.composer with
              params :=
                if s.composer.line.items = [] ∧ s.composer.word.boxes = [] then
                  { s.composer.params with indent := 20 * p }
                else { s.composer.params with deferredIndent := some (20 * p) } } t)

/-- R30 and R32: QUAD sets the mode of its parameter, HYPHENATE and LADDER the hyphenation and the ladder limit held to 1
to 7; the ladder count stays. -/
def Claims.QuadHyphenateLadder : Prop :=
  ∀ (p : Nat) (s : State),
    (∀ quad, (p, quad) ∈ [(0, Quad.left), (1, Quad.right), (2, Quad.center), (3, Quad.justify)] →
        s.taking (.quad p) = true →
        ∃ t, exec (.quad p) s = .next t ∧
          s.UnitTaken { s.composer with params := { s.composer.params with quad := quad } } t) ∧
      (s.taking (.hyphenate p) = true →
        ∃ t, exec (.hyphenate p) s = .next t ∧
          s.UnitTaken { s.composer with params := { s.composer.params with hyphenation := decide (p ≠ 0) } } t) ∧
      (s.taking (.ladder p) = true →
        ∃ t, exec (.ladder p) s = .next t ∧
          s.UnitTaken { s.composer with params := { s.composer.params with ladderLimit := max 1 (min 7 p) } } t)

/-- R28, R29, R30 and R32: the units whose values the words and the breaks use. -/
def Obligations.SettingParameters : Prop :=
  Claims.FontSizeTrack ∧ Claims.MeasureIndent ∧ Claims.QuadHyphenateLadder

/-- R31: LEAD, OFFSET, REVERSE, DENSITY and LETTERSPACE set the values that the next record closed reads. -/
def Claims.LeadOffsetReverseDensityLetterspace : Prop :=
  ∀ (p : Nat) (s : State),
    (s.taking (.lead p) = true →
      ∃ t, exec (.lead p) s = .next t ∧
        s.UnitTaken { s.composer with params := { s.composer.params with leading := min (5 * p) 2880 } } t) ∧
      (s.taking (.offset p) = true →
        ∃ t, exec (.offset p) s = .next t ∧
          s.UnitTaken { s.composer with params := { s.composer.params with offset := min (20 * p) 14400 } } t) ∧
      (s.taking (.reverse p) = true →
        ∃ t, exec (.reverse p) s = .next t ∧
          s.UnitTaken { s.composer with params := { s.composer.params with reverse := decide (p ≠ 0) } } t) ∧
      (s.taking (.density p) = true →
        ∃ t, exec (.density p) s = .next t ∧
          s.UnitTaken
            { s.composer with params := { s.composer.params with trim := if p ≤ 4 then (p : Int) - 2 else 2 } } t) ∧
      (s.taking (.letterspace p) = true →
        ∃ t, exec (.letterspace p) s = .next t ∧
          s.UnitTaken { s.composer with params := { s.composer.params with letterspaceCap := min p 40 } } t)

/-- R37 and R38: ADVANCE and BACK add to the pending moves, each sum held at 28800 minims and the other kept, and CUT sets
the cut flag. -/
def Claims.AdvanceBackCut : Prop :=
  ∀ (p : Nat) (s : State),
    (s.taking (.advance p) = true →
      ∃ t, exec (.advance p) s = .next t ∧
        s.UnitTaken
          { s.composer with
            params :=
              { s.composer.params with pendingAdvance := min 28800 (s.composer.params.pendingAdvance + 5 * p) } } t) ∧
      (s.taking (.back p) = true →
        ∃ t, exec (.back p) s = .next t ∧
          s.UnitTaken
            { s.composer with
              params := { s.composer.params with pendingBack := min 28800 (s.composer.params.pendingBack + 5 * p) } }
            t) ∧
      (s.taking .cut = true →
        ∃ t, exec .cut s = .next t ∧
          s.UnitTaken { s.composer with params := { s.composer.params with cut := true } } t)

/-- R31, R37 and R38: the units whose values the next record takes. -/
def Obligations.RecordParameters : Prop :=
  Claims.LeadOffsetReverseDensityLetterspace ∧ Claims.AdvanceBackCut

/-- R25, R33 and R34: an ignored unit is consumed and changes nothing else; outside a learn sequence FIXED SPACE adds a box
of its kind's width to the word, and SOFT HYPHEN records the word's box count once, in a word that holds a box. -/
def Obligations.UnitsWithinAWord : Prop :=
  ∀ s : State,
    (∀ u, s.taking (.ignoredUnit u) = true →
      ∃ t, exec (.ignoredUnit u) s = .next t ∧ s.UnitTaken s.composer t) ∧
      (s.composer.params.learn = none →
        (∀ p width, (p, width) ∈
              [(1, (s.composer.params.size * 10 + 2) / 4), (2, s.composer.params.size * 5),
                (3, s.composer.params.size * 10)] →
            s.taking (.fixedSpace p) = true →
            ∃ t, exec (.fixedSpace p) s = .next t ∧
              s.UnitTaken
                { s.composer with
                  word := { s.composer.word with boxes := s.composer.word.boxes ++ [.fixed width] } } t) ∧
          (s.taking .softHyphen = true →
            ∃ t, exec .softHyphen s = .next t ∧
              s.UnitTaken
                { s.composer with
                  word :=
                    if s.composer.word.boxes = [] ∨ s.composer.word.boxes.length ∈ s.composer.word.soft then
                      s.composer.word
                    else
                      { s.composer.word with soft := s.composer.word.soft ++ [s.composer.word.boxes.length] } } t))

/-- R39: LEARN opens a learn sequence, with any open one discarded. While it is open a letter is folded and appended up to
24 letters, SOFT HYPHEN marks a point once, and any other character and FIXED SPACE make the word not valid; the line and
the word in progress stay. That a character is taken there whatever its font's state is the model's choice (log entry
15). -/
def Obligations.LearnSequence : Prop :=
  ∀ s : State,
    (∀ p, s.taking (.learn p) = true →
      ∃ t, exec (.learn p) s = .next t ∧
        s.UnitTaken
          { s.composer with
            params :=
              { s.composer.params with
                learn := some { never := decide (p = 1), letters := [], points := [], valid := true } } } t) ∧
      ∀ w, s.composer.params.learn = some w →
        (∀ code, s.taking (.characterUnit code) = true →
          ∃ t, exec (.characterUnit code) s = .next t ∧
            s.UnitTaken
              { s.composer with
                params :=
                  { s.composer.params with
                    learn :=
                      some
                        (if isLetter code = true ∧ w.letters.length < 24 then
                          { w with letters := w.letters ++ [fold code] }
                        else { w with valid := false }) } } t) ∧
          (∀ p, s.taking (.fixedSpace p) = true →
            ∃ t, exec (.fixedSpace p) s = .next t ∧
              s.UnitTaken
                { s.composer with params := { s.composer.params with learn := some { w with valid := false } } } t) ∧
          (s.taking .softHyphen = true →
            ∃ t, exec .softHyphen s = .next t ∧
              s.UnitTaken
                { s.composer with
                  params :=
                    { s.composer.params with
                      learn :=
                        some
                          (if w.letters.length ∈ w.points then w
                          else { w with points := w.points ++ [w.letters.length] }) } } t)

/-- R40, R76 and R77: END LEARN closes the sequence. A valid word of 2 to 24 letters is entered as a local word, and where
at most 4 frames stand in the transmit queue its WORD LEARNED is queued; any other is discarded. -/
def Claims.EndLearn : Prop :=
  ∀ s : State, s.taking .endLearn = true →
    (s.composer.params.learn.bind LearnWord.handed = none →
      ∃ t, exec .endLearn s = .next t ∧
        s.UnitTaken { s.composer with params := { s.composer.params with learn := none } } t) ∧
      ∀ w, s.composer.params.learn = some w → w.valid = true → 2 ≤ w.letters.length → w.letters.length ≤ 24 →
        ∃ t points, exec .endLearn s = .next t ∧
          (∀ j, j ∈ points ↔ w.never = false ∧ 1 ≤ j ∧ j < w.letters.length ∧ j ∈ w.points) ∧
          t.hyphenation = s.hyphenation.learnLocal w.letters w.never points ∧
          t.composer.params = { s.composer.params with learn := none } ∧ t.composer.line = s.composer.line ∧
          t.composer.word = s.composer.word ∧ t.queue = s.queue ∧ t.fonts = s.fonts ∧
          (s.station.takesPart = true → s.line.count ≤ 4 → s.galleys.table.length ≤ 4 →
            ∃ d ∈ t.line.queue, d.kind = .wordLearned ∧ d.owner = .hyphenation ∧
              d.body = wordLearnedBody w.never w.letters points)

/-! ## Composition -/

/-- R45 and R46: a character whose font is at least METRICS adds a box of its width, rounded to the nearest minim, to the
word; one with no width is dropped with the MISSING mark. -/
def Claims.CharacterInItsFont : Prop :=
  ∀ (code : Nat) (m : Metrics) (s : State), s.taking (.characterUnit code) = true → code ≠ 32 →
    s.composer.params.learn = none → s.fonts.atLeastMetrics s.composer.params.font = true →
    s.fonts.metricsOf s.composer.params.font = some m →
    (∀ w, m.width code = some w → boxesChars s.composer.word.boxes < 160 →
      ((fontsOf s.composer.word.boxes).length < 8 ∨
        s.composer.params.font ∈ fontsOf s.composer.word.boxes ∧ (fontsOf s.composer.word.boxes).length = 8) →
      ∃ t, exec (.characterUnit code) s = .next t ∧ State.MachineryKept s t ∧ t.queue = s.queue ∧
        (t.composer.state = .running ∨ t.composer.state = .waitText) ∧
        t.composer =
          { s.composer with
            state := t.composer.state
            word :=
              { s.composer.word with
                boxes := s.composer.word.boxes ++
                  [.char code s.composer.params.font s.composer.params.size
                    (((max 0 ((w : Int) + s.composer.params.track)).toNat * s.composer.params.size * 10 + 32) /
                      64)] } }) ∧
      (m.width code = none →
        ∃ t, exec (.characterUnit code) s = .next t ∧
          s.UnitTaken { s.composer with word := { s.composer.word with missing := true } } t)

/-- R46, R47 and R104: a character whose font is neither at hand nor given up is not taken, and the composer waits on the
font with a demand for it on the want list. Where the font is given up, policy HOLD suspends the galley and holds the
composer, and policy SUBSTITUTE, where the fallback font is at hand, sets the character in it with the SUBSTITUTED mark. Of
a fallback that is itself awaited or given up (R47) nothing is said here. -/
def Claims.FontWaitedOnOrGivenUp : Prop :=
  ∀ (code : Nat) (g : Galley) (s : State), s.taking (.characterUnit code) = true → code ≠ 32 →
    s.composer.params.learn = none → s.workingGalley = some g →
    s.fonts.atLeastMetrics s.composer.params.font = false →
    (s.fonts.want s.composer.params.font = none → s.fonts.wants.length < 16 →
      exec (.characterUnit code) s =
        .next
          { s with
            composer := { s.composer with state := .waitFont, awaited := some s.composer.params.font }
            fonts :=
              { s.fonts with
                wants := s.fonts.wants ++
                  [{ font := s.composer.params.font, state := .waiting, attempts := 0, firstBlock := 0, demand := true,
                     timer := none }] } }) ∧
      ∀ w, s.fonts.want s.composer.params.font = some w → w.state = .unavailable →
        (w.demand = true ∨ ∀ r, s.exposureNext = some r → s.composer.params.font ∉ r.line.fonts) →
        (g.policy = .hold → g.state = .composing →
          ∃ t g' w', exec (.characterUnit code) s = .next t ∧
            t.composer = { s.composer with state := .held, awaited := some s.composer.params.font } ∧
            t.galleys.find g.id = some g' ∧ g'.state = .suspended ∧
            g'.suspension = some (.fontComposer s.composer.params.font) ∧ g'.consumed = g.consumed ∧
            t.queue = s.queue ∧ t.fonts.want s.composer.params.font = some w' ∧ w'.state = .unavailable ∧
            w'.demand = true ∧ w'.timer = some (w.timer.getD 10000)) ∧
          (∀ m v, g.policy = .substitute → s.fonts.atLeastMetrics g.fallback = true →
            s.fonts.metricsOf g.fallback = some m → m.width code = some v → boxesChars s.composer.word.boxes < 160 →
            ((fontsOf s.composer.word.boxes).length < 8 ∨
              g.fallback ∈ fontsOf s.composer.word.boxes ∧ (fontsOf s.composer.word.boxes).length = 8) →
            ∃ t, exec (.characterUnit code) s = .next t ∧ t.queue = s.queue ∧
              t.composer.params.font = s.composer.params.font ∧ t.composer.word.substituted = true ∧
              t.composer.word.boxes = s.composer.word.boxes ++
                [.char code g.fallback s.composer.params.size
                  (characterWidth v s.composer.params.track s.composer.params.size)])

/-- R102 to R104: a demand for a font that has a want entry sets the entry's demand, starts the deferral limit of a DEFERRED
one, and keeps its place. On a full list it replaces the youngest entry that is neither a demand nor LOADING, whose service
ends with its own FONT WANTED withdrawn where it is ASKING, and where there is none it is kept among the refused demands. That a demand refused again, while an
earlier refusal of it still stands among them, keeps the place of the earlier one is the model's choice (log entry 39). The
composer waits on the font in each case. -/
def Claims.DemandOnTheWantList : Prop :=
  ∀ (code : Nat) (s : State) (c : Composer), s.taking (.characterUnit code) = true → code ≠ 32 →
    s.composer.params.learn = none → s.fonts.atLeastMetrics s.composer.params.font = false →
    (s.fonts.wants.map Want.font).Nodup →
    c = { s.composer with state := .waitFont, awaited := some s.composer.params.font } →
    (∀ before w behind, s.fonts.wants = before ++ w :: behind → w.font = s.composer.params.font →
        w.state ≠ .unavailable →
        exec (.characterUnit code) s =
          .next
            { s with
              composer := c
              fonts :=
                { s.fonts with
                  wants := before ++
                    { w with
                      demand := true
                      timer := if w.state = .deferred ∧ w.timer = none then some 10000 else w.timer } :: behind } }) ∧
      (s.fonts.want s.composer.params.font = none → 16 ≤ s.fonts.wants.length →
        (∀ before w behind, s.fonts.wants = before ++ w :: behind → w.demand = false → w.state ≠ .loading →
            (∀ x ∈ behind, x.demand = true ∨ x.state = .loading) → s.fonts.refused = [] →
            ∃ t, exec (.characterUnit code) s = .next t ∧ t.composer = c ∧
              t.fonts.wants = before ++ behind ++
                [{ font := s.composer.params.font, state := .waiting, attempts := 0, firstBlock := 0, demand := true,
                   timer := none }] ∧
              t.fonts.refused = [] ∧
              (∀ own : Descriptor → Bool,
                own = (fun d => d.owner == .inbound && d.kind == .fontWanted && d.body == fontWantedBody w.font) →
                w.state = .asking →
                t.line =
                    { s.line with
                      queue := s.line.queue.filter fun d => !own d
                      flight :=
                        s.line.flight.map fun f => if own f.desc then { f with withdrawn := true } else f } ∧
                  t.fonts.inbound = { s.fonts.inbound with unsent := false, askDue := false }) ∧
              (w.state ≠ .asking → t.line = s.line ∧ t.fonts.inbound = s.fonts.inbound) ∧ t.queue = s.queue ∧ t.galleys = s.galleys) ∧
          ((∀ w ∈ s.fonts.wants, w.demand = true ∨ w.state = .loading) →
            exec (.characterUnit code) s =
              .next
                { s with
                  composer := c
                  fonts :=
                    { s.fonts with
                      refused :=
                        if (Party.composer, s.composer.params.font) ∈ s.fonts.refused then s.fonts.refused
                        else s.fonts.refused ++ [(Party.composer, s.composer.params.font)] } }))

/-- R46, R47 and R102 to R104: a character without its font. The first block wanted of a new want entry (log entry 3), and the
place of a demand that is refused again (log entry 39), are the model's choices. -/
def Obligations.CharacterWithoutItsFont : Prop :=
  Claims.FontWaitedOnOrGivenUp ∧ Claims.DemandOnTheWantList

/-- R26, R48 and R54: an interword space taken behind placed words becomes the waiting space, with the glue of the last
character's font and size, nominal, minimum and maximum, or of 16 units at the current size; one that follows another, or
comes on an empty line, is dropped. -/
def Claims.SpaceBehindPlacedWords : Prop :=
  ∀ s : State, s.taking (.characterUnit 32) = true → s.composer.params.learn = none →
    s.composer.word = Word.empty →
    ∃ t, exec (.characterUnit 32) s = .next t ∧ s.FollowUp t ∧ t.composer.line = s.composer.line ∧
      t.composer.word = Word.empty ∧
      (s.composer.line.items = [] ∨ s.composer.space.isSome = true → t.composer.space = s.composer.space) ∧
      (s.composer.line.items ≠ [] → s.composer.space = none →
        s.SpaceIs s.composer.line.boxes t.composer.space)

/-- R26, R48, R50, R51 and R54: an interword space ends the word in progress. A word that fits an empty line, or fits behind
the waiting space, is placed with its marks, and the space becomes the waiting space behind it. -/
def Claims.SpaceEndsTheWord : Prop :=
  ∀ (s : State) (c : Composer), s.taking (.characterUnit 32) = true → s.composer.params.learn = none → s.composer = c →
    c.word.boxes ≠ [] →
    (c.line.items = [] ∧ boxesWidth c.word.boxes ≤ c.params.available ∨
      c.line.items ≠ [] ∧ c.testBase + boxesWidth c.word.boxes ≤ c.params.available ∧
        c.line.chars + boxesChars c.word.boxes ≤ 160 ∧ (fontsOf (c.line.boxes ++ c.word.boxes)).length ≤ 8) →
    ∃ t, exec (.characterUnit 32) s = .next t ∧ s.FollowUp t ∧ t.composer.params = c.params ∧
      t.composer.nextLine = c.nextLine ∧ t.composer.word = Word.empty ∧
      t.composer.line =
        { items :=
            c.line.items ++ (if c.line.items = [] then [] else (c.space.map Item.glue).toList) ++ wordItems c.word.boxes
          missing := c.line.missing || c.word.missing, substituted := c.line.substituted || c.word.substituted } ∧
      s.SpaceIs (c.line.boxes ++ c.word.boxes) t.composer.space

/-- R26, R48, R50, R51 and R54: the interword space, and its glue. -/
def Obligations.InterwordSpace : Prop :=
  Claims.SpaceBehindPlacedWords ∧ Claims.SpaceEndsTheWord

/-- R35, R36 and R55: END LINE and END PARA close one record where no word is in progress: the line is empty
again, the moves, the cut flag and the ladder count are at rest, deferred parameters are in effect, the next line number and
the galley's count of set lines have risen by one, and the next line is a first line after END PARA. -/
def Claims.LineOrParagraphEnds : Prop :=
  ∀ (para : Bool) (g : Galley) (s : State), s.taking (if para then .endPara else .endLine) = true →
    s.workingGalley = some g → s.composer.word.boxes = [] → s.queue.length < 32 →
    ∃ t g', exec (if para then .endPara else .endLine) s = .next t ∧ s.FollowUp t ∧
      t.composer.line = LineBuild.empty ∧ t.composer.word = Word.empty ∧ t.composer.space = none ∧
      t.composer.nextLine = s.composer.nextLine + 1 ∧ t.galleys.find g.id = some g' ∧
      g'.counters.setLines = min (g.counters.setLines + 1) 65535 ∧
      t.composer.params =
        { s.composer.params with
          pendingAdvance := 0, pendingBack := 0, cut := false, ladderCount := 0
          firstLine := para || (s.composer.params.firstLine && s.composer.line.boxes.isEmpty)
          measure := s.composer.params.deferredMeasure.getD s.composer.params.measure
          indent := s.composer.params.deferredIndent.getD s.composer.params.indent
          deferredMeasure := none, deferredIndent := none }

/-- R60 to R63 and R98: the record that END LINE or END PARA closes stands at the tail of the queue, with the fields that R62
gives it, its runs at the positions of a line set by quad, attached and not exposed, behind nothing but records that stood
there; its galley's set counter and the counters of the flags it carries rise, and its fonts take the use count as their
stamp. The galley is one that wants film. -/
def Claims.ClosedRecordAppended : Prop :=
  ∀ (para : Bool) (g : Galley) (s : State) (c : Composer) (set : LineSetting) (missing substituted text : Bool),
    s.taking (if para then .endPara else .endLine) = true → s.workingGalley = some g → s.composer = c →
    c.word.boxes = [] → s.queue.length < 32 → (g.mode = .film ∨ g.mode = .both) →
    set = setByQuad c.line c.params.available c.params.quad → text = !c.line.boxes.isEmpty →
    missing = (c.line.missing || c.word.missing) → substituted = (c.line.substituted || c.word.substituted) →
    ∃ t g' q, exec (if para then .endPara else .endLine) s = .next t ∧ t.galleys.find g.id = some g' ∧
      t.queue.getLast? = some q ∧ (t.queue.dropLast.map QueueRecord.line).Sublist (s.queue.map QueueRecord.line) ∧
      q.attached = true ∧ q.exposed = false ∧ q.exposing = false ∧ q.rasterizing = false ∧
      q.line =
        { galley := g.id, number := c.nextLine, kind := if text then .text else .blank, leading := c.params.leading,
          advance := c.params.pendingAdvance, back := c.params.pendingBack, offset := c.params.offset,
          measure := c.params.measure, setWidth := if text then (c.line.natural : Int) else 0
          flags := { Flags.none with missing := missing, substituted := substituted }
          reverse := text && c.params.reverse, trim := c.params.trim, cutAfter := c.params.cut
          runs :=
            runsOf (positions ((c.params.effectiveIndent + set.quadOffset : Nat) : Int) c.line.items set.glues [])
          fonts := q.line.fonts, needsExposure := true
          needsProof :=
            decide (g.mode = .both) && decide (g.firstLine ≤ c.nextLine) &&
              (decide (g.lastLine = 0) || decide (c.nextLine ≤ g.lastLine)) } ∧
      q.line.fonts.Nodup ∧ (∀ font, font ∈ q.line.fonts ↔ ∃ run ∈ q.line.runs, run.font = font) ∧
      g'.counters =
        { g.counters with
          setLines := min (g.counters.setLines + 1) 65535
          missing := if missing then min (g.counters.missing + 1) 65535 else g.counters.missing
          substituted := if substituted then min (g.counters.substituted + 1) 65535 else g.counters.substituted } ∧
      (s.fonts.useCount < 65535 → ∀ font ∈ q.line.fonts, ∀ e, t.fonts.entry font = some e →
        e.stamp = s.fonts.useCount)

/-- R63 and R84: a record closed while 32 records stand in the queue and none can leave is kept by the composer, which waits
for the queue with the line empty and the record counted as no record of the queue yet. -/
def Claims.FullQueueRefuses : Prop :=
  ∀ (para : Bool) (g : Galley) (s : State) (r : QueueRecord), s.taking (if para then .endPara else .endLine) = true →
    s.workingGalley = some g → s.composer.word.boxes = [] → 32 ≤ s.queue.length →
    (∀ q ∈ s.queue, q.attached = true) → s.queue.head? = some r → r.exposed = false → r.line.needsExposure = true →
    ∃ t g' l, exec (if para then .endPara else .endLine) s = .next t ∧ t.composer.state = .waitQueue ∧
      t.composer.waiting = some l ∧ l.galley = g.id ∧ l.number = s.composer.nextLine ∧
      t.composer.nextLine = s.composer.nextLine + 1 ∧ t.composer.line = LineBuild.empty ∧
      t.queue.map QueueRecord.line = s.queue.map QueueRecord.line ∧ t.galleys.find g.id = some g' ∧
      g'.counters = g.counters

/-- R35, R36, R50, R51, R54 and R60 to R63: END LINE and END PARA end the word in progress. A word that fits an empty line, or fits
behind the waiting space, is placed with its marks, and the line that holds it closes as one record set by quad, at the tail of
the queue. The galley is one that wants film. -/
def Claims.WordThenLineEnds : Prop :=
  ∀ (para : Bool) (g : Galley) (s : State) (c : Composer) (line : LineBuild) (set : LineSetting),
    s.taking (if para then .endPara else .endLine) = true → s.workingGalley = some g → s.composer = c →
    c.word.boxes ≠ [] → s.queue.length < 32 → (g.mode = .film ∨ g.mode = .both) →
    (c.line.items = [] ∧ boxesWidth c.word.boxes ≤ c.params.available ∨
      c.line.items ≠ [] ∧ c.testBase + boxesWidth c.word.boxes ≤ c.params.available ∧
        c.line.chars + boxesChars c.word.boxes ≤ 160 ∧ (fontsOf (c.line.boxes ++ c.word.boxes)).length ≤ 8) →
    line =
      { items :=
          c.line.items ++ (if c.line.items = [] then [] else (c.space.map Item.glue).toList) ++ wordItems c.word.boxes
        missing := c.line.missing || c.word.missing, substituted := c.line.substituted || c.word.substituted } →
    set = setByQuad line c.params.available c.params.quad →
    ∃ t g' q, exec (if para then .endPara else .endLine) s = .next t ∧ s.FollowUp t ∧
      t.composer.line = LineBuild.empty ∧ t.composer.word = Word.empty ∧ t.composer.space = none ∧
      t.composer.nextLine = c.nextLine + 1 ∧ t.composer.params.firstLine = para ∧
      t.galleys.find g.id = some g' ∧ g'.counters.setLines = min (g.counters.setLines + 1) 65535 ∧
      t.queue.getLast? = some q ∧ (t.queue.dropLast.map QueueRecord.line).Sublist (s.queue.map QueueRecord.line) ∧
      q.line.galley = g.id ∧ q.line.number = c.nextLine ∧ q.line.kind = .text ∧ q.line.setWidth = line.natural ∧
      q.line.flags = { Flags.none with missing := line.missing, substituted := line.substituted } ∧
      q.line.cutAfter = c.params.cut ∧
      q.line.runs = runsOf (positions ((c.params.effectiveIndent + set.quadOffset : Nat) : Int) line.items set.glues [])

/-- R35, R36, R53 and R54: where the word in progress does not fit behind placed words, and hyphenation is off, END LINE and END
PARA give two records: the line broken before the word, and the word carried and closed alone, where it fits the next line. The
galley is one that wants film. -/
def Claims.CarriedWordThenLineEnds : Prop :=
  ∀ (para : Bool) (g : Galley) (s : State) (c : Composer),
    s.taking (if para then .endPara else .endLine) = true → s.workingGalley = some g → s.composer = c →
    c.line.boxes ≠ [] → c.word.boxes ≠ [] → s.queue.length < 31 → (g.mode = .film ∨ g.mode = .both) →
    c.params.available < c.testBase + boxesWidth c.word.boxes → c.params.hyphenation = false →
    boxesWidth c.word.boxes ≤ c.params.deferredMeasure.getD c.params.measure →
    ∃ t g' q q' rest, exec (if para then .endPara else .endLine) s = .next t ∧ s.FollowUp t ∧
      t.composer.line = LineBuild.empty ∧ t.composer.word = Word.empty ∧ t.composer.nextLine = c.nextLine + 2 ∧
      t.composer.params.firstLine = para ∧ t.galleys.find g.id = some g' ∧
      g'.counters.setLines = min (g.counters.setLines + 2) 65535 ∧ t.queue = rest ++ [q, q'] ∧
      (rest.map QueueRecord.line).Sublist (s.queue.map QueueRecord.line) ∧
      q.line.galley = g.id ∧ q.line.number = c.nextLine ∧ q.line.kind = .text ∧
      q.line.codes = c.line.boxes.filterMap Box.code? ∧ q.line.cutAfter = c.params.cut ∧
      q.line.flags.hyphenated = false ∧
      q'.line.galley = g.id ∧ q'.line.number = c.nextLine + 1 ∧ q'.line.kind = .text ∧
      q'.line.codes = c.word.boxes.filterMap Box.code? ∧ q'.line.cutAfter = false ∧
      q'.line.setWidth = (boxesWidth c.word.boxes : Int)

/-- R35, R36, R50, R51, R53 to R55, R60 to R63, R84 and R98: a line ended, with a word in progress and without, its record, and
its append. -/
def Obligations.LineAndParagraphEnds : Prop :=
  Claims.LineOrParagraphEnds ∧ Claims.ClosedRecordAppended ∧ Claims.WordThenLineEnds ∧ Claims.CarriedWordThenLineEnds ∧
    Claims.FullQueueRefuses

/-- R16, R41, R9 and R11: END GALLEY is taken whatever the composer holds: nothing follows but the composer's and the queue's
own work, and the galley, while it is held, has its composition ended. -/
def Claims.EndGalleyTaken : Prop :=
  ∀ (g : Galley) (s : State), s.taking .endGalley = true → s.workingGalley = some g →
    ∃ t, exec .endGalley s = .next t ∧ s.FollowUp t ∧
      ∀ g', t.galleys.find g.id = some g' → g'.compositionEnded = true

/-- R41, R11 and R9: END GALLEY on an empty line with no cut flag closes no record: the composer is IDLE with everything of
the galley discarded, and the galley is DONE, or DRAINING or SUSPENDED with its composition ended and its counters as they
were. No record is added to the queue, and where none could leave it the queue is unchanged. -/
def Claims.EndGalleyOnAnEmptyLine : Prop :=
  ∀ (g : Galley) (s : State), s.taking .endGalley = true → s.workingGalley = some g → s.composer.word.boxes = [] →
    s.composer.line.items = [] → s.composer.params.cut = false →
    ∃ t, exec .endGalley s = .next t ∧ s.FollowUp t ∧ t.composer = Composer.rest ∧ t.galleys.textTimer = none ∧
      (t.queue.map QueueRecord.line).Sublist (s.queue.map QueueRecord.line) ∧
      (s.markNotNeeded = s → s.departure.isNone = true → t.queue = s.queue) ∧
      ∀ g', t.galleys.find g.id = some g' →
        g'.compositionEnded = true ∧ (g'.state = .draining ∨ g'.state = .suspended) ∧ g'.counters = g.counters

/-- R41: END GALLEY closes a line in progress as a TEXT record with the pending moves and the cut flag, and a cut flag alone as
a BLANK record with cut after and no moves. The record stands at the tail of the queue, the galley's set counter has risen
by one, the galley is DRAINING or SUSPENDED with its composition ended, and the composer is IDLE. The galley is one that
wants film. -/
def Claims.EndGalleyClosesItsLine : Prop :=
  ∀ (g : Galley) (s : State) (c : Composer), s.taking .endGalley = true → s.workingGalley = some g → s.composer = c →
    c.word.boxes = [] → s.queue.length < 32 → (g.mode = .film ∨ g.mode = .both) →
    (c.line.boxes ≠ [] ∨ c.line.items = [] ∧ c.params.cut = true) →
    ∃ t g' q, exec .endGalley s = .next t ∧ t.composer = Composer.rest ∧ t.galleys.find g.id = some g' ∧
      g'.compositionEnded = true ∧ (g'.state = .draining ∨ g'.state = .suspended) ∧
      g'.counters.setLines = min (g.counters.setLines + 1) 65535 ∧ t.queue.getLast? = some q ∧
      (t.queue.dropLast.map QueueRecord.line).Sublist (s.queue.map QueueRecord.line) ∧ q.line.galley = g.id ∧
      q.line.number = c.nextLine ∧ q.line.cutAfter = c.params.cut ∧
      (c.line.boxes ≠ [] →
        q.line.kind = .text ∧ q.line.advance = c.params.pendingAdvance ∧ q.line.back = c.params.pendingBack) ∧
      (c.line.items = [] → q.line.kind = .blank ∧ q.line.advance = 0 ∧ q.line.back = 0 ∧ q.line.runs = [])

/-- R86: a record that does not need a walk has that walk's mark once every attached record before it that needs the walk has
its own; no record that needs the walk is marked so, and nothing else of the queue changes. -/
def Claims.NotNeededMarks : Prop :=
  ∀ s : State, s.markNotNeeded = { s with queue := s.markNotNeeded.queue } ∧
    s.markNotNeeded.queue.map (fun r => { r with exposed := false, proofed := false }) =
        s.queue.map (fun r => { r with exposed := false, proofed := false }) ∧
      ∀ (before behind : List QueueRecord) (r : QueueRecord), s.queue = before ++ r :: behind →
        ∃ r', s.markNotNeeded.queue[before.length]? = some r' ∧
          (r.attached = true → r.line.needsExposure = false →
            (∀ q ∈ before, q.attached = true → q.line.needsExposure = true → q.exposed = true) → r'.exposed = true) ∧
          (r.attached = true → r.line.needsProof = false →
            (∀ q ∈ before, q.attached = true → q.line.needsProof = true → q.proofed = true) → r'.proofed = true) ∧
          (r.attached = false ∨ r.line.needsExposure = true ∨
              (∃ q ∈ before, q.attached = true ∧ q.line.needsExposure = true ∧ q.exposed = false) →
            r'.exposed = r.exposed) ∧
          (r.attached = false ∨ r.line.needsProof = true ∨
              (∃ q ∈ before, q.attached = true ∧ q.line.needsProof = true ∧ q.proofed = false) →
            r'.proofed = r.proofed)

/-- R84, R89, R9 and R11: the head leaves the queue when it has both its marks and no detached record is to leave before it. A
record that waits with the composer is appended at the tail and the composer goes on. The head's galley is DONE where it is
DRAINING, or SUSPENDED with its composition ended, and no attached record of it is left, and it stays held otherwise. -/
def Claims.RecordsLeave : Prop :=
  ∀ (s : State) (r : QueueRecord) (rest : List QueueRecord), s.queue = r :: rest →
    (∀ q ∈ s.queue, q.attached = true) →
    ((r.exposed && r.proofed) = false → s.departure.isNone = true) ∧
      (r.exposed = true → r.proofed = true →
        ∃ t, s.departure = some t ∧
          (∀ l, s.composer.state = .waitQueue → s.composer.waiting = some l → rest.length < 32 →
            t.composer.waiting = none ∧ (t.composer.state = .running ∨ t.composer.state = .idle) ∧
              t.queue = rest ++
                [{ line := l, exposed := false, proofed := false, attached := true, exposing := false,
                   rasterizing := false }]) ∧
          (s.composer.waiting = none →
            t.queue = rest ∧
              ∀ g, s.galleys.find r.line.galley = some g → g.cancelPending = false →
                s.composer.galley ≠ some r.line.galley →
                (g.state = .draining ∨ g.state = .suspended ∧ g.compositionEnded = true →
                  (∀ q ∈ rest, q.line.galley ≠ r.line.galley) →
                  t.galleys.find r.line.galley = none ∧
                    (s.station.takesPart = true → r.line.galley.poster < 32 → s.line.count ≤ 4 →
                      s.galleys.table.length ≤ 4 → t.line.ReportWaits r.line.galley 4 0 g.counters)) ∧
                ((∃ q ∈ rest, q.line.galley = r.line.galley) ∨
                    g.state ≠ .draining ∧ ¬(g.state = .suspended ∧ g.compositionEnded = true) →
                  t.galleys.find r.line.galley = some g)))

/-- R9, R11, R16, R41, R84, R86 and R89: END GALLEY, the records it closes, and the records' leaving. -/
def Obligations.GalleyEnds : Prop :=
  Claims.EndGalleyTaken ∧ Claims.EndGalleyOnAnEmptyLine ∧ Claims.EndGalleyClosesItsLine ∧ Claims.NotNeededMarks ∧
    Claims.RecordsLeave

/-- R45: a character's width is its units, with the track in force, at the size to the nearest minim, a half rounded up, and a
track that brings the units below 0 gives a width of 0. -/
def Claims.WidthsRoundToTheNearestMinim : Prop :=
  ∀ (w h : Nat) (t : Int),
    (0 ≤ (w : Int) + t →
      64 * (characterWidth w t h : Int) ≤ ((w : Int) + t) * h * 10 + 32 ∧
        ((w : Int) + t) * h * 10 + 32 < 64 * (characterWidth w t h : Int) + 64) ∧
      ((w : Int) + t < 0 → characterWidth w t h = 0)

/-- R45 and R46: a character set in its own font, and the rounding of its width. -/
def Obligations.CharacterSet : Prop :=
  Claims.CharacterInItsFont ∧ Claims.WidthsRoundToTheNearestMinim

/-- R56 to R58: a justified line fills its available width exactly, by its glues and letter gaps, or, where it holds one word
too narrow to letterspace, by the trailing fill that the LOOSE flag marks; no letter gap passes the cap, and a line
has letter gaps exactly when it is flagged LETTERSPACED. -/
def Obligations.JustifiedLineFillsTheMeasure : Prop :=
  ∀ (l : LineBuild) (width cap : Nat),
    (l.glues ≠ [] →
      (boxesWidth l.boxes : Int) + (justify l width cap).glues.sum + ((justify l width cap).gaps.sum : Nat) = width ∧
        (justify l width cap).glues.length = l.glues.length) ∧
      (l.glues = [] → l.natural ≤ width →
        (justify l width cap).setWidth = width ∧
          ((justify l width cap).flags.loose = false →
            l.natural + (justify l width cap).gaps.sum = width)) ∧
      (∀ gap ∈ (justify l width cap).gaps, gap ≤ cap) ∧
      (justify l width cap).quadOffset = 0 ∧
      ((justify l width cap).gaps ≠ [] ↔ (justify l width cap).flags.letterspaced = true)

/-- R60, whole: the offset of a line set by quad, its nominal glues, no letter gaps, its natural set width, and no LOOSE or
TIGHT. -/
def Obligations.LineSetByQuad : Prop :=
  ∀ (l : LineBuild) (width : Nat) (quad : Quad) (slack : Int), slack = (width : Int) - (l.natural : Int) →
    (setByQuad l width quad).glues = l.glues.map (fun g => (g.nominal : Int)) ∧
      (setByQuad l width quad).gaps = [] ∧ (setByQuad l width quad).setWidth = l.natural ∧
      (setByQuad l width quad).flags.loose = false ∧ (setByQuad l width quad).flags.tight = false ∧
      (slack < 0 → (setByQuad l width quad).quadOffset = 0) ∧
      (0 ≤ slack →
        (quad = .left → (setByQuad l width quad).quadOffset = 0) ∧
          (quad = .right → ((setByQuad l width quad).quadOffset : Int) = slack) ∧
          (quad = .center → ((setByQuad l width quad).quadOffset : Int) = slack / 2))

/-- R50 to R53: a test that does not take the word closes one record, which holds at least one box, and the word it carries
to the empty line is shorter unless the whole word is carried from a line that held others. A word that fits a line, or an
empty line, closes nothing. -/
def Claims.BreaksPlaceBoxes : Prop :=
  ∀ (c : Composer) (u : Hyphenation) (fs : FontStore) (g : Galley),
    (c.line.items ≠ [] → c.line.boxes ≠ []) →
    (c.line.items = [] ∧ boxesWidth c.word.boxes ≤ c.params.available ∨
        c.line.items ≠ [] ∧ c.testBase + boxesWidth c.word.boxes ≤ c.params.available ∧
          c.line.chars + boxesChars c.word.boxes ≤ 160 ∧ (fontsOf (c.line.boxes ++ c.word.boxes)).length ≤ 8 →
      (c.testWord u fs g).todo = c.todo ∧ (c.testWord u fs g).word = Word.empty ∧
        (c.testWord u fs g).nextLine = c.nextLine) ∧
    (((c.testWord u fs g).todo = c.todo ∧ (c.testWord u fs g).word = Word.empty ∧
        (c.testWord u fs g).nextLine = c.nextLine) ∨
      ∃ r, (c.testWord u fs g).todo = .offer r :: .test :: c.todo ∧ r.kind = .text ∧ r.number = c.nextLine ∧
        r.galley = g.id ∧ (c.testWord u fs g).line = LineBuild.empty ∧
        (c.testWord u fs g).nextLine = c.nextLine + 1 ∧
        ((c.testWord u fs g).word.boxes.length < c.word.boxes.length ∨
          c.line.items ≠ [] ∧ (c.testWord u fs g).word = c.word))

/-- R50 and R51: a word that does not fit closes the line. On an empty line that is a forced break, flagged OVERSET, which places
as many boxes as fit, and the first in any case; on a line with words, or where the word passes the character or the font
limit, it is a break that is not forced. -/
def Claims.WordThatDoesNotFitClosesTheLine : Prop :=
  ∀ (c : Composer) (u : Hyphenation) (fs : FontStore) (g : Galley), c.word.boxes ≠ [] →
    (c.line.items = [] → c.params.available < boxesWidth c.word.boxes →
      ∃ r n, (c.testWord u fs g).todo = .offer r :: .test :: c.todo ∧ r.flags.overset = true ∧
        r.flags.hyphenated = false ∧ 1 ≤ n ∧ n ≤ c.word.boxes.length ∧
        (2 ≤ n → boxesWidth (c.word.boxes.take n) ≤ c.params.available) ∧
        (n < c.word.boxes.length → c.params.available < boxesWidth (c.word.boxes.take (n + 1))) ∧
        r.codes = (c.word.boxes.take n).filterMap Box.code? ∧
        (c.testWord u fs g).word.boxes = c.word.boxes.drop n) ∧
      (c.line.items ≠ [] →
        c.params.available < c.testBase + boxesWidth c.word.boxes ∨
          160 < c.line.chars + boxesChars c.word.boxes ∨ 8 < (fontsOf (c.line.boxes ++ c.word.boxes)).length →
        ∃ r, (c.testWord u fs g).todo = .offer r :: .test :: c.todo ∧ r.flags.overset = false)

/-- R52 and R53: where a hyphen break is allowed, the line breaks at the last point of the reply that fits, with the boxes before
it placed, a hyphen behind them unless the last of them is one, and the boxes after it carried. Where no point fits the whole
word is carried. -/
def Claims.HyphenBreakAtTheLastPointThatFits : Prop :=
  ∀ (c : Composer) (u : Hyphenation) (fs : FontStore) (g : Galley), c.word.boxes ≠ [] → c.line.items ≠ [] →
    c.params.available < c.testBase + boxesWidth c.word.boxes → c.line.chars + boxesChars c.word.boxes ≤ 160 →
    (fontsOf (c.line.boxes ++ c.word.boxes)).length ≤ 8 → c.params.hyphenation = true →
    c.params.ladderCount < c.params.ladderLimit →
    (∀ p ∈ u.points c.word.boxes c.word.soft, c.PointFits fs p →
      (∀ p' ∈ u.points c.word.boxes c.word.soft, c.PointFits fs p' → p' ≤ p) →
      ∃ r, (c.testWord u fs g).todo = .offer r :: .test :: c.todo ∧ r.flags.hyphenated = true ∧
        r.codes =
          (c.line.boxes ++ c.word.boxes.take p).filterMap Box.code? ++
            (if c.word.boxes[p - 1]?.any Box.isHyphen then [] else [45]) ∧
        (c.testWord u fs g).word.boxes = c.word.boxes.drop p) ∧
      ((∀ p ∈ u.points c.word.boxes c.word.soft, ¬c.PointFits fs p) →
        ∃ r, (c.testWord u fs g).todo = .offer r :: .test :: c.todo ∧ r.flags.hyphenated = false ∧
          r.codes = c.line.boxes.filterMap Box.code? ∧ (c.testWord u fs g).word = c.word)

/-- R81: no break is a hyphen break while hyphenation is off or the ladder count has reached the limit, and the count rises
by one at a hyphen break and falls to 0 at any other. -/
def Claims.LadderHolds : Prop :=
  ∀ (c : Composer) (u : Hyphenation) (fs : FontStore) (g : Galley) (r : SetLine),
    (c.testWord u fs g).todo = .offer r :: .test :: c.todo →
    (c.params.hyphenation = false ∨ c.params.ladderLimit ≤ c.params.ladderCount → r.flags.hyphenated = false) ∧
      (r.flags.hyphenated = true → (c.testWord u fs g).params.ladderCount = c.params.ladderCount + 1) ∧
      (r.flags.hyphenated = false → (c.testWord u fs g).params.ladderCount = 0)

/-- R61: the runs of a line list its characters once each, in order, with their positions, and no two runs that follow one
another have the same font and size. That a fixed space between two characters ends no run is the model's choice (log entry
16). -/
def Claims.RunsListTheCharacters : Prop :=
  ∀ placed : List (Box × Int),
    ((runsOf placed).flatMap fun r => r.chars.map fun c => (r.font, r.size, c.1, c.2)) =
        placed.filterMap (fun b =>
          match b.1 with
          | .char code font size _ => some (font, size, code, b.2)
          | .fixed _ => none) ∧
      (runsOf placed).IsChain (fun a b => ¬(a.font = b.font ∧ a.size = b.size)) ∧
      ∀ r ∈ runsOf placed, r.chars ≠ []

/-- R50 to R53, R61 and R81: the breaks of a line, the ladder, and the run list. -/
def Obligations.BreaksAndRuns : Prop :=
  Claims.BreaksPlaceBoxes ∧ Claims.WordThatDoesNotFitClosesTheLine ∧ Claims.HyphenBreakAtTheLastPointThatFits ∧
    Claims.LadderHolds ∧ Claims.RunsListTheCharacters

/-! ## Hyphenation -/

/-- R65, R67 and R70: the reply to a request is in rising order, lies within the word, and keeps the edge minima for rule
points. Beside the hard points it has the points of the dictionary's entry for the core and no others, be they none; without
an entry the soft hyphens; and without either, for a letters-only core of 5 to 24 letters, the rule points. Points of
the core count from the boxes before its first letter on. That a core of 25 letters or more has none of these is the sentence
behind R67's table; the table says at least 5 (log entry 38). -/
def Obligations.HyphenReply : Prop :=
  ∀ (u : Hyphenation) (boxes : List Box) (soft : List Nat),
    (u.points boxes soft).Pairwise (· < ·) ∧
      (∀ p ∈ u.points boxes soft, 1 ≤ p ∧ p < boxes.length) ∧
      (∀ core, ∀ j ∈ rulePoints core, 2 ≤ j ∧ j + 3 ≤ core.length) ∧
      (∀ core e, foldedCore boxes = some core → 2 ≤ core.length → core.length ≤ 24 → u.find core = some e →
        (∀ p, p ∈ u.points boxes soft ↔
          1 ≤ p ∧ p < boxes.length ∧ (p ∈ hardPoints boxes ∨ ∃ j ∈ e.points, p = leadOf boxes + j)) ∧
        (e.points = [] → ∀ p ∈ u.points boxes soft, p ∈ hardPoints boxes)) ∧
      ((∀ core, foldedCore boxes = some core → 2 ≤ core.length → core.length ≤ 24 → u.find core = none) →
        ((∃ p ∈ soft, p < boxes.length) →
            ∀ p, p ∈ u.points boxes soft ↔ 1 ≤ p ∧ p < boxes.length ∧ (p ∈ hardPoints boxes ∨ p ∈ soft)) ∧
          ((∀ p ∈ soft, boxes.length ≤ p) →
            (∀ core, foldedCore boxes = some core → 5 ≤ core.length → core.length ≤ 24 →
              ∀ p, p ∈ u.points boxes soft ↔
                1 ≤ p ∧ p < boxes.length ∧ (p ∈ hardPoints boxes ∨ ∃ j ∈ rulePoints core, p = leadOf boxes + j)) ∧
            ((∀ core, foldedCore boxes = some core → core.length < 5 ∨ 24 < core.length) →
              ∀ p, p ∈ u.points boxes soft ↔ 1 ≤ p ∧ p < boxes.length ∧ p ∈ hardPoints boxes)))

/-- R76: a word taught at the station is always entered, with its kind and points as a local entry, and the dictionary stays
within its 400 entries. -/
def Claims.LocalWordAlwaysEntered : Prop :=
  ∀ (u : Hyphenation) (word points : List Nat) (never : Bool), u.entries.length ≤ 400 →
    ∃ e, (u.learnLocal word never points).find word = some e ∧ e.never = never ∧ e.points = points ∧
      e.origin = .here ∧ (u.learnLocal word never points).entries.length ≤ 400

/-- R40, R76 and R77: a learn sequence closed, and a word of it entered. -/
def Obligations.LearnedWord : Prop :=
  Claims.EndLearn ∧ Claims.LocalWordAlwaysEntered

/-- R78 and R79: a heard word that passes its check is ignored against a local entry, replaces a heard one, and is entered
where there is room, with the sender as its origin; a frame of the station's own, and one that fails the check, change
nothing. Nothing is queued. -/
def Obligations.HeardWord : Prop :=
  ∀ (h : Header) (body : List Byte) (s : State), s.hears .wordLearned h = true →
    (h.sender = s.station.number ∨ readWord body = none →
      exec (.wordLearned h body) s = .next { s with line := { s.line with idleBits := 0 } }) ∧
      ∀ never letters points, readWord body = some (never, letters, points) → h.sender ≠ s.station.number →
        (∀ e, s.hyphenation.find letters = some e → e.origin = .here →
          exec (.wordLearned h body) s = .next { s with line := { s.line with idleBits := 0 } }) ∧
          ((∃ e, s.hyphenation.find letters = some e ∧ e.origin ≠ .here) ∨
              s.hyphenation.find letters = none ∧ s.hyphenation.entries.length < 400 →
            ∃ u e,
              exec (.wordLearned h body) s =
                .next { s with line := { s.line with idleBits := 0 }, hyphenation := u } ∧
              u.find letters = some e ∧ e.never = never ∧ e.points = points ∧ e.origin = .heard h.sender ∧
              ∀ word, word ≠ letters → (u.find word).map DictEntry.points =
                (s.hyphenation.find word).map DictEntry.points)

/-- R80, whole: a heard word that finds the dictionary full takes the place of the oldest heard entry, and of no other; with
no heard entry the word is discarded and the dictionary is unchanged. -/
def Obligations.HeardWordInAFullDictionary : Prop :=
  ∀ (h : Header) (body : List Byte) (s : State) (never : Bool) (letters points : List Nat),
    s.hears .wordLearned h = true → readWord body = some (never, letters, points) → h.sender ≠ s.station.number →
    s.hyphenation.entries.length = 400 → s.hyphenation.find letters = none →
    (s.hyphenation.entries.map DictEntry.word).Nodup →
    (∀ old ∈ s.hyphenation.entries, old.origin ≠ .here →
      (∀ e ∈ s.hyphenation.entries, e.origin ≠ .here → e ≠ old → old.stamp < e.stamp) →
      ∃ u e,
        exec (.wordLearned h body) s = .next { s with line := { s.line with idleBits := 0 }, hyphenation := u } ∧
        u.entries.length = 400 ∧ u.find old.word = none ∧ u.find letters = some e ∧ e.never = never ∧
        e.points = points ∧ e.origin = .heard h.sender ∧
        ∀ k ∈ s.hyphenation.entries, k ≠ old →
          ∃ k', u.find k.word = some k' ∧ k'.never = k.never ∧ k'.points = k.points ∧ k'.origin = k.origin) ∧
      ((∀ e ∈ s.hyphenation.entries, e.origin = .here) →
        exec (.wordLearned h body) s = .next { s with line := { s.line with idleBits := 0 } })

/-! ## The font store -/

/-- R94 and R100: the 256 bytes of a block read back as they were written, and every other byte of the block store is
unchanged. -/
def Claims.BlockReadsBack : Prop :=
  ∀ (m : Memory) (block : Nat) (data : List Byte), Memory.wf m → data.length = 256 →
    Memory.readBlock (m.writeBlock block data) block = data ∧
      ∀ a, a < 256 * block ∨ 256 * (block + 1) ≤ a → Memory.read (m.writeBlock block data) a = Memory.read m a

/-- R100, R111 and R118: the block that the inbound channel awaits, read from the cartridge or heard from the lender, is
stored at the next place of the font's block list. The entry is METRICS with its second block and RESIDENT with its last, with
which its want entry is gone and the channel is IDLE; before the last the channel awaits the next block. No galley is
added, and the queue, the film, the proofs and the dictionary are not touched. -/
def Claims.BlockLoaded : Prop :=
  ∀ (i : Instr) (data : List Byte) (e : DirEntry) (s : State), s.fonts.entry s.fonts.inbound.font = some e →
    (i = .cartridgeBlockRead data ∧ s.fonts.inbound.mode = .cartLoad ∨
      ∃ h, i = .fontBlock h s.fonts.inbound.font s.fonts.inbound.next data ∧ s.fonts.inbound.mode = .lineLoad ∧
        s.hears .fontBlock h = true ∧ h.sender = s.fonts.inbound.lender) →
    ∃ t e', exec i s = .next t ∧
      t.fonts.memory = Memory.writeBlock s.fonts.memory (e.blocks.getD e.present 0) data ∧
      t.fonts.entry s.fonts.inbound.font = some e' ∧ e'.present = e.present + 1 ∧ e'.blocks = e.blocks ∧
      e'.total = e.total ∧ e'.lendable = e.lendable ∧
      e'.state = (if e.present + 1 = e.total then .resident else if e.present + 1 = 2 then .metrics else e.state) ∧
      (e'.state = .resident →
        t.fonts.want s.fonts.inbound.font = none ∧ t.fonts.inbound = Inbound.rest) ∧
      (e'.state ≠ .resident →
        t.fonts.inbound.next = s.fonts.inbound.next + 1 ∧ t.fonts.inbound.mode = s.fonts.inbound.mode) ∧
      t.queue = s.queue ∧ (t.galleys.table.map Galley.id).Sublist (s.galleys.table.map Galley.id) ∧
      t.imaging = s.imaging ∧ t.transport = s.transport ∧ t.proofer = s.proofer ∧ t.hyphenation = s.hyphenation

/-- R94, R100, R111 and R118: a block of a font stored, and read back. -/
def Obligations.BlockStored : Prop :=
  Claims.BlockReadsBack ∧ Claims.BlockLoaded

/-- R118 and R119: of the blocks heard from the lender for the channel's font, one below the next is ignored, and one above it
ends the attempt: the channel is IDLE, a LOADING entry is FREE, a METRICS entry is cut back to its two metrics blocks, and a
want entry with one attempt more than before waits again while that is below 3. The stall timer ends it alike (R117). A block
from another party, or for another font, is ignored. -/
def Obligations.LineLoadBroken : Prop :=
  ∀ (i : Instr) (w : Want) (s : State), s.fonts.inbound.mode = .lineLoad →
    s.fonts.want s.fonts.inbound.font = some w →
    (∀ h index data, i = .fontBlock h s.fonts.inbound.font index data → s.hears .fontBlock h = true →
        h.sender = s.fonts.inbound.lender → index < s.fonts.inbound.next →
        exec i s = .next { s with line := { s.line with idleBits := 0 } }) ∧
      (∀ h font index data, i = .fontBlock h font index data →
        h.sender ≠ s.fonts.inbound.lender ∨ font ≠ s.fonts.inbound.font →
        exec i s = .next { s with line := { s.line with idleBits := 0 } }) ∧
      ((∃ h index data, i = .fontBlock h s.fonts.inbound.font index data ∧ s.hears .fontBlock h = true ∧
            h.sender = s.fonts.inbound.lender ∧ s.fonts.inbound.next < index) ∨
          i = .stallTimer ∧ s.fonts.inbound.stall.isSome = true →
        w.attempts + 1 < 3 →
        ∃ t, exec i s = .next t ∧ t.fonts.inbound = Inbound.rest ∧
          t.fonts.want s.fonts.inbound.font =
            some { w with attempts := w.attempts + 1, state := .waiting, timer := none } ∧
          (∀ e ∈ t.fonts.directory, e.font = s.fonts.inbound.font →
            e.state ≠ .loading ∧ (e.state = .metrics → e.present = 2 ∧ e.blocks.length ≤ 2)) ∧
          t.fonts.memory = s.fonts.memory ∧ t.composer = s.composer ∧ t.queue = s.queue ∧ t.galleys = s.galleys ∧
          t.fonts.catalog = s.fonts.catalog ∧ t.fonts.outbound = s.fonts.outbound)

/-- R99, R105, R107, R111, R113, R171 and R173: the IDLE inbound channel takes the WAITING entry that is next into service, with
its first block wanted 2 where the font holds its metrics and 0 otherwise. With the cartridge as its source a load begins,
whatever frame of the channel stands in the transmit queue, the directory, the memory and the blocks being those that the
allocation leaves, or the entry is DEFERRED where the allocation fails; without it the entry asks the line with a FONT WANTED,
which a full transmit queue always discards, being of class 2, and where it is discarded on queueing the asking wait starts at
once. While a frame of an earlier service stands in the transmit queue the entry is ASKING with its FONT WANTED still to be
queued (the model's choice, log entry 23). Every other want entry is as the allocation leaves it. -/
def Claims.WaitingEntryTaken : Prop :=
  ∀ (w : Want) (first : Nat) (s : State), s.fonts.inbound.mode = .idle → s.fonts.inService = none →
    (∀ f, s.line.flight = some f → f.withdrawn = true → ¬(f.desc.owner = .inbound ∧ f.desc.kind = .fontWanted)) →
    s.fonts.nextWaiting = some w →
    s.fonts.want w.font = some w → first = (if (s.fonts.entry w.font).isSome then 2 else 0) →
    (∀ c, s.fonts.cartridgeSource w.font = some c →
      ∃ t, exec .inboundTakesEntry s = .next t ∧ t.line = s.line ∧ t.galleys = s.galleys ∧ t.composer = s.composer ∧
        t.queue = s.queue ∧ t.imaging = s.imaging ∧ t.transport = s.transport ∧ t.fonts.memory = s.fonts.memory ∧
        (s.fonts.allocate w.font c.total c.lendable = none →
          t.fonts.directory = s.fonts.directory ∧ t.fonts.useCount = s.fonts.useCount ∧
            t.fonts.inbound = Inbound.rest ∧
            t.fonts.want w.font =
              some
                { w with
                  state := .deferred, firstBlock := first, timer := if w.demand then some 10000 else none } ∧
            ∀ font, font ≠ w.font → t.fonts.want font = s.fonts.want font) ∧
        (∀ fs, s.fonts.allocate w.font c.total c.lendable = some fs →
          t.fonts.directory = fs.directory ∧ t.fonts.useCount = fs.useCount ∧
            t.fonts.inbound =
              { Inbound.rest with
                mode := .cartLoad, font := w.font, next := first, total := c.total, read := some 5 } ∧
            t.fonts.want w.font = some { w with state := .loading, firstBlock := first, timer := none } ∧
            ∀ font, font ≠ w.font → t.fonts.want font = fs.want font)) ∧
      (s.fonts.cartridgeSource w.font = none → s.line.holds (fun d => d.owner == .inbound) = true →
        exec .inboundTakesEntry s =
          .next
            { s with
              fonts :=
                { s.fonts.updateWant w.font (fun w =>
                    { w with state := .asking, timer := none, firstBlock := first }) with
                  inbound := { Inbound.rest with askDue := true } } }) ∧
      (s.fonts.cartridgeSource w.font = none → s.line.holds (fun d => d.owner == .inbound) = false →
        s.station.takesPart = true → s.line.count < 16 →
        exec .inboundTakesEntry s =
          .next
            { s with
              line :=
                { s.line with
                  queue :=
                    insertBy Descriptor.precedes
                      { kind := .fontWanted, dest := 0, body := fontWantedBody w.font, owner := .inbound,
                        age := s.line.nextAge }
                      s.line.queue
                  nextAge := s.line.nextAge + 1 }
              fonts :=
                { s.fonts.updateWant w.font (fun w =>
                    { w with state := .asking, timer := none, firstBlock := first }) with
                  inbound := Inbound.rest } }) ∧
      (s.fonts.cartridgeSource w.font = none → s.line.holds (fun d => d.owner == .inbound) = false →
        s.station.takesPart = false ∨ 16 ≤ s.line.count →
        exec .inboundTakesEntry s =
          .next
            { s with
              fonts :=
                { s.fonts.updateWant w.font (fun w =>
                    { w with state := .asking, timer := some 120, firstBlock := first }) with
                  inbound := { Inbound.rest with unsent := true } } })

/-- R104 and R105: no entry is taken while the channel is not IDLE, while an entry is in service, where none waits, and while
the withdrawn FONT WANTED of a replaced entry is in flight. -/
def Claims.NoEntryTaken : Prop :=
  ∀ s : State,
    s.fonts.inbound.mode ≠ .idle ∨ s.fonts.inService ≠ none ∨ s.fonts.nextWaiting = none ∨
        (∃ f, s.line.flight = some f ∧ f.withdrawn = true ∧ f.desc.owner = .inbound ∧ f.desc.kind = .fontWanted) →
      exec .inboundTakesEntry s = .next s

/-- R99, R104, R105, R107, R111, R113, R171 and R173: when the inbound channel takes an entry into service, and what it does
then. -/
def Obligations.EntryTakenIntoService : Prop :=
  Claims.WaitingEntryTaken ∧ Claims.NoEntryTaken

/-- R106, R107, R113 and R114: the timers of the want list. A retry wait returns its entry to WAITING with no attempts, a
deferral limit gives its demand entry up with the retry wait started, and an asking wait counts an attempt, at the third of
which the entry is UNAVAILABLE, unless its ask was never sent. -/
def Obligations.WantTimers : Prop :=
  ∀ (font : Nat) (w : Want) (s : State), (s.fonts.wants.map Want.font).Nodup → s.fonts.want font = some w →
    w.timer.isSome = true →
    (w.state = .unavailable →
      exec (.retryWait font) s =
        .next
          { s with
            fonts := s.fonts.updateWant font fun w => { w with state := .waiting, timer := none, attempts := 0 } }) ∧
      (w.state = .deferred → w.demand = true →
        ∃ t w', exec (.deferralLimit font) s = .next t ∧ t.fonts.want font = some w' ∧ w'.state = .unavailable ∧
          w'.attempts = w.attempts ∧ w'.timer = some 10000 ∧ t.queue = s.queue ∧ t.transport = s.transport) ∧
      (s.fonts.inService = some w → w.state = .asking →
        (s.fonts.inbound.unsent = true →
          exec .askingWait s =
            .next
              { s with
                fonts :=
                  { s.fonts.updateWant font (fun w => { w with state := .waiting, timer := none }) with
                    inbound := Inbound.rest } }) ∧
          (s.fonts.inbound.unsent = false → w.attempts < 2 →
            exec .askingWait s =
              .next
                { s with
                  fonts := s.fonts.updateWant font fun w =>
                    { w with attempts := w.attempts + 1, state := .waiting, timer := none } }) ∧
          (s.fonts.inbound.unsent = false → 2 ≤ w.attempts → w.demand = true →
            ∃ t w', exec .askingWait s = .next t ∧ t.fonts.want font = some w' ∧ w'.state = .unavailable ∧
              w'.attempts = 3 ∧ w'.timer = some 10000))

/-- R109: an insertion starts the catalog read; at its end the catalog holds the first 16 of the cartridge's fonts that are
within their ranges and not listed before, each once. The given-up want entries for a font of it wait again with attempts 0
and no retry wait, and every other want entry is as it was. An entry is taken for one of them by its font number alone, also
where its METRICS entry has another blocks total (log entry 41). -/
def Claims.CatalogTaken : Prop :=
  ∀ (fonts : List CatalogEntry) (s : State),
    (s.fonts.slot = .empty →
      exec .cartridgeInsertion s =
        .next { s with fonts := { s.fonts with slot := .reading, catalogTimer := some 300 } }) ∧
      (s.fonts.slot = .reading →
        ∃ t, exec (.catalogRead fonts) s = .next t ∧ t.fonts.slot = .present ∧ t.fonts.catalogTimer = none ∧
          t.fonts.catalog.length ≤ 16 ∧ (t.fonts.catalog.map CatalogEntry.font).Nodup ∧
          t.fonts.catalog.Sublist fonts ∧
          (∀ c ∈ t.fonts.catalog, 1 ≤ c.font ∧ c.font ≤ 1023 ∧ 3 ≤ c.total ∧ c.total ≤ 252) ∧
          (∀ before c behind, fonts = before ++ c :: behind → 1 ≤ c.font → c.font ≤ 1023 → 3 ≤ c.total →
            c.total ≤ 252 →
            (∀ b ∈ before, b.font = c.font → ¬(3 ≤ b.total ∧ b.total ≤ 252)) →
            c ∈ t.fonts.catalog ∨ t.fonts.catalog.length = 16 ∧ ∀ k ∈ t.fonts.catalog, k ∈ before) ∧
          t.fonts.wants =
            s.fonts.wants.map (fun w =>
              if w.state = .unavailable ∧ w.font ∈ t.fonts.catalog.map CatalogEntry.font then
                { w with state := .waiting, attempts := 0, timer := none }
              else w) ∧
          t.fonts.directory = s.fonts.directory ∧
          t.fonts.inbound = s.fonts.inbound ∧ t.line = s.line ∧ t.galleys = s.galleys ∧ t.composer = s.composer)

/-- R101, R109 and R110: the removal of a cartridge clears its catalog and ends a load from it, uncounted: the want entry waits
again with its attempts and its demand kept, the channel is IDLE, and no want entry stays DEFERRED. The font's entry is FREE
where it was LOADING, and cut back to its two metrics blocks where it was METRICS; every other entry stays. A removal while
the catalog is read abandons the read, and one from an empty slot changes nothing. -/
def Claims.CartridgeRemoved : Prop :=
  ∀ s : State,
    (s.fonts.slot = .empty → exec .cartridgeRemoval s = .next s) ∧
      (s.fonts.slot = .reading →
        exec .cartridgeRemoval s = .next { s with fonts := { s.fonts with slot := .empty, catalogTimer := none } }) ∧
      (s.fonts.slot = .present →
        ∃ t, exec .cartridgeRemoval s = .next t ∧ t.fonts.slot = .empty ∧ t.fonts.catalog = [] ∧
          (s.fonts.inbound.mode ≠ .cartLoad → t.fonts.wants = s.fonts.wants ∧ t.fonts.inbound = s.fonts.inbound ∧
            t.fonts.directory = s.fonts.directory) ∧
          (s.fonts.inbound.mode = .cartLoad →
            t.fonts.inbound = Inbound.rest ∧
              (∀ w, s.fonts.want s.fonts.inbound.font = some w → w.state = .loading →
                t.fonts.want s.fonts.inbound.font = some { w with state := .waiting, timer := none }) ∧
              (∀ w ∈ t.fonts.wants, w.state ≠ .deferred) ∧
              ∀ (i : Nat) (e : DirEntry), s.fonts.directory[i]? = some e →
                (e.font = s.fonts.inbound.font → e.state = .loading →
                  (t.fonts.directory[i]?).map DirEntry.state = some .free) ∧
                  (e.font = s.fonts.inbound.font → e.state = .metrics →
                    t.fonts.directory[i]? = some { e with blocks := e.blocks.take 2, present := 2 }) ∧
                  (e.font ≠ s.fonts.inbound.font ∨ e.state ≠ .loading ∧ e.state ≠ .metrics →
                    t.fonts.directory[i]? = some e)) ∧
          (∀ font e, s.fonts.entry font = some e → e.state = .resident → t.fonts.entry font = some e) ∧
          t.fonts.memory = s.fonts.memory ∧ t.line = s.line ∧ t.galleys = s.galleys ∧ t.composer = s.composer ∧
          t.queue = s.queue)

/-- R101, R109 and R110: the catalog taken from a cartridge, and the cartridge's removal. -/
def Obligations.CartridgeInAndOut : Prop :=
  Claims.CatalogTaken ∧ Claims.CartridgeRemoved

/-- R99: an allocation evicts RESIDENT entries without a pin only: every other entry is still in the directory with its font,
its pins and its stamp, and the font it is made for has an entry. -/
def Claims.AllocationSparesPinnedFonts : Prop :=
  ∀ (fs fs' : FontStore) (font total : Nat) (lendable : Bool), fs.useCount < 65535 →
    fs.allocate font total lendable = some fs' →
    (∀ e ∈ fs.directory, e.state ≠ .free → (e.state ≠ .resident ∨ 0 < e.pins) →
      ∃ e' ∈ fs'.directory, e'.font = e.font ∧ e'.state = e.state ∧ e'.pins = e.pins ∧ e'.stamp = e.stamp ∧
        e'.present = e.present) ∧
      fs'.directory.length = fs.directory.length ∧ fs'.memory = fs.memory ∧
      (fs.entry font = none →
        ∃ e ∈ fs'.directory, e.font = font ∧ e.state = .loading ∧ e.total = total ∧ e.present = 0 ∧
          e.lendable = lendable ∧ e.pins = 0 ∧ e.stamp = fs.useCount ∧ e.blocks.length = total)

/-- R97: after the references are counted afresh every entry's pin count is the number of records that reference its font, one
more if the line under construction uses it, and one more while it is offered or lent; and where a pin count falls to 0 no
want entry stays DEFERRED (R107). -/
def Claims.PinsCountReferences : Prop :=
  ∀ s : State,
    (∀ e ∈ s.recount.fonts.directory, e.state ≠ .free →
      e.pins =
        (s.queue.filter fun r => e.font ∈ r.line.fonts).length +
          (if e.font ∈ s.composer.fontsInUse then 1 else 0) +
          (if (s.fonts.outbound.mode = .offered ∨ s.fonts.outbound.mode = .sending) ∧
              s.fonts.outbound.font = e.font then 1 else 0)) ∧
      ((∃ e ∈ s.fonts.directory, e.state ≠ .free ∧ 0 < e.pins ∧ s.references e.font = 0) →
        ∀ w ∈ s.recount.fonts.wants, w.state ≠ .deferred)

/-- INVARIANT (R97 with R46, R43, R99 and R101): every step keeps each pin count equal to the number of its font's references, each
font that is referenced at least METRICS, and an IDLE composer without fonts. -/
def Claims.StepKeepsPins : Prop :=
  ∀ s t : State, s.PinsSound → step s = .next t → t.PinsSound

/-- R97 and R99: the pin counts, recounted and kept by every step, and what an allocation leaves alone. -/
def Obligations.PinsAndEviction : Prop :=
  Claims.PinsCountReferences ∧ Claims.StepKeepsPins ∧ Claims.AllocationSparesPinnedFonts

/-! ## Font lending -/

/-- R121: another station's ask for a RESIDENT lendable font puts an IDLE outbound channel in OFFER_PENDING for
(station number mod 8) × 4 ms; any other ask changes nothing. -/
def Claims.AskHeard : Prop :=
  ∀ (h : Header) (font : Nat) (s : State), s.hears .fontWanted h = true →
    (∀ e, 1 ≤ s.station.number → s.station.number ≤ 30 → h.sender ≠ s.station.number →
        s.fonts.outbound.mode = .idle → s.fonts.entry font = some e → e.state = .resident → e.lendable = true →
        exec (.fontWanted h font) s =
          .next
            { s with
              line := { s.line with idleBits := 0 }
              fonts :=
                { s.fonts with
                  outbound :=
                    { mode := .offerPending, font := font, asker := h.sender, next := 0
                      timer := some (s.station.number % 8 * 4), due := false } } }) ∧
      (h.sender = s.station.number ∨ s.fonts.outbound.mode ≠ .idle ∨ s.fonts.isResident font = false ∨
          (∃ e, s.fonts.entry font = some e ∧ e.lendable = false) →
        exec (.fontWanted h font) s = .next { s with line := { s.line with idleBits := 0 } })

/-- R122: at the end of the offer delay a font still RESIDENT and lendable is offered: the channel is OFFERED, the font is
pinned, and a FONT OFFER with its blocks total is queued. A font that is no longer so is not offered; that this holds of one
RESIDENT and no longer lendable is the model's choice (log entry 42). -/
def Claims.OfferMade : Prop :=
  ∀ s : State, s.fonts.outbound.mode = .offerPending →
    (∀ e, s.fonts.entry s.fonts.outbound.font = some e → e.state = .resident → e.lendable = true →
        s.station.takesPart = true → s.line.count < 16 → s.line.holds (fun d => d.owner == .outbound) = false →
        ∃ t e', exec .offerDelay s = .next t ∧
          t.fonts.outbound = { s.fonts.outbound with mode := .offered, timer := none, due := false } ∧
          t.fonts.entry s.fonts.outbound.font = some e' ∧ 0 < e'.pins ∧ e'.state = .resident ∧
          t.line =
            { s.line with
              queue :=
                insertBy Descriptor.precedes
                  { kind := .fontOffer, dest := 0, owner := .outbound, age := s.line.nextAge
                    body := fontOfferBody s.fonts.outbound.font s.fonts.outbound.asker e.total }
                  s.line.queue
              nextAge := s.line.nextAge + 1 } ∧
          t.queue = s.queue ∧ t.galleys = s.galleys ∧ t.composer = s.composer ∧ t.fonts.memory = s.fonts.memory) ∧
      (s.fonts.isResident s.fonts.outbound.font = false ∨
          (∃ e, s.fonts.entry s.fonts.outbound.font = some e ∧ e.lendable = false) →
        exec .offerDelay s = .next { s with fonts := { s.fonts with outbound := Outbound.rest } })

/-- R121 and R122: an ask heard, and the offer made for it. -/
def Obligations.AskAndOffer : Prop :=
  Claims.AskHeard ∧ Claims.OfferMade

/-- R115, R116 and R107: an offer to this station for a font it is asking for, of 3 to 252 blocks and of the size of the
metrics it may hold, is taken where the blocks can be allocated: the entry is LOADING, the channel is in LINE_LOAD from the
offer's sender, and a FONT TAKE naming it is queued, at once, or, while a frame of the channel stands in the transmit queue,
when that has left it, and an offer is taken in the asking wait of a discarded ask too (the model's choices, log entry 23).
Where they cannot, the entry is DEFERRED. An offer to this station that is not of this kind changes nothing. -/
def Claims.OfferToThisStation : Prop :=
  ∀ (h : Header) (font total : Nat) (s : State), s.hears .fontOffer h = true →
    (∀ w fs, s.station.takesPart = true → s.fonts.want font = some w →
        w.state = .asking → 3 ≤ total → total ≤ 252 → (∀ e, s.fonts.entry font = some e → e.total = total) →
        s.fonts.allocate font total true = some fs → s.fonts.outbound.mode = .idle →
        (s.line.count < 16 ∨ s.line.holds (fun d => d.owner == .inbound) = true) →
        ∃ t w', exec (.fontOffer h font s.station.number total) s = .next t ∧ t.fonts.want font = some w' ∧
          t.galleys = s.galleys ∧ t.composer = s.composer ∧ t.queue = s.queue ∧ w'.state = .loading ∧
          w'.timer = none ∧ t.fonts.inbound.mode = .lineLoad ∧ t.fonts.inbound.font = font ∧
          t.fonts.inbound.lender = h.sender ∧ t.fonts.inbound.next = w.firstBlock ∧ t.fonts.inbound.total = total ∧
          t.fonts.inbound.stall = none ∧ t.fonts.directory = fs.directory ∧
          (s.line.holds (fun d => d.owner == .inbound) = false →
            t.fonts.inbound.takeDue = false ∧
              t.line =
                Line.withWaiting { s.line with idleBits := 0 } .fontTake 0 (fontTakeBody font h.sender w.firstBlock)
                  .inbound) ∧
          (s.line.holds (fun d => d.owner == .inbound) = true →
            t.fonts.inbound.takeDue = true ∧ t.line = { s.line with idleBits := 0 })) ∧
      (∀ w, s.station.takesPart = true → s.fonts.want font = some w → w.state = .asking → 3 ≤ total → total ≤ 252 →
        (∀ e, s.fonts.entry font = some e → e.total = total) → s.fonts.allocate font total true = none →
        s.fonts.outbound.mode = .idle →
        exec (.fontOffer h font s.station.number total) s =
          .next
            { s with
              line := { s.line with idleBits := 0 }
              fonts :=
                { s.fonts.updateWant font (fun w =>
                    { w with state := .deferred, timer := if w.demand then some 10000 else none }) with
                  inbound := Inbound.rest } }) ∧
      (s.fonts.want font = none ∨ (∃ w, s.fonts.want font = some w ∧ w.state ≠ .asking) ∨ total < 3 ∨ 252 < total ∨
          (∃ e, s.fonts.entry font = some e ∧ e.total ≠ total) →
        s.fonts.outbound.mode ≠ .offerPending ∨ s.fonts.outbound.asker ≠ s.station.number →
        exec (.fontOffer h font s.station.number total) s = .next { s with line := { s.line with idleBits := 0 } })

/-- R122: another station's offer, to a third, ends an OFFER_PENDING for the same font and asker, and changes nothing
otherwise. -/
def Claims.OfferToAnother : Prop :=
  ∀ (h : Header) (font asker total : Nat) (s : State), s.hears .fontOffer h = true → asker ≠ s.station.number →
    (h.sender ≠ s.station.number → s.fonts.outbound.mode = .offerPending → s.fonts.outbound.font = font →
        s.fonts.outbound.asker = asker →
        exec (.fontOffer h font asker total) s =
          .next
            { s with
              line := { s.line with idleBits := 0 }, fonts := { s.fonts with outbound := Outbound.rest } }) ∧
      (s.fonts.outbound.mode ≠ .offerPending ∨ s.fonts.outbound.font ≠ font ∨ s.fonts.outbound.asker ≠ asker ∨
          h.sender = s.station.number →
        exec (.fontOffer h font asker total) s = .next { s with line := { s.line with idleBits := 0 } })

/-- R107, R115, R116, R122 and R171: an offer heard, by whom it names. -/
def Obligations.OfferHeard : Prop :=
  Claims.OfferToThisStation ∧ Claims.OfferToAnother

/-- R122, R123 and R124: a take of the offered font that names this station and a first block of 0 or 2 begins the sending,
and the first block asked for is queued; one that names another lender, any other first block, or the end of the TAKE wait,
ends the loan, with the OFFER withdrawn. A take for the font by the asker in OFFER_PENDING stops the offer delay, and the
channel is IDLE. A take while SENDING, or for another font, changes nothing. -/
def Obligations.TakeHeard : Prop :=
  ∀ (h : Header) (lender first : Nat) (s : State),
    (∀ e, s.hears .fontTake h = true → h.sender = s.fonts.outbound.asker → s.fonts.outbound.mode = .offered →
        s.fonts.entry s.fonts.outbound.font = some e → lender = s.station.number → (first = 0 ∨ first = 2) →
        first < e.total → s.station.takesPart = true → s.line.count < 16 →
        s.line.holds (fun d => d.owner == .outbound) = false →
        ∃ t, exec (.fontTake h s.fonts.outbound.font lender first) s = .next t ∧
          t.fonts = { s.fonts with
            outbound := { s.fonts.outbound with mode := .sending, next := first, timer := none, due := false } } ∧
          (∃ d ∈ t.line.queue, d.kind = .fontBlock ∧ d.owner = .outbound ∧
            d.body = fontBlockBody s.fonts.outbound.font first
              (Memory.readBlock s.fonts.memory (e.blocks.getD first 0))) ∧
          t.queue = s.queue ∧ t.galleys = s.galleys) ∧
      (∀ i, s.fonts.outbound.mode = .offered →
        (i = .fontTake h s.fonts.outbound.font lender first ∧ s.hears .fontTake h = true ∧
              h.sender = s.fonts.outbound.asker ∧ (lender ≠ s.station.number ∨ first ≠ 0 ∧ first ≠ 2) ∨
            i = .takeWait ∧ s.fonts.outbound.timer.isSome = true) →
        ∃ t, exec i s = .next t ∧ t.fonts.outbound = Outbound.rest ∧
          (∀ d ∈ t.line.queue, ¬(d.owner = .outbound ∧ d.kind = .fontOffer)) ∧ t.queue = s.queue ∧
          t.galleys = s.galleys ∧ t.composer = s.composer ∧ t.fonts.inbound = s.fonts.inbound) ∧
      (s.hears .fontTake h = true → h.sender = s.fonts.outbound.asker → s.fonts.outbound.mode = .offerPending →
        exec (.fontTake h s.fonts.outbound.font lender first) s =
          .next
            { s with
              line := { s.line with idleBits := 0 }, fonts := { s.fonts with outbound := Outbound.rest } }) ∧
      ∀ font, s.hears .fontTake h = true →
        s.fonts.outbound.mode = .sending ∨ h.sender ≠ s.fonts.outbound.asker ∨ font ≠ s.fonts.outbound.font →
        exec (.fontTake h font lender first) s = .next { s with line := { s.line with idleBits := 0 } }

/-! ## Station control -/

/-- R184 and the power-on rules of the blocks: the straps and sensors set the station's number, arbitration mode, store size,
catalog read, cassettes and paper; everything else starts empty, idle and at 0, with the quiet period and the warm-up
running, whatever stood before. Only the commands that wait are kept. The values of what has no meaning yet (the resting
composer and channels, take-up held with no take-up) are the model's choice (log entry 3), and so is a block store in which
every byte reads 0 (log entry 7). -/
def Obligations.PowerOn : Prop :=
  ∀ (p : PowerInputs) (s : State),
    ∃ t, exec (.powerOn p) s = .next t ∧ t.pending = s.pending ∧
      t.station =
        { number := p.station, arbitration := if p.priorityStrap then .priority else .fair, mode := .running,
          timeBase := 0 } ∧
      t.line = State.reset.line ∧ t.line.quiet = some 250 ∧ t.line.resync = true ∧ t.galleys = State.reset.galleys ∧
      t.composer = Composer.rest ∧ t.hyphenation = { entries := [], ageCount := 0 } ∧ t.queue = [] ∧
      t.fonts.size = (if p.largeStore then 1024 else 512) ∧ t.fonts.memory = [] ∧ t.fonts.useCount = 0 ∧
      t.fonts.refused = [] ∧ t.fonts.inbound = Inbound.rest ∧ t.fonts.outbound = Outbound.rest ∧
      t.fonts.catalog = [] ∧
      (∀ e ∈ t.fonts.directory, e.state = .free) ∧ t.fonts.directory.length = 24 ∧ t.fonts.wants = [] ∧
      (p.cartridge = true → t.fonts.slot = .reading ∧ t.fonts.catalogTimer = some 300) ∧
      (p.cartridge = false → t.fonts.slot = .empty) ∧ t.imaging.state = .warming ∧ t.imaging.warmUp = some 2000 ∧
      t.imaging.turret = .homing ∧ t.imaging.exposure = none ∧
      (∀ code stock length, p.supply = some (code, stock) →
        (code, length) ∈ [(1, 864000), (2, 1728000), (3, 2592000)] → stock < 2 →
        t.transport.supplyPresent = true ∧ t.transport.supplyLength = length ∧ t.transport.remaining = length ∧
          t.transport.stock = some (if stock = 0 then .paper else .film) ∧
          t.transport.state = if p.takeUp then .idle else .noCassette) ∧
      (p.supply = none → t.transport.state = .noCassette ∧ t.transport.supplyPresent = false) ∧
      t.transport.takeUpPresent = p.takeUp ∧ t.transport.drawn = 0 ∧ t.transport.depth = 0 ∧
      t.transport.takeUpHeld = 0 ∧ t.transport.trips = 0 ∧ t.transport.move = none ∧ t.proofer.ring = [] ∧
      t.proofer.raster = none ∧
      t.proofer.printer =
        { State.reset.proofer.printer with state := if p.paper then .asleep else .paperOut }

/-- R181, R6 and R10: a halt heard by a RUNNING station settles every watch entry still considered or queued for, with its
waiting claim withdrawn, and leaves every machine as it is; a HALTED station is not changed by it. -/
def Claims.HaltHeard : Prop :=
  ∀ (h : Header) (s : State), s.hears .stationHalt h = true →
    (s.station.mode = .running →
      ∃ t, exec (.stationHalt h) s = .next t ∧ t.station = { s.station with mode := .halted } ∧
        t.galleys.watch =
          s.galleys.watch.map (fun w =>
            if w.state = .considering ∨ w.state = .claimQueued then { w with state := .settled, delay := none }
            else w) ∧
        (∀ w ∈ s.galleys.watch, w.state = .claimQueued → ∀ d ∈ t.line.queue, d.owner ≠ .claim w.id) ∧
        (∀ g ∈ s.galleys.table, g.state = .draining ∨ g.state = .composing →
          (∃ r ∈ s.queue, r.attached = true ∧ r.line.galley = g.id ∧ (r.exposed && r.proofed) = false) →
          (s.galleys.table.map Galley.id).Nodup →
          ∃ g', t.galleys.find g.id = some g' ∧ g'.state = .suspended ∧ g'.suspension = some .halt ∧
            g'.counters = g.counters) ∧
        t.composer = s.composer ∧ t.queue = s.queue ∧ t.hyphenation = s.hyphenation ∧ t.fonts = s.fonts ∧
        t.imaging = s.imaging ∧ t.transport = s.transport ∧ t.proofer = s.proofer) ∧
      (s.station.mode = .halted →
        exec (.stationHalt h) s = .next { s with line := { s.line with idleBits := 0 } })

/-- R182 and R10: a release heard by a HALTED station makes it RUNNING, and no galley stays SUSPENDED(HALT); a RUNNING station
is not changed by it. -/
def Claims.ReleaseHeard : Prop :=
  ∀ (h : Header) (s : State), s.hears .stationRelease h = true →
    (s.station.mode = .halted → (s.galleys.table.map Galley.id).Nodup →
      ∃ t, exec (.stationRelease h) s = .next t ∧
        State.FollowUp
          { s with station := { s.station with mode := .running }, line := { s.line with idleBits := 0 } } t ∧
        (∀ g ∈ t.galleys.table, g.state = .suspended → g.suspension ≠ some .halt) ∧ t.queue = s.queue) ∧
      (s.station.mode = .running →
        exec (.stationRelease h) s = .next { s with line := { s.line with idleBits := 0 } })

/-- R181 and R182: a halt and a release heard. -/
def Obligations.HaltAndRelease : Prop :=
  Claims.HaltHeard ∧ Claims.ReleaseHeard

/-- R183 and the reset rules of the blocks (R24, R43, R75, R93, R112, R120, R126, R140, R152, R166, R177): what a station reset
empties, what it ends, and what it keeps. That the film counters and the printer's state are as before, with a stroke or a
row under way to complete later, is the model's choice (log entry 25). -/
def Obligations.ResetHeard : Prop :=
  ∀ (h : Header) (s : State), s.hears .stationReset h = true →
    ∃ t, exec (.stationReset h) s = .next t ∧ t.pending = s.pending ∧
      t.station = { s.station with mode := .running } ∧ t.line.queue = [] ∧ t.line.holdOff = false ∧
      t.line.quiet = some 250 ∧ t.line.resync = true ∧
      (∀ f, s.line.flight = some f →
        t.line.flight = if f.stage = .sending then some { f with disowned := true } else none) ∧
      t.galleys = { watch := [], table := [], claimCount := 0, textTimer := none } ∧ t.composer = Composer.rest ∧
      t.hyphenation = s.hyphenation ∧ t.queue = [] ∧ t.fonts.size = s.fonts.size ∧
      t.fonts.memory = s.fonts.memory ∧ t.fonts.useCount = s.fonts.useCount ∧ t.fonts.wants = [] ∧
      t.fonts.inbound = Inbound.rest ∧ t.fonts.outbound = Outbound.rest ∧ t.fonts.slot = s.fonts.slot ∧
      t.fonts.catalog = s.fonts.catalog ∧
      (∀ font e, s.fonts.entry font = some e → e.state = .resident →
        t.fonts.entry font = some { e with pins := 0 }) ∧
      (∀ e ∈ t.fonts.directory, e.state = .free ∨ e.state = .resident ∧ e.pins = 0) ∧
      t.imaging.exposure = none ∧ t.imaging.warmUp = s.imaging.warmUp ∧
      t.imaging.state = (if s.imaging.state = .exposing then .ready else s.imaging.state) ∧
      (s.imaging.state = .exposing → t.imaging.standby = some 600000) ∧ t.transport.trips = 0 ∧
      t.transport.remaining = s.transport.remaining ∧ t.transport.drawn = s.transport.drawn ∧
      t.transport.depth = s.transport.depth ∧ t.transport.takeUpHeld = s.transport.takeUpHeld ∧
      (s.transport.state = .jammed →
        t.transport.state = if s.transport.supplyPresent ∧ s.transport.takeUpPresent then .idle else .noCassette) ∧
      t.proofer.ring = [] ∧ t.proofer.raster = none ∧ t.proofer.printer.state = s.proofer.printer.state

/-- R184, R112, R140, R153 and R166 with the levels of log entry 2: the values the part holds after reset. -/
def Obligations.ResetValues : Prop :=
  State.reset.pending = [] ∧ State.reset.line.count = 0 ∧ State.reset.line.quiet = some 250 ∧
    State.reset.station.mode = .running ∧ State.reset.galleys.claimCount = 0 ∧
    State.reset.composer.state = .idle ∧ State.reset.hyphenation.ageCount = 0 ∧ State.reset.queue = [] ∧
    (∀ e ∈ State.reset.fonts.directory, e.state = .free) ∧ State.reset.imaging.state = .warming ∧
    State.reset.imaging.warmUp = some 2000 ∧ State.reset.transport.move = none ∧ State.reset.proofer.ring = [] ∧
    State.reset.WithinCapacities ∧ State.reset.MemoryCanonical ∧ State.reset.FilmSound

/-! ## Exposure -/

/-- R127 and R128: the warm-up leaves the controller READY, with a homing turret at band 0, and the standby timer puts a READY
controller in STANDBY; what follows is the walk's wake, the film test and the queue's own. -/
def Claims.WarmUpAndStandby : Prop :=
  ∀ s : State,
    (s.imaging.state = .warming →
      ∃ t, exec .warmUpTimer s = .next t ∧
        State.FollowUp
          { s with
            imaging :=
              { s.imaging with
                state := .ready, warmUp := none
                turret := if s.imaging.turret = .homing then .standing 0 else s.imaging.turret } } t) ∧
      (s.imaging.state = .ready → s.imaging.standby.isSome = true →
        ∃ t, exec .standbyTimer s = .next t ∧
          State.FollowUp { s with imaging := { s.imaging with state := .standby, standby := none } } t ∧
          (t.exposureNext = none → t.imaging.state = .standby) ∧
          (t.exposureNext.isSome = true → t.imaging.state = .warming ∧ t.imaging.warmUp = some 2000))

/-- R131, R132, R64 and R145: an exposure begins when the walk has a next record whose conditions hold; its movement is
resolved against the section depth, and a movement of more than 0 minims is under way with its first stroke, or its one
reverse motion; the stock multiplier is read. -/
def Claims.ExposureStarted : Prop :=
  ∀ (r : QueueRecord) (s : State), s.exposureNext = some r → s.station.mode = .running → s.imaging.state = .ready →
    (∀ f ∈ r.line.fonts, s.fonts.isResident f = true) → s.transport.state = .idle →
    (r.line.movement.toNat + 1440 ≤ s.transport.remaining) →
    s.transport.takeUpHeld + r.line.movement.toNat + (if r.line.cutAfter then 1440 else 0) ≤ 2592000 →
    (∀ g, s.galleys.find r.line.galley = some g → g.cancelPending = false) →
    ∀ e : Exposure,
      e.stage = .move → e.run = 0 → e.char = 0 → e.flash = none → e.field = none →
      e.stockMultiplier = (if s.transport.stock = some .film then 2 else 1) →
      (∀ n : Nat, r.line.movement = n → 0 < n → e.movement = .forward n →
        ∃ t, exec .exposureStart s = .next t ∧
          State.FollowUp
            { s with
              imaging := { s.imaging with state := .exposing, standby := none, exposure := some e }
              transport :=
                { s.transport with
                  state := .moving
                  move := some { kind := .forward, left := n, phase := .stroke (min 40 n), ending := false } } } t) ∧
        (∀ n : Nat, r.line.movement = -(n : Int) → 0 < n → 0 < s.transport.depth →
          e.movement = .reverse (min n s.transport.depth) →
          ∃ t, exec .exposureStart s = .next t ∧
            State.FollowUp
              { s with
                imaging := { s.imaging with state := .exposing, standby := none, exposure := some e }
                transport :=
                  { s.transport with
                    state := .moving
                    move :=
                      some { kind := .reverse, left := min n s.transport.depth, phase := .reversing, ending := false } } }
              t)

/-- R64: the resolution of a movement against the section depth: forward as it is, back as far as the section reaches, and
clamped exactly where it would reach further. -/
def Claims.MovementResolved : Prop :=
  ∀ (r : SetLine) (depth : Nat),
    (∀ n, r.resolve depth = .forward n →
      (n : Int) = (r.leading : Int) + r.advance - r.back ∧ r.clamped depth = false) ∧
      ∀ n, r.resolve depth = .reverse n →
        n ≤ depth ∧
          (r.clamped depth = false → (n : Int) = -((r.leading : Int) + r.advance - r.back)) ∧
          (r.clamped depth = true → n = depth ∧ (n : Int) < -((r.leading : Int) + r.advance - r.back))

/-- R64, R131, R132 and R135: a movement of 0, and a reverse at section depth 0, move no film: the exposure of a record with
characters goes on with its first flash, at once where the turret stands at the band that this needs. -/
def Claims.ExposureWithoutAMove : Prop :=
  ∀ (r : QueueRecord) (run : Run) (code : Nat) (x : Int) (m : Movement) (s : State), s.exposureNext = some r →
    s.mayExpose r = true → (∀ q ∈ s.queue, q.exposing = false) → (s.queue.map QueueRecord.name).Nodup →
    r.line.reverse = false → r.line.runs.head? = some run → run.chars.head? = some (code, x) →
    s.imaging.turret = .standing (bandOf run.size) →
    (r.line.movement = 0 ∧ m = .forward 0 ∨ r.line.movement < 0 ∧ s.transport.depth = 0 ∧ m = .reverse 0) →
    ∃ t, exec .exposureStart s = .next t ∧
      State.FollowUp
        { s with
          imaging :=
            { s.imaging with
              state := .exposing, standby := none
              exposure :=
                some
                  { movement := m, stockMultiplier := if s.transport.stock = some .film then 2 else 1, stage := .runs
                    run := 0, char := 0, field := none
                    flash :=
                      some
                        { font := run.font, size := run.size, code := code, x := (r.line.offset : Int) + x
                          intensity :=
                            intensityOf (bandOf run.size) (if s.transport.stock = some .film then 2 else 1)
                              r.line.trim } } } } t

/-- R64, R85 and R132: the record whose exposure begins is marked as being exposed, while a movement is under way or it has
characters. It is flagged REVERSE_CLAMPED where its movement reaches further back than the section, and its galley's counter
rises by one where it was not flagged before; nothing else of the record changes. -/
def Claims.ExposureMarksItsRecord : Prop :=
  ∀ (r : QueueRecord) (s : State), s.exposureNext = some r → s.mayExpose r = true → r.line.needsExposure = true →
    (s.queue.map QueueRecord.name).Nodup → (∀ q ∈ s.queue, q.exposing = false) → s.composer.waiting = none →
    s.composer.todo = [] →
    (0 < r.line.movement ∨ r.line.movement < 0 ∧ 0 < s.transport.depth ∨ ∃ run ∈ r.line.runs, run.chars ≠ []) →
    ∃ t q, exec .exposureStart s = .next t ∧ q ∈ t.queue ∧ q.attached = true ∧ q.exposing = true ∧
      q.exposed = false ∧
      q.line =
        { r.line with
          flags :=
            { r.line.flags with
              reverseClamped :=
                r.line.flags.reverseClamped || decide (r.line.movement < -(s.transport.depth : Int)) } } ∧
      ∀ g, s.galleys.find r.line.galley = some g →
        ∃ g', t.galleys.find r.line.galley = some g' ∧
          g'.counters =
            { g.counters with
              reverseClamped :=
                if r.line.movement < -(s.transport.depth : Int) ∧ r.line.flags.reverseClamped = false then
                  min (g.counters.reverseClamped + 1) 65535
                else g.counters.reverseClamped }

/-- R131: when an exposure may begin, condition by condition. -/
def Claims.WhenAnExposureMayBegin : Prop :=
  ∀ (r : QueueRecord) (s : State),
    s.mayExpose r = true ↔
      s.station.mode = .running ∧ s.imaging.state = .ready ∧ (∀ f ∈ r.line.fonts, s.fonts.isResident f = true) ∧
        s.transport.state = .idle ∧ r.line.movement.toNat + 1440 ≤ s.transport.remaining ∧
        s.transport.takeUpHeld + r.line.movement.toNat + (if r.line.cutAfter then 1440 else 0) ≤ 2592000 ∧
        ∀ g, s.galleys.find r.line.galley = some g → g.cancelPending = false

/-- R64, R85, R131, R132 and R135: when an exposure begins, its movement, and the marks of its record. -/
def Obligations.ExposureBegins : Prop :=
  Claims.ExposureStarted ∧ Claims.MovementResolved ∧ Claims.WhenAnExposureMayBegin ∧ Claims.ExposureWithoutAMove ∧
    Claims.ExposureMarksItsRecord

/-- R134: the intensity is base × m + trim held to 1 to 15, the base one more for each band. -/
def Claims.Intensity : Prop :=
  ∀ (band m : Nat) (trim : Int) (base : Nat),
    (band, base) ∈ [(0, 3), (1, 4), (2, 5), (3, 6)] →
    1 ≤ intensityOf band m trim ∧ intensityOf band m trim ≤ 15 ∧
      (1 ≤ (base : Int) * m + trim → (base : Int) * m + trim ≤ 15 →
        (intensityOf band m trim : Int) = (base : Int) * m + trim) ∧
      ((base : Int) * m + trim < 1 → intensityOf band m trim = 1) ∧
      (15 < (base : Int) * m + trim → intensityOf band m trim = 15)

/-- R128: the end of a turret move outside an exposure leaves the turret at its band, and the end of the homing at band 0. -/
def Claims.TurretLands : Prop :=
  ∀ s : State, s.imaging.exposure = none →
    (∀ source target left, s.imaging.turret = .moving source target left →
      ∃ t, exec .turretMoveEnd s = .next t ∧
        State.FollowUp { s with imaging := { s.imaging with turret := .standing target } } t) ∧
      (s.imaging.turret = .homing →
        ∃ t, exec .turretMoveEnd s = .next t ∧
          State.FollowUp { s with imaging := { s.imaging with turret := .standing 0 } } t)

/-- R128: the band of a size, and the move of a standing turret to another band, 40 ms for each band on the way. -/
def Claims.BandsAndMoves : Prop :=
  (∀ size, 10 ≤ size → size ≤ 288 →
      (bandOf size = 0 ↔ size ≤ 23) ∧ (bandOf size = 1 ↔ 24 ≤ size ∧ size ≤ 47) ∧
        (bandOf size = 2 ↔ 48 ≤ size ∧ size ≤ 95) ∧ (bandOf size = 3 ↔ 96 ≤ size)) ∧
    ∀ source target : Nat,
      (source < target → Turret.sent (.standing source) target = .moving source target (40 * (target - source))) ∧
        (target < source → Turret.sent (.standing source) target = .moving source target (40 * (source - target))) ∧
        Turret.sent (.standing source) source = .standing source

/-- R128, R134 and R135: a flash whose next character lies in another band starts the turret's move to that band, and at its
end, inside the exposure, the character is flashed at its film position and at the intensity of its band. -/
def Claims.TurretMovesInsideAnExposure : Prop :=
  ∀ (r : QueueRecord) (e : Exposure) (i j : Nat) (run : Run) (s : State), s.exposingRecord = some r →
    s.imaging.exposure = some e → r.line.runs[i]? = some run →
    (∀ band, e.flash.isSome = true → nextPosition r.line.runs e.run (e.char + 1) = some (i, j) →
        s.imaging.turret = .standing band → band ≠ bandOf run.size →
        ∃ t, exec .flashDone s = .next t ∧
          State.FollowUp
            { s with
              imaging :=
                { s.imaging with
                  exposure := some { e with stage := .runs, run := i, char := j, flash := none }
                  turret :=
                    .moving band (bandOf run.size) (40 * ((band - bandOf run.size) + (bandOf run.size - band))) } } t) ∧
      ∀ source left code x, e.stage = .runs → e.flash = none →
        nextPosition r.line.runs e.run e.char = some (i, j) → run.chars[j]? = some (code, x) →
        s.imaging.turret = .moving source (bandOf run.size) left →
        ∃ t, exec .turretMoveEnd s = .next t ∧
          State.FollowUp
            { s with
              imaging :=
                { s.imaging with
                  turret := .standing (bandOf run.size)
                  exposure :=
                    some
                      { e with
                        stage := .runs, run := i, char := j
                        flash :=
                          some
                            { font := run.font, size := run.size, code := code, x := (r.line.offset : Int) + x,
                              intensity := intensityOf (bandOf run.size) e.stockMultiplier r.line.trim } } } } t

/-- R127 and R128: the timers of the imaging controller, and the turret, outside an exposure and inside one. -/
def Obligations.WarmUpStandbyTurret : Prop :=
  Claims.WarmUpAndStandby ∧ Claims.TurretLands ∧ Claims.BandsAndMoves ∧ Claims.TurretMovesInsideAnExposure

/-- R133, R135 and R137: behind a flash of a run comes the flash of the run's next character, at its film position and at the
intensity of the band; behind the last flash, and behind the background pass, a record with cut after begins its cut with a
lead-out of 1440 minims. -/
def Claims.FlashesThenCut : Prop :=
  ∀ (r : QueueRecord) (e : Exposure) (s : State), s.exposingRecord = some r → s.imaging.exposure = some e →
    (∀ run code x, e.flash.isSome = true → r.line.runs[e.run]? = some run → run.chars[e.char + 1]? = some (code, x) →
        s.imaging.turret = .standing (bandOf run.size) →
        ∃ t, exec .flashDone s = .next t ∧
          State.FollowUp
            { s with
              imaging :=
                { s.imaging with
                  exposure :=
                    some
                      { e with
                        stage := .runs, char := e.char + 1
                        flash :=
                          some
                            { font := run.font, size := run.size, code := code, x := (r.line.offset : Int) + x,
                              intensity := intensityOf (bandOf run.size) e.stockMultiplier r.line.trim } } } } t) ∧
      ∀ i, (i = .flashDone ∧ e.flash.isSome = true ∧ nextPosition r.line.runs e.run (e.char + 1) = none ∨
            i = .backgroundPass ∧ e.field.isSome = true) →
        r.line.cutAfter = true → s.transport.state = .idle →
        ∃ t e', exec i s = .next t ∧ t.imaging.exposure = some e' ∧ e'.stage = .cut ∧ e'.flash = none ∧
          e'.field = none ∧
          t.transport =
            { s.transport with
              state := .cutting
              move := some { kind := .leadOut, left := 1440, phase := .stroke 40, ending := false } }

/-- R138: behind the last flash, and behind the background pass, an exposure without a cut is over: the controller is READY,
the record carries its mark where it still stands in the queue, and its galley, while it is held and not cancelled, counts
one line exposed more. -/
def Claims.ExposureEndsWithoutACut : Prop :=
  ∀ (r : QueueRecord) (e : Exposure) (i : Instr) (s : State), s.exposingRecord = some r →
    s.imaging.exposure = some e → r.line.cutAfter = false →
    (i = .flashDone ∧ e.flash.isSome = true ∧ nextPosition r.line.runs e.run (e.char + 1) = none ∨
      i = .backgroundPass ∧ e.field.isSome = true) →
    ∃ t, exec i s = .next t ∧
      State.FollowUp { s with imaging := { s.imaging with state := .ready, exposure := none } } t ∧
      (∀ q ∈ t.queue, q.exposing = false) ∧
      (r.attached = true → (s.queue.map QueueRecord.name).Nodup → s.composer.waiting = none → s.composer.todo = [] →
        ∀ q ∈ t.queue, q.name = r.name → q.exposed = true) ∧
      ∀ g g', r.attached = true → s.galleys.find r.line.galley = some g →
        t.galleys.find r.line.galley = some g' → g'.counters.exposed = min (g.counters.exposed + 1) 65535

/-- R18, R19, R90 and R138: a cancel that waited for the exposure is carried out when the exposure ends, behind the last flash, the
background pass or the cut: the galley is gone, none of its records stays attached, and ABORTED for CANCELLED is queued with
the counters, among them the line just exposed. -/
def Claims.CancelCarriedOut : Prop :=
  ∀ (r : QueueRecord) (e : Exposure) (g : Galley) (i : Instr) (s : State), s.exposingRecord = some r →
    s.imaging.exposure = some e → r.attached = true → s.galleys.find r.line.galley = some g →
    g.cancelPending = true → (s.galleys.table.map Galley.id).Nodup → s.composer.waiting = none →
    s.composer.todo = [] →
    (i = .flashDone ∧ e.flash.isSome = true ∧ nextPosition r.line.runs e.run (e.char + 1) = none ∧
          r.line.cutAfter = false ∨
        i = .backgroundPass ∧ e.field.isSome = true ∧ r.line.cutAfter = false ∨
        i = .knifeDone ∧ ∃ m, s.transport.move = some m ∧ m.phase = .knife ∧ m.ending = false) →
    ∃ t, exec i s = .next t ∧ t.imaging.exposure = none ∧ t.galleys.find r.line.galley = none ∧
      (∀ q ∈ t.queue, q.attached = true → q.line.galley ≠ r.line.galley) ∧
      (s.station.takesPart = true → r.line.galley.poster < 32 → s.line.count ≤ 4 → s.galleys.table.length ≤ 4 →
        t.line.ReportWaits r.line.galley 5 1 { g.counters with exposed := min (g.counters.exposed + 1) 65535 })

/-- R18 and R133 to R138: the flashes and the cut, the intensity they are made at, the end without a cut, and the cancel that
waited. -/
def Obligations.FlashesAndCut : Prop :=
  Claims.FlashesThenCut ∧ Claims.Intensity ∧ Claims.ExposureEndsWithoutACut ∧ Claims.CancelCarriedOut

/-! ## Film transport -/

/-- R145, R147, R149 and R152: a completed stroke moves the film by its length, changes all four counters with it and returns
the trip count to 0; while length is left the next stroke begins, a lead-out that is done fires the knife, and a stroke that
a reset let complete leaves the transport IDLE. -/
def Claims.StrokeCompletes : Prop :=
  ∀ (samples : List Bool) (m : Move) (n : Nat) (s : State), completedSamples samples = true →
    s.transport.move = some m → m.phase = .stroke n →
    ∀ u : Transport,
      u = { s.transport with
            remaining := s.transport.remaining - n, drawn := s.transport.drawn + n, depth := s.transport.depth + n
            takeUpHeld := s.transport.takeUpHeld + n, trips := 0 } →
      (m.ending = false → n < m.left →
        ∃ t, exec (.strokeCompleted samples) s = .next t ∧
          State.FollowUp
            { s with
              transport :=
                { u with move := some { m with left := m.left - n, phase := .stroke (min 40 (m.left - n)) } } } t) ∧
        (m.ending = false → m.left ≤ n → m.kind = .leadOut →
          ∃ t, exec (.strokeCompleted samples) s = .next t ∧
            State.FollowUp { s with transport := { u with move := some { m with left := 0, phase := .knife } } } t) ∧
        (m.ending = true ∨ m.left ≤ n ∧ m.kind = .forward ∧ s.imaging.exposure = none →
          ∃ t, exec (.strokeCompleted samples) s = .next t ∧
            State.FollowUp { s with transport := { u with state := .idle, move := none } } t)

/-- R147, R136 and R144: a tripped stroke moves no film and changes no counter but the trip count; below 8 the transport holds
off 10 ms, after which a stroke of the same length begins, and at 8 it is JAMMED with the exposure over, the controller READY
and the record's galley, where it was COMPOSING, suspended for the jam. -/
def Claims.TripsHoldOffAndJam : Prop :=
  ∀ (samples : List Bool) (m : Move) (n : Nat) (s : State), trippedSamples samples = true →
    s.transport.move = some m → m.ending = false →
    (m.phase = .stroke n → s.transport.trips < 7 →
      ∃ t, exec (.strokeTrip samples) s = .next t ∧
        State.FollowUp
          { s with
            transport :=
              { s.transport with
                trips := s.transport.trips + 1, move := some { m with phase := .holdOff 10 n } } } t) ∧
      (m.phase = .stroke n → s.transport.trips = 7 → s.imaging.state = .exposing → s.imaging.exposure.isSome = true →
        ∃ t, exec (.strokeTrip samples) s = .next t ∧
          t.transport = { s.transport with state := .jammed, trips := 8, move := none } ∧
          t.imaging.exposure = none ∧ t.imaging.state = .ready ∧
          (∀ r g, s.exposingRecord = some r → r.attached = true → r.exposed = false →
            r.line.needsExposure = true → s.galleys.find r.line.galley = some g →
            g.state = .composing → g.cancelPending = false → (s.galleys.table.map Galley.id).Nodup →
            ∃ g', t.galleys.find r.line.galley = some g' ∧ g'.state = .suspended ∧ g'.suspension = some .jam)) ∧
      ∀ left, m.phase = .holdOff left n →
        exec .holdOff s =
          .next { s with transport := { s.transport with move := some { m with phase := .stroke n } } }

/-- R146: a stroke trips at the first sample that is over limit together with the two before it, and at no other. -/
def Claims.TripAtThirdOverLimitSample : Prop :=
  ∀ (samples : List Bool) (n : Nat),
    tripSample samples = some n ↔
      2 < n ∧ n ≤ samples.length ∧
        (samples[n - 3]? = some true ∧ samples[n - 2]? = some true ∧ samples[n - 1]? = some true) ∧
        ∀ k, 2 < k → k < n →
          ¬(samples[k - 3]? = some true ∧ samples[k - 2]? = some true ∧ samples[k - 1]? = some true)

/-- R146 and R147: when a stroke trips, and what a trip does. -/
def Obligations.StrokeTrips : Prop :=
  Claims.TripsHoldOffAndJam ∧ Claims.TripAtThirdOverLimitSample

/-- R148 and R141: a reverse motion of n minims returns n minims to the supply and takes them from film drawn, section depth
and take-up held; the trip count is not changed by it. One that a reset let complete leaves the transport IDLE. -/
def Claims.ReverseCompletes : Prop :=
  ∀ (m : Move) (s : State), s.transport.move = some m → m.phase = .reversing →
    ∃ t, exec .reverseDone s = .next t ∧ t.transport.remaining = s.transport.remaining + m.left ∧
      t.transport.drawn = s.transport.drawn - m.left ∧ t.transport.depth = s.transport.depth - m.left ∧
      t.transport.takeUpHeld = s.transport.takeUpHeld - m.left ∧ t.transport.trips = s.transport.trips ∧
      t.station = s.station ∧ t.hyphenation = s.hyphenation ∧ t.fonts.memory = s.fonts.memory ∧
      t.proofer.ring = s.proofer.ring ∧
      (m.ending = true ∨ s.imaging.exposure = none →
        State.FollowUp
          { s with
            transport :=
              { s.transport with
                state := .idle, move := none, remaining := s.transport.remaining + m.left
                drawn := s.transport.drawn - m.left, depth := s.transport.depth - m.left
                takeUpHeld := s.transport.takeUpHeld - m.left } } t)

/-- R149, R137 and R138: the completed knife stroke sets section depth to 0 and leaves the other counters; the exposure has
ended with the controller READY, and the record's galley, while it is held and not cancelled, counts one line exposed more. -/
def Claims.KnifeCompletes : Prop :=
  ∀ (m : Move) (s : State), s.transport.move = some m → m.phase = .knife →
    ∃ t, exec .knifeDone s = .next t ∧
      (m.ending = true →
        State.FollowUp { s with transport := { s.transport with state := .idle, move := none, depth := 0 } } t) ∧
      (m.ending = false →
        State.FollowUp
          { s with
            transport := { s.transport with state := .idle, move := none, depth := 0 }
            imaging := { s.imaging with state := .ready, exposure := none } } t ∧
        ∀ r g g', s.exposingRecord = some r → r.attached = true → s.galleys.find r.line.galley = some g →
          t.galleys.find r.line.galley = some g' →
          g'.counters.exposed = min (g.counters.exposed + 1) 65535)

/-- R132, R133, R135, R137, R138, R145 and R148: behind the last stroke of an exposure's forward move, and behind its reverse
motion, comes the background pass of a reverse record with characters, over the measure and to the height of its largest size,
or else the first flash, at once where the turret stands at the band that this needs. A record with no character, BLANK or of
fixed spaces, goes on with its cut, or, without a cut, its exposure is over: the controller is READY and the record carries its
mark where it still stands in the queue. -/
def Claims.MoveEndsInsideAnExposure : Prop :=
  ∀ (i : Instr) (samples : List Bool) (m : Move) (r : QueueRecord) (e : Exposure) (s : State) (u : Transport),
    s.transport.move = some m → m.ending = false → s.exposingRecord = some r → s.imaging.exposure = some e →
    (i = .strokeCompleted samples ∧ completedSamples samples = true ∧ m.kind = .forward ∧
          (∃ n, m.phase = .stroke n ∧ m.left ≤ n ∧
            u = { s.transport with
                  remaining := s.transport.remaining - n, drawn := s.transport.drawn + n
                  depth := s.transport.depth + n, takeUpHeld := s.transport.takeUpHeld + n, trips := 0, state := .idle
                  move := none }) ∨
        i = .reverseDone ∧ m.phase = .reversing ∧
          u = { s.transport with
                remaining := s.transport.remaining + m.left, drawn := s.transport.drawn - m.left
                depth := s.transport.depth - m.left, takeUpHeld := s.transport.takeUpHeld - m.left, state := .idle
                move := none }) →
      (∀ size, r.line.reverse = true → (∃ run ∈ r.line.runs, run.size = size) →
          (∀ run ∈ r.line.runs, run.size ≤ size) → s.imaging.turret = .standing (bandOf size) →
          ∃ t, exec i s = .next t ∧
            State.FollowUp
              { s with
                transport := u
                imaging :=
                  { s.imaging with
                    exposure :=
                      some
                        { e with
                          stage := .background
                          field :=
                            some
                              { start := r.line.offset, stop := r.line.offset + r.line.measure, height := size * 10
                                intensity := intensityOf (bandOf size) e.stockMultiplier r.line.trim
                                mask := r.line.runs } } } } t) ∧
        (∀ run code x, r.line.reverse = false → r.line.runs.head? = some run → run.chars.head? = some (code, x) →
          s.imaging.turret = .standing (bandOf run.size) →
          ∃ t, exec i s = .next t ∧
            State.FollowUp
              { s with
                transport := u
                imaging :=
                  { s.imaging with
                    exposure :=
                      some
                        { e with
                          stage := .runs, run := 0, char := 0
                          flash :=
                            some
                              { font := run.font, size := run.size, code := code, x := (r.line.offset : Int) + x
                                intensity := intensityOf (bandOf run.size) e.stockMultiplier r.line.trim } } } } t) ∧
        (r.line.reverse = false ∨ r.line.runs = [] → (∀ run ∈ r.line.runs, run.chars = []) →
          (r.line.cutAfter = true →
            ∃ t, exec i s = .next t ∧
              t.imaging.exposure = some { e with stage := .cut, flash := none, field := none } ∧
              t.transport =
                { u with
                  state := .cutting
                  move := some { kind := .leadOut, left := 1440, phase := .stroke 40, ending := false } }) ∧
            (r.line.cutAfter = false →
              ∃ t, exec i s = .next t ∧
                State.FollowUp
                  { s with transport := u, imaging := { s.imaging with state := .ready, exposure := none } } t ∧
                (∀ q ∈ t.queue, q.exposing = false) ∧
                (r.attached = true → (s.queue.map QueueRecord.name).Nodup → s.composer.waiting = none →
                  s.composer.todo = [] → ∀ q ∈ t.queue, q.name = r.name → q.exposed = true)))

/-- R132, R145, R148 and R149: strokes, reverse motions and the knife completed, and what follows in an exposure. -/
def Obligations.FilmMoves : Prop :=
  Claims.StrokeCompletes ∧ Claims.ReverseCompletes ∧ Claims.KnifeCompletes ∧ Claims.MoveEndsInsideAnExposure

/-- R141 to R144: an inserted supply cassette with a valid code sets supply remaining to its length and film drawn and section
depth to 0, and an inserted take-up sets take-up held and section depth to 0; a code that is not valid changes nothing. The
model takes an insertion only while the drive is at rest (log entry 27). -/
def Claims.CassetteInserted : Prop :=
  ∀ (code stock : Nat) (s : State), s.transport.state ≠ .moving → s.transport.state ≠ .cutting →
    (∀ length, (code, length) ∈ [(1, 864000), (2, 1728000), (3, 2592000)] → stock < 2 →
        ∃ t, exec (.supplyInsertion code stock) s = .next t ∧ t.transport.supplyPresent = true ∧
          t.transport.supplyLength = length ∧ t.transport.remaining = length ∧ t.transport.drawn = 0 ∧
          t.transport.depth = 0 ∧ t.transport.takeUpHeld = s.transport.takeUpHeld ∧
          t.transport.stock = some (if stock = 0 then .paper else .film) ∧
          (s.transport.state ≠ .noCassette → s.transport.state ≠ .idle → t.transport.state = s.transport.state) ∧
          (s.transport.state = .noCassette → s.transport.takeUpPresent = false → t.transport.state = .noCassette) ∧
          (s.transport.state = .noCassette → s.transport.takeUpPresent = true → t.transport.state ≠ .noCassette)) ∧
      (code = 0 ∨ 3 < code → exec (.supplyInsertion code stock) s = .next s) ∧
      ∃ t, exec .takeUpInsertion s = .next t ∧ t.transport.takeUpPresent = true ∧ t.transport.takeUpHeld = 0 ∧
        t.transport.depth = 0 ∧ t.transport.remaining = s.transport.remaining ∧
        t.transport.drawn = s.transport.drawn ∧ t.transport.supplyLength = s.transport.supplyLength ∧
        t.transport.stock = s.transport.stock

/-- R142 to R144, R151 and R136: the removal of a valid supply sets its three counters to 0, and that of a take-up leaves
take-up held standing; the transport is in NO_CASSETTE with no move and no trips from an operation, and stays JAMMED if it was;
an exposure in progress is over, with the controller READY, and the galley of its record, where it was COMPOSING, is
SUSPENDED for FILM. -/
def Claims.CassetteRemoved : Prop :=
  ∀ (i : Instr) (s : State),
    (i = .supplyRemoval ∧ s.transport.supplyPresent = true ∨ i = .takeUpRemoval ∧ s.transport.takeUpPresent = true) →
    ∃ t, exec i s = .next t ∧ t.imaging.exposure = none ∧
      (s.transport.state = .jammed → t.transport.state = .jammed) ∧
      (s.transport.state ≠ .jammed → t.transport.state = .noCassette) ∧
      (s.transport.state = .moving ∨ s.transport.state = .cutting →
        t.transport.move = none ∧ t.transport.trips = 0) ∧
      (i = .supplyRemoval →
        t.transport.supplyPresent = false ∧ t.transport.supplyLength = 0 ∧ t.transport.remaining = 0 ∧
          t.transport.drawn = 0 ∧ t.transport.depth = 0 ∧ t.transport.stock = none ∧
          t.transport.takeUpHeld = s.transport.takeUpHeld ∧
          t.transport.takeUpPresent = s.transport.takeUpPresent) ∧
      (i = .takeUpRemoval →
        t.transport.takeUpPresent = false ∧ t.transport.takeUpHeld = s.transport.takeUpHeld ∧
          t.transport.remaining = s.transport.remaining ∧ t.transport.drawn = s.transport.drawn ∧
          t.transport.supplyPresent = s.transport.supplyPresent) ∧
      (s.imaging.state = .exposing → s.imaging.exposure.isSome = true → t.imaging.state = .ready) ∧
      (∀ r g, s.imaging.exposure.isSome = true → s.exposingRecord = some r → r.attached = true → r.exposed = false →
        r.line.needsExposure = true → s.galleys.find r.line.galley = some g → g.state = .composing →
        g.cancelPending = false → (s.galleys.table.map Galley.id).Nodup → t.SuspendedForFilm r.line.galley) ∧
      t.station = s.station ∧ t.hyphenation = s.hyphenation ∧ t.fonts.memory = s.fonts.memory ∧
      t.proofer.ring = s.proofer.ring

/-- R130: with a record waiting at the exposure walk, the film is tested when the controller becomes READY, when a cassette inserted
leaves the transport IDLE, and when the station is released. A supply short of the record's forward movement and a lead-out
takes the transport to FILM_OUT, a take-up without room for the movement and the cut's lead-out takes it to TAKEUP_FULL, and
the record's galley is SUSPENDED for FILM; with film for the record the transport stays IDLE. -/
def Claims.FilmTest : Prop :=
  ∀ (r : QueueRecord) (g : Galley) (s : State), s.AtRest → s.exposureNext = some r →
    s.galleys.find r.line.galley = some g → g.state = .composing → (s.galleys.table.map Galley.id).Nodup →
    (s.imaging.state = .warming → s.station.mode = .running → s.transport.state = .idle →
      ∃ t, exec .warmUpTimer s = .next t ∧ t.FilmTested r.line s.transport) ∧
      (∀ code stock length u, s.imaging.state ≠ .exposing → s.station.mode = .running →
        (s.transport.state = .idle ∨ s.transport.state = .noCassette ∧ s.transport.takeUpPresent = true) →
        (code, length) ∈ [(1, 864000), (2, 1728000), (3, 2592000)] → stock < 2 →
        u = { s.transport with
              state := .idle, supplyPresent := true, supplyLength := length, remaining := length, drawn := 0, depth := 0
              stock := some (if stock = 0 then .paper else .film) } →
        ∃ t, exec (.supplyInsertion code stock) s = .next t ∧ t.FilmTested r.line u) ∧
      ∀ h, s.hears .stationRelease h = true → s.station.mode = .halted → s.imaging.state ≠ .exposing →
        s.transport.state = .idle → ∃ t, exec (.stationRelease h) s = .next t ∧ t.FilmTested r.line s.transport

/-- R130: a transport found in NO_CASSETTE, FILM_OUT or TAKEUP_FULL suspends for FILM the galley of a record that waits at the walk
when the station is released, and of a BLANK record that becomes the walk's next record when it is appended to an empty queue
at a RUNNING station. -/
def Claims.NoFilmForTheNextRecord : Prop :=
  ∀ (g : Galley) (s : State),
    s.transport.state = .noCassette ∨ s.transport.state = .filmOut ∨ s.transport.state = .takeUpFull →
    (s.galleys.table.map Galley.id).Nodup → g.state = .composing →
    (∀ r h, s.exposureNext = some r → s.galleys.find r.line.galley = some g → s.hears .stationRelease h = true →
      s.station.mode = .halted →
      ∃ t, exec (.stationRelease h) s = .next t ∧ t.transport = s.transport ∧ t.SuspendedForFilm g.id) ∧
      (s.taking .endLine = true → s.workingGalley = some g → s.composer.word.boxes = [] → s.composer.line.items = [] →
        s.queue = [] → (g.mode = .film ∨ g.mode = .both) → s.station.mode = .running →
        ∃ t, exec .endLine s = .next t ∧ t.transport = s.transport ∧ t.SuspendedForFilm g.id)

/-- R9 and R130: the insertion that takes the transport from NO_CASSETTE to IDLE resumes the galley that waits at the walk SUSPENDED
for FILM, and the film is tested afresh: with film for the record the galley is COMPOSING again, and without it the galley is
SUSPENDED once more. -/
def Claims.FilmRestored : Prop :=
  ∀ (r : QueueRecord) (g : Galley) (i : Instr) (s : State) (u : Transport), s.AtRest → s.exposureNext = some r →
    s.galleys.find r.line.galley = some g → g.state = .suspended → g.suspension = some .film →
    g.compositionEnded = false → (s.galleys.table.map Galley.id).Nodup → s.imaging.state ≠ .exposing →
    s.station.mode = .running → s.transport.state = .noCassette →
    ((∃ code stock length, i = .supplyInsertion code stock ∧ stock < 2 ∧ s.transport.takeUpPresent = true ∧
          (code, length) ∈ [(1, 864000), (2, 1728000), (3, 2592000)] ∧
          u = { s.transport with
                state := .idle, supplyPresent := true, supplyLength := length, remaining := length, drawn := 0
                depth := 0, stock := some (if stock = 0 then .paper else .film) }) ∨
        i = .takeUpInsertion ∧ s.transport.supplyPresent = true ∧
          u = { s.transport with state := .idle, takeUpPresent := true, takeUpHeld := 0, depth := 0 }) →
      ∃ t, exec i s = .next t ∧ t.FilmTested r.line u ∧
        (r.line.movement.toNat + 1440 ≤ u.remaining →
          u.takeUpHeld + r.line.movement.toNat + (if r.line.cutAfter then 1440 else 0) ≤ 2592000 →
          ∃ g', t.galleys.find r.line.galley = some g' ∧ g'.state = .composing ∧ g'.suspension = none)

/-- R9, R130, R136, R142, R143, R144 and R151: cassettes inserted and removed, the film tested, and galleys resumed. -/
def Obligations.Cassettes : Prop :=
  Claims.CassetteInserted ∧ Claims.CassetteRemoved ∧ Claims.FilmTest ∧ Claims.FilmRestored ∧
    Claims.NoFilmForTheNextRecord

/-! ## Proof printing -/

/-- R155, R156 and R88: the rasterizer begins the proof walk's next record when its conditions hold, with the band's content as
the record stands; each row written is added to the ring, and with the twelfth the rasterizing is over, the record carries its
mark where it still stands in the queue, and its galley, while it is held, counts one line proofed more. -/
def Claims.BandsWritten : Prop :=
  ∀ s : State,
    (∀ r, s.proofNext = some r → s.station.mode = .running → s.proofer.raster = none →
        s.proofer.printer.state = .ready ∨ s.proofer.printer.state = .printing → s.proofer.ring.length + 12 ≤ 192 →
        (∀ g, s.galleys.find r.line.galley = some g → g.cancelPending = false) →
        ∃ t, exec .rasterizeStart s = .next t ∧
          State.FollowUp
            { s with
              proofer :=
                { s.proofer with
                  raster :=
                    some
                      { kind := r.line.kind, runs := r.line.runs, offset := r.line.offset, measure := r.line.measure,
                        reverse := r.line.reverse, flags := r.line.flags, rows := 0, timer := 1 } } } t) ∧
      ∀ b, s.proofer.raster = some b →
        (b.rows + 1 < 12 →
          ∃ t, exec .rowWritten s = .next t ∧
            State.FollowUp
              { s with
                proofer :=
                  { s.proofer with
                    ring := s.proofer.ring ++ [b.row (b.rows + 1)]
                    raster := some { b with rows := b.rows + 1, timer := 1 } } } t) ∧
          (b.rows + 1 = 12 →
            ∃ t, exec .rowWritten s = .next t ∧
              State.FollowUp
                { s with proofer := { s.proofer with ring := s.proofer.ring ++ [b.row 12], raster := none } } t ∧
              (∀ r, s.queue.find? QueueRecord.rasterizing = some r → r.attached = true →
                (s.queue.map QueueRecord.name).Nodup → s.composer.waiting = none → s.composer.todo = [] →
                ∀ q ∈ t.queue, q.name = r.name → q.proofed = true ∧ q.rasterizing = false) ∧
              ∀ r g g', s.queue.find? QueueRecord.rasterizing = some r → r.attached = true →
                s.galleys.find r.line.galley = some g → t.galleys.find r.line.galley = some g' →
                g'.counters.proofed = min (g.counters.proofed + 1) 65535)

/-- R157 and R159: a character stands at proof dot 16 + floor(film x × 5 / 72); each dot of its cell is written at its own
place and no other, and none past dot 1023; a reverse line has exactly the dots 16 to 15 + md inverted, in every row, and a
BLANK record's rows are blank. Dots left of dot 0 are not written (log entry 20). -/
def Claims.BandDots : Prop :=
  (∀ x : Int, 72 * (proofDot x - 16) ≤ 5 * x ∧ 5 * x < 72 * (proofDot x - 16) + 72) ∧
    (∀ (dots : BitVec 5) (dot : Int) (d : Nat), d < 1024 →
      (placeDots dots dot).getLsbD d =
        (decide (dot ≤ d) && decide ((d : Int) < dot + 5) && dots.getLsbD ((d : Int) - dot).toNat)) ∧
    ∀ (b : Raster) (row d : Nat), d < 1024 →
      (b.kind = .blank → (b.row row).getLsbD d = false) ∧
        (b.kind = .text → b.measure ≤ 14400 →
          (b.row row).getLsbD d =
            ((runDots b.runs b.offset row ||| marginDots b.flags row).getLsbD d ^^
              (b.reverse && decide (b.runs ≠ []) && decide (16 ≤ d) && decide (d < 16 + b.measure * 5 / 72))))

/-- R155 to R159: a rasterizing begun and carried out, and the dots of its rows. -/
def Obligations.Rasterizing : Prop :=
  Claims.BandsWritten ∧ Claims.BandDots

/-- R160 and R163: a READY printer with an unprinted row begins the oldest; at the end of a row's print the row leaves the
ring, and a PRINTING printer goes on with the next row, or is READY where none is left; one that has run out of paper prints
no further row. -/
def Obligations.Printing : Prop :=
  ∀ (dots : DotRow) (rest : List DotRow) (s : State), s.proofer.ring = dots :: rest →
    (s.proofer.printer.state = .ready → s.proofer.printer.row = none →
      ∃ t, exec .printStart s = .next t ∧
        State.FollowUp
          { s with
            proofer :=
              { s.proofer with
                printer :=
                  { s.proofer.printer with state := .printing, row := some { dots := dots, inRing := true } } } } t) ∧
      ∀ r, s.proofer.printer.row = some r → r.inRing = true →
        (∀ next rest', s.proofer.printer.state = .printing → rest = next :: rest' →
          ∃ t, exec .rowPrinted s = .next t ∧
            State.FollowUp
              { s with
                proofer :=
                  { s.proofer with
                    ring := rest
                    printer := { s.proofer.printer with row := some { dots := next, inRing := true } } } } t) ∧
          (s.proofer.printer.state = .printing → rest = [] →
            ∃ t, exec .rowPrinted s = .next t ∧
              State.FollowUp
                { s with
                  proofer :=
                    { s.proofer with ring := [], printer := { s.proofer.printer with state := .ready, row := none } } }
                t) ∧
          (s.proofer.printer.state ≠ .printing →
            ∃ t, exec .rowPrinted s = .next t ∧
              State.FollowUp
                { s with
                  proofer := { s.proofer with ring := rest, printer := { s.proofer.printer with row := none } } } t)

/-- R161, R162 and R163: the idle timer begins the settling, its end wakes a printer that a wake was held for and puts any
other to sleep, the waking ends in READY, paper-out stops the three timers and the rows stay, and paper-in wakes the printer;
paper-out again, and paper-in at another time, change nothing. -/
def Claims.PrinterTimersAndPaper : Prop :=
  ∀ (p : Printer) (s : State), s.proofer.printer = p →
    (p.state = .ready → p.idle.isSome = true →
      ∃ t, exec .idleTimer s = .next t ∧
        State.FollowUp
          { s with
            proofer :=
              { s.proofer with
                printer := { p with state := .settling, idle := none, settling := some 500, wakeHeld := false } } } t) ∧
      (p.state = .settling →
        ∃ t, exec .settlingTimer s = .next t ∧
          State.FollowUp
            { s with
              proofer :=
                { s.proofer with
                  printer :=
                    { p with
                      state := if p.wakeHeld then .waking else .asleep, settling := none, wakeHeld := false
                      waking := if p.wakeHeld then some 300 else none } } } t) ∧
      (p.state = .waking →
        ∃ t, exec .wakingTimer s = .next t ∧
          State.FollowUp
            { s with proofer := { s.proofer with printer := { p with state := .ready, waking := none } } } t) ∧
      (p.state ≠ .paperOut →
        exec .paperIn s = .next s ∧
          ∃ t, exec .paperOut s = .next t ∧
            State.FollowUp
              { s with
                proofer :=
                  { s.proofer with
                    printer :=
                      { p with
                        state := .paperOut, idle := none, settling := none, waking := none, wakeHeld := false } } }
              t) ∧
      (p.state = .paperOut →
        exec .paperOut s = .next s ∧
          ∃ t, exec .paperIn s = .next t ∧
            State.FollowUp
              { s with proofer := { s.proofer with printer := { p with state := .waking, waking := some 300 } } } t)

/-- R164: at the end of the abandonment timer every attached record that needs proof has its mark, where the composer has no
record on its hands; the rows in the ring are kept, no row is written, and no counter of lines proofed rises. -/
def Claims.ProofsAbandoned : Prop :=
  ∀ s : State, s.proofer.printer.state = .paperOut → s.proofer.printer.abandonment.isSome = true →
    ∃ t, exec .abandonmentTimer s = .next t ∧
      State.FollowUp
        { s with
          proofer := { s.proofer with printer := { s.proofer.printer with abandonment := none } } } t ∧
      (s.composer.waiting = none → s.composer.todo = [] →
        ∀ r ∈ t.queue, r.attached = true → r.line.needsProof = true → r.proofed = true) ∧
      ∀ g' ∈ t.galleys.table, ∃ g ∈ s.galleys.table, g.id = g'.id ∧ g.counters.proofed = g'.counters.proofed

/-- R161 to R164: the printer's states and timers, and the abandonment of proofs. -/
def Obligations.PrinterStates : Prop :=
  Claims.PrinterTimersAndPaper ∧ Claims.ProofsAbandoned

/-! ## Invariants -/

/-- INVARIANT (R1, R7, R75, R83, R95, R102, R109, R154, R155, R171): every step keeps every list of the part within the capacity
its rule gives. -/
def Obligations.StepKeepsCapacities : Prop :=
  ∀ s t : State, s.WithinCapacities → step s = .next t → t.WithinCapacities

/-- INVARIANT (R94 with log entry 7): every step keeps the block store's memory in canonical form. -/
def Obligations.StepKeepsMemoryCanonical : Prop :=
  ∀ s t : State, s.MemoryCanonical → step s = .next t → t.MemoryCanonical

/-- INVARIANT (R141, R145, R148, R149 and R130): every step keeps the film counters in agreement: supply remaining and film drawn
make the supply length, section depth stays within film drawn and within take-up held, and every move in progress can be
carried out, with the lead-out still in hand behind it. -/
def Obligations.StepKeepsFilmSound : Prop :=
  ∀ s t : State, s.FilmSound → step s = .next t → t.FilmSound
end

