-- ==== Sys2Proof/Laws/Bits.lean ====
section
/-! SUPPORT. The bits of a frame (R167): how many there are, what a field of them spells, and what a receiver can make of the
bits it has read. -/

namespace Sys2Proof

/-! ## Fields -/

@[simp] theorem natBits_length (width n : Nat) : (natBits width n).length = width := by simp [natBits]

theorem natBits_succ (width n : Nat) : natBits (width + 1) n = n.testBit width :: natBits width n := by
  unfold natBits
  rw [List.range_succ_eq_map, List.map_cons, List.map_map]
  refine congrArg₂ List.cons (by simp) (List.map_congr_left fun i hi => ?_)
  rw [Function.comp_apply, show width + 1 - 1 - i.succ = width - 1 - i by omega]

theorem bitsNat_cons (b : Bool) (bits : List Bool) : bitsNat (b :: bits) = b.toNat * 2 ^ bits.length + bitsNat bits := by
  have fold (bits : List Bool) (n : Nat) :
      bits.foldl (fun n b => 2 * n + b.toNat) n = n * 2 ^ bits.length + bitsNat bits := by
    unfold bitsNat
    induction bits generalizing n with
    | nil => simp
    | cons c bits ih =>
      rw [List.foldl_cons, List.foldl_cons, ih, ih (2 * 0 + c.toNat), List.length_cons]
      ring
  rw [← fold bits b.toNat]
  simp [bitsNat]

/-- A field sent most significant bit first spells its number. -/
theorem bitsNat_natBits (width n : Nat) : bitsNat (natBits width n) = n % 2 ^ width := by
  induction width with
  | zero => simp [natBits, bitsNat, Nat.mod_one]
  | succ width ih =>
    rw [natBits_succ, bitsNat_cons, natBits_length, ih, Nat.mod_pow_succ, Nat.toNat_testBit]
    ring

@[simp] theorem bytesAt_length (n : Nat) (plain : List Bool) : (bytesAt n plain).length = n := by
  induction n generalizing plain with
  | zero => rfl
  | succ n ih => rw [bytesAt, List.length_cons, ih]

theorem coveredBits_length (kind dest : BitVec 5) (length : BitVec 9) (body : List Byte) :
    (coveredBits kind dest length body).length = 19 + 8 * body.length := by
  simp [coveredBits, List.length_flatMap]
  omega

/-- A frame with a body of L bytes is 43 + 8 × L bits long before stuffing (R167). -/
theorem frameBits_length (f : Frame) : (frameBits f).length = frameSpan f.body.length := by
  simp [frameBits, coveredBits_length, frameSpan]
  omega

/-! ## The receiver -/

variable {bits : List Bool} {f : Frame}

/-- The bits of a frame with the stuffed bits removed, from its start bit on. -/
theorem receive_of_span (hl : lengthField (destuff (bits.dropWhile id)).1 ≤ Config.maxBody)
    (hs : frameSpan (lengthField (destuff (bits.dropWhile id)).1) ≤ (destuff (bits.dropWhile id)).1.length) :
    receive bits = .whole (splitFrame (destuff (bits.dropWhile id)).1) := by
  have hh : headerBits ≤ (destuff (bits.dropWhile id)).1.length := by
    unfold frameSpan at hs
    unfold headerBits
    omega
  unfold receive
  dsimp only
  rw [if_neg fun h => absurd h.2 (Nat.not_lt.2 hl), if_pos ⟨hh, hs⟩]

/-- A body length above 259 ends the reading when that field has been read. -/
theorem receive_of_overlong (hh : headerBits ≤ (destuff (bits.dropWhile id)).1.length)
    (hl : Config.maxBody < lengthField (destuff (bits.dropWhile id)).1) : receive bits = .discarded := by
  unfold receive
  dsimp only
  rw [if_pos ⟨hh, hl⟩]

/-- A frame that has been read whole has the fields of its bits, a body as long as its length field says, and no body above
259 bytes. -/
theorem receive_whole (h : receive bits = .whole f) :
    f = splitFrame (destuff (bits.dropWhile id)).1 ∧ f.body.length = f.length.toNat ∧ f.body.length ≤ Config.maxBody := by
  unfold receive at h
  dsimp only at h
  split at h
  · cases h
  · rename_i short
    split at h
    · rename_i whole
      obtain rfl := Reception.whole.inj h
      have hl : lengthField (destuff (bits.dropWhile id)).1 ≤ 259 := Nat.not_lt.1 fun above => short ⟨whole.1, above⟩
      refine ⟨rfl, ?_, ?_⟩
      · simp only [splitFrame, bytesAt_length, BitVec.toNat_ofNat]
        omega
      · simp only [splitFrame, bytesAt_length]
        exact hl
    · split at h <;> cases h

/-- The bits make a receiver discard the frame only by a stuffing violation or a body length above 259 (R167). -/
theorem violates_iff : violates bits = true ↔ receive bits = .discarded := by simp [violates]

end Sys2Proof
end

