-- ==== Sys2Proof/Laws/State.lean ====
section
/-! SUPPORT. What each update of a block leaves of every field of the state: true by unfolding the update once, so that no
later proof unfolds it. -/

namespace Sys2Proof.Machine

variable (s : State)

@[simp] theorem State.mapLine_pending (f : Line → Line) : (s.mapLine f).pending = s.pending := rfl
@[simp] theorem State.mapLine_station (f : Line → Line) : (s.mapLine f).station = s.station := rfl
@[simp] theorem State.mapLine_line (f : Line → Line) : (s.mapLine f).line = f s.line := rfl
@[simp] theorem State.mapLine_galleys (f : Line → Line) : (s.mapLine f).galleys = s.galleys := rfl
@[simp] theorem State.mapLine_composer (f : Line → Line) : (s.mapLine f).composer = s.composer := rfl
@[simp] theorem State.mapLine_hyphenation (f : Line → Line) : (s.mapLine f).hyphenation = s.hyphenation := rfl
@[simp] theorem State.mapLine_queue (f : Line → Line) : (s.mapLine f).queue = s.queue := rfl
@[simp] theorem State.mapLine_fonts (f : Line → Line) : (s.mapLine f).fonts = s.fonts := rfl
@[simp] theorem State.mapLine_imaging (f : Line → Line) : (s.mapLine f).imaging = s.imaging := rfl
@[simp] theorem State.mapLine_transport (f : Line → Line) : (s.mapLine f).transport = s.transport := rfl
@[simp] theorem State.mapLine_proofer (f : Line → Line) : (s.mapLine f).proofer = s.proofer := rfl

@[simp] theorem State.mapComposer_pending (f : Composer → Composer) : (s.mapComposer f).pending = s.pending := rfl
@[simp] theorem State.mapComposer_station (f : Composer → Composer) : (s.mapComposer f).station = s.station := rfl
@[simp] theorem State.mapComposer_line (f : Composer → Composer) : (s.mapComposer f).line = s.line := rfl
@[simp] theorem State.mapComposer_galleys (f : Composer → Composer) : (s.mapComposer f).galleys = s.galleys := rfl
@[simp] theorem State.mapComposer_composer (f : Composer → Composer) :
    (s.mapComposer f).composer = f s.composer := rfl
@[simp] theorem State.mapComposer_hyphenation (f : Composer → Composer) :
    (s.mapComposer f).hyphenation = s.hyphenation := rfl
@[simp] theorem State.mapComposer_queue (f : Composer → Composer) : (s.mapComposer f).queue = s.queue := rfl
@[simp] theorem State.mapComposer_fonts (f : Composer → Composer) : (s.mapComposer f).fonts = s.fonts := rfl
@[simp] theorem State.mapComposer_imaging (f : Composer → Composer) : (s.mapComposer f).imaging = s.imaging := rfl
@[simp] theorem State.mapComposer_transport (f : Composer → Composer) :
    (s.mapComposer f).transport = s.transport := rfl
@[simp] theorem State.mapComposer_proofer (f : Composer → Composer) : (s.mapComposer f).proofer = s.proofer := rfl

@[simp] theorem State.mapParams_pending (f : Params → Params) : (s.mapParams f).pending = s.pending := rfl
@[simp] theorem State.mapParams_station (f : Params → Params) : (s.mapParams f).station = s.station := rfl
@[simp] theorem State.mapParams_line (f : Params → Params) : (s.mapParams f).line = s.line := rfl
@[simp] theorem State.mapParams_galleys (f : Params → Params) : (s.mapParams f).galleys = s.galleys := rfl
@[simp] theorem State.mapParams_composer (f : Params → Params) :
    (s.mapParams f).composer = { s.composer with params := f s.composer.params } := rfl
@[simp] theorem State.mapParams_hyphenation (f : Params → Params) : (s.mapParams f).hyphenation = s.hyphenation := rfl
@[simp] theorem State.mapParams_queue (f : Params → Params) : (s.mapParams f).queue = s.queue := rfl
@[simp] theorem State.mapParams_fonts (f : Params → Params) : (s.mapParams f).fonts = s.fonts := rfl
@[simp] theorem State.mapParams_imaging (f : Params → Params) : (s.mapParams f).imaging = s.imaging := rfl
@[simp] theorem State.mapParams_transport (f : Params → Params) : (s.mapParams f).transport = s.transport := rfl
@[simp] theorem State.mapParams_proofer (f : Params → Params) : (s.mapParams f).proofer = s.proofer := rfl

@[simp] theorem State.mapFonts_pending (f : FontStore → FontStore) : (s.mapFonts f).pending = s.pending := rfl
@[simp] theorem State.mapFonts_station (f : FontStore → FontStore) : (s.mapFonts f).station = s.station := rfl
@[simp] theorem State.mapFonts_line (f : FontStore → FontStore) : (s.mapFonts f).line = s.line := rfl
@[simp] theorem State.mapFonts_galleys (f : FontStore → FontStore) : (s.mapFonts f).galleys = s.galleys := rfl
@[simp] theorem State.mapFonts_composer (f : FontStore → FontStore) : (s.mapFonts f).composer = s.composer := rfl
@[simp] theorem State.mapFonts_hyphenation (f : FontStore → FontStore) :
    (s.mapFonts f).hyphenation = s.hyphenation := rfl
@[simp] theorem State.mapFonts_queue (f : FontStore → FontStore) : (s.mapFonts f).queue = s.queue := rfl
@[simp] theorem State.mapFonts_fonts (f : FontStore → FontStore) : (s.mapFonts f).fonts = f s.fonts := rfl
@[simp] theorem State.mapFonts_imaging (f : FontStore → FontStore) : (s.mapFonts f).imaging = s.imaging := rfl
@[simp] theorem State.mapFonts_transport (f : FontStore → FontStore) : (s.mapFonts f).transport = s.transport := rfl
@[simp] theorem State.mapFonts_proofer (f : FontStore → FontStore) : (s.mapFonts f).proofer = s.proofer := rfl

@[simp] theorem State.mapGalleys_pending (f : GalleyUnit → GalleyUnit) : (s.mapGalleys f).pending = s.pending := rfl
@[simp] theorem State.mapGalleys_station (f : GalleyUnit → GalleyUnit) : (s.mapGalleys f).station = s.station := rfl
@[simp] theorem State.mapGalleys_line (f : GalleyUnit → GalleyUnit) : (s.mapGalleys f).line = s.line := rfl
@[simp] theorem State.mapGalleys_galleys (f : GalleyUnit → GalleyUnit) : (s.mapGalleys f).galleys = f s.galleys := rfl
@[simp] theorem State.mapGalleys_composer (f : GalleyUnit → GalleyUnit) :
    (s.mapGalleys f).composer = s.composer := rfl
@[simp] theorem State.mapGalleys_hyphenation (f : GalleyUnit → GalleyUnit) :
    (s.mapGalleys f).hyphenation = s.hyphenation := rfl
@[simp] theorem State.mapGalleys_queue (f : GalleyUnit → GalleyUnit) : (s.mapGalleys f).queue = s.queue := rfl
@[simp] theorem State.mapGalleys_fonts (f : GalleyUnit → GalleyUnit) : (s.mapGalleys f).fonts = s.fonts := rfl
@[simp] theorem State.mapGalleys_imaging (f : GalleyUnit → GalleyUnit) : (s.mapGalleys f).imaging = s.imaging := rfl
@[simp] theorem State.mapGalleys_transport (f : GalleyUnit → GalleyUnit) :
    (s.mapGalleys f).transport = s.transport := rfl
@[simp] theorem State.mapGalleys_proofer (f : GalleyUnit → GalleyUnit) : (s.mapGalleys f).proofer = s.proofer := rfl

@[simp] theorem State.mapTransport_pending (f : Transport → Transport) : (s.mapTransport f).pending = s.pending := rfl
@[simp] theorem State.mapTransport_station (f : Transport → Transport) : (s.mapTransport f).station = s.station := rfl
@[simp] theorem State.mapTransport_line (f : Transport → Transport) : (s.mapTransport f).line = s.line := rfl
@[simp] theorem State.mapTransport_galleys (f : Transport → Transport) : (s.mapTransport f).galleys = s.galleys := rfl
@[simp] theorem State.mapTransport_composer (f : Transport → Transport) :
    (s.mapTransport f).composer = s.composer := rfl
@[simp] theorem State.mapTransport_hyphenation (f : Transport → Transport) :
    (s.mapTransport f).hyphenation = s.hyphenation := rfl
@[simp] theorem State.mapTransport_queue (f : Transport → Transport) : (s.mapTransport f).queue = s.queue := rfl
@[simp] theorem State.mapTransport_fonts (f : Transport → Transport) : (s.mapTransport f).fonts = s.fonts := rfl
@[simp] theorem State.mapTransport_imaging (f : Transport → Transport) : (s.mapTransport f).imaging = s.imaging := rfl
@[simp] theorem State.mapTransport_transport (f : Transport → Transport) :
    (s.mapTransport f).transport = f s.transport := rfl
@[simp] theorem State.mapTransport_proofer (f : Transport → Transport) : (s.mapTransport f).proofer = s.proofer := rfl

@[simp] theorem State.mapImaging_pending (f : Imaging → Imaging) : (s.mapImaging f).pending = s.pending := rfl
@[simp] theorem State.mapImaging_station (f : Imaging → Imaging) : (s.mapImaging f).station = s.station := rfl
@[simp] theorem State.mapImaging_line (f : Imaging → Imaging) : (s.mapImaging f).line = s.line := rfl
@[simp] theorem State.mapImaging_galleys (f : Imaging → Imaging) : (s.mapImaging f).galleys = s.galleys := rfl
@[simp] theorem State.mapImaging_composer (f : Imaging → Imaging) : (s.mapImaging f).composer = s.composer := rfl
@[simp] theorem State.mapImaging_hyphenation (f : Imaging → Imaging) :
    (s.mapImaging f).hyphenation = s.hyphenation := rfl
@[simp] theorem State.mapImaging_queue (f : Imaging → Imaging) : (s.mapImaging f).queue = s.queue := rfl
@[simp] theorem State.mapImaging_fonts (f : Imaging → Imaging) : (s.mapImaging f).fonts = s.fonts := rfl
@[simp] theorem State.mapImaging_imaging (f : Imaging → Imaging) : (s.mapImaging f).imaging = f s.imaging := rfl
@[simp] theorem State.mapImaging_transport (f : Imaging → Imaging) : (s.mapImaging f).transport = s.transport := rfl
@[simp] theorem State.mapImaging_proofer (f : Imaging → Imaging) : (s.mapImaging f).proofer = s.proofer := rfl

@[simp] theorem State.mapProofer_pending (f : Proofer → Proofer) : (s.mapProofer f).pending = s.pending := rfl
@[simp] theorem State.mapProofer_station (f : Proofer → Proofer) : (s.mapProofer f).station = s.station := rfl
@[simp] theorem State.mapProofer_line (f : Proofer → Proofer) : (s.mapProofer f).line = s.line := rfl
@[simp] theorem State.mapProofer_galleys (f : Proofer → Proofer) : (s.mapProofer f).galleys = s.galleys := rfl
@[simp] theorem State.mapProofer_composer (f : Proofer → Proofer) : (s.mapProofer f).composer = s.composer := rfl
@[simp] theorem State.mapProofer_hyphenation (f : Proofer → Proofer) :
    (s.mapProofer f).hyphenation = s.hyphenation := rfl
@[simp] theorem State.mapProofer_queue (f : Proofer → Proofer) : (s.mapProofer f).queue = s.queue := rfl
@[simp] theorem State.mapProofer_fonts (f : Proofer → Proofer) : (s.mapProofer f).fonts = s.fonts := rfl
@[simp] theorem State.mapProofer_imaging (f : Proofer → Proofer) : (s.mapProofer f).imaging = s.imaging := rfl
@[simp] theorem State.mapProofer_transport (f : Proofer → Proofer) : (s.mapProofer f).transport = s.transport := rfl
@[simp] theorem State.mapProofer_proofer (f : Proofer → Proofer) : (s.mapProofer f).proofer = f s.proofer := rfl

@[simp] theorem State.mapPrinter_pending (f : Printer → Printer) : (s.mapPrinter f).pending = s.pending := rfl
@[simp] theorem State.mapPrinter_station (f : Printer → Printer) : (s.mapPrinter f).station = s.station := rfl
@[simp] theorem State.mapPrinter_line (f : Printer → Printer) : (s.mapPrinter f).line = s.line := rfl
@[simp] theorem State.mapPrinter_galleys (f : Printer → Printer) : (s.mapPrinter f).galleys = s.galleys := rfl
@[simp] theorem State.mapPrinter_composer (f : Printer → Printer) : (s.mapPrinter f).composer = s.composer := rfl
@[simp] theorem State.mapPrinter_hyphenation (f : Printer → Printer) :
    (s.mapPrinter f).hyphenation = s.hyphenation := rfl
@[simp] theorem State.mapPrinter_queue (f : Printer → Printer) : (s.mapPrinter f).queue = s.queue := rfl
@[simp] theorem State.mapPrinter_fonts (f : Printer → Printer) : (s.mapPrinter f).fonts = s.fonts := rfl
@[simp] theorem State.mapPrinter_imaging (f : Printer → Printer) : (s.mapPrinter f).imaging = s.imaging := rfl
@[simp] theorem State.mapPrinter_transport (f : Printer → Printer) : (s.mapPrinter f).transport = s.transport := rfl
@[simp] theorem State.mapPrinter_proofer (f : Printer → Printer) :
    (s.mapPrinter f).proofer = { s.proofer with printer := f s.proofer.printer } := rfl

@[simp] theorem State.mapInbound_pending (f : Inbound → Inbound) : (s.mapInbound f).pending = s.pending := rfl
@[simp] theorem State.mapInbound_station (f : Inbound → Inbound) : (s.mapInbound f).station = s.station := rfl
@[simp] theorem State.mapInbound_line (f : Inbound → Inbound) : (s.mapInbound f).line = s.line := rfl
@[simp] theorem State.mapInbound_galleys (f : Inbound → Inbound) : (s.mapInbound f).galleys = s.galleys := rfl
@[simp] theorem State.mapInbound_composer (f : Inbound → Inbound) : (s.mapInbound f).composer = s.composer := rfl
@[simp] theorem State.mapInbound_hyphenation (f : Inbound → Inbound) :
    (s.mapInbound f).hyphenation = s.hyphenation := rfl
@[simp] theorem State.mapInbound_queue (f : Inbound → Inbound) : (s.mapInbound f).queue = s.queue := rfl
@[simp] theorem State.mapInbound_fonts (f : Inbound → Inbound) :
    (s.mapInbound f).fonts = { s.fonts with inbound := f s.fonts.inbound } := rfl
@[simp] theorem State.mapInbound_imaging (f : Inbound → Inbound) : (s.mapInbound f).imaging = s.imaging := rfl
@[simp] theorem State.mapInbound_transport (f : Inbound → Inbound) : (s.mapInbound f).transport = s.transport := rfl
@[simp] theorem State.mapInbound_proofer (f : Inbound → Inbound) : (s.mapInbound f).proofer = s.proofer := rfl

@[simp] theorem State.mapOutbound_pending (f : Outbound → Outbound) : (s.mapOutbound f).pending = s.pending := rfl
@[simp] theorem State.mapOutbound_station (f : Outbound → Outbound) : (s.mapOutbound f).station = s.station := rfl
@[simp] theorem State.mapOutbound_line (f : Outbound → Outbound) : (s.mapOutbound f).line = s.line := rfl
@[simp] theorem State.mapOutbound_galleys (f : Outbound → Outbound) : (s.mapOutbound f).galleys = s.galleys := rfl
@[simp] theorem State.mapOutbound_composer (f : Outbound → Outbound) : (s.mapOutbound f).composer = s.composer := rfl
@[simp] theorem State.mapOutbound_hyphenation (f : Outbound → Outbound) :
    (s.mapOutbound f).hyphenation = s.hyphenation := rfl
@[simp] theorem State.mapOutbound_queue (f : Outbound → Outbound) : (s.mapOutbound f).queue = s.queue := rfl
@[simp] theorem State.mapOutbound_fonts (f : Outbound → Outbound) :
    (s.mapOutbound f).fonts = { s.fonts with outbound := f s.fonts.outbound } := rfl
@[simp] theorem State.mapOutbound_imaging (f : Outbound → Outbound) : (s.mapOutbound f).imaging = s.imaging := rfl
@[simp] theorem State.mapOutbound_transport (f : Outbound → Outbound) :
    (s.mapOutbound f).transport = s.transport := rfl
@[simp] theorem State.mapOutbound_proofer (f : Outbound → Outbound) : (s.mapOutbound f).proofer = s.proofer := rfl

@[simp] theorem State.mapExposure_pending (f : Exposure → Exposure) : (s.mapExposure f).pending = s.pending := rfl
@[simp] theorem State.mapExposure_station (f : Exposure → Exposure) : (s.mapExposure f).station = s.station := rfl
@[simp] theorem State.mapExposure_line (f : Exposure → Exposure) : (s.mapExposure f).line = s.line := rfl
@[simp] theorem State.mapExposure_galleys (f : Exposure → Exposure) : (s.mapExposure f).galleys = s.galleys := rfl
@[simp] theorem State.mapExposure_composer (f : Exposure → Exposure) : (s.mapExposure f).composer = s.composer := rfl
@[simp] theorem State.mapExposure_hyphenation (f : Exposure → Exposure) :
    (s.mapExposure f).hyphenation = s.hyphenation := rfl
@[simp] theorem State.mapExposure_queue (f : Exposure → Exposure) : (s.mapExposure f).queue = s.queue := rfl
@[simp] theorem State.mapExposure_fonts (f : Exposure → Exposure) : (s.mapExposure f).fonts = s.fonts := rfl
@[simp] theorem State.mapExposure_imaging (f : Exposure → Exposure) :
    (s.mapExposure f).imaging = { s.imaging with exposure := s.imaging.exposure.map f } := rfl
@[simp] theorem State.mapExposure_transport (f : Exposure → Exposure) :
    (s.mapExposure f).transport = s.transport := rfl
@[simp] theorem State.mapExposure_proofer (f : Exposure → Exposure) : (s.mapExposure f).proofer = s.proofer := rfl

@[simp] theorem State.sendTurret_pending (band : Nat) : (s.sendTurret band).pending = s.pending := rfl
@[simp] theorem State.sendTurret_station (band : Nat) : (s.sendTurret band).station = s.station := rfl
@[simp] theorem State.sendTurret_line (band : Nat) : (s.sendTurret band).line = s.line := rfl
@[simp] theorem State.sendTurret_galleys (band : Nat) : (s.sendTurret band).galleys = s.galleys := rfl
@[simp] theorem State.sendTurret_composer (band : Nat) : (s.sendTurret band).composer = s.composer := rfl
@[simp] theorem State.sendTurret_hyphenation (band : Nat) : (s.sendTurret band).hyphenation = s.hyphenation := rfl
@[simp] theorem State.sendTurret_queue (band : Nat) : (s.sendTurret band).queue = s.queue := rfl
@[simp] theorem State.sendTurret_fonts (band : Nat) : (s.sendTurret band).fonts = s.fonts := rfl
@[simp] theorem State.sendTurret_imaging (band : Nat) :
    (s.sendTurret band).imaging = { s.imaging with turret := s.imaging.turret.sent band } := rfl
@[simp] theorem State.sendTurret_transport (band : Nat) : (s.sendTurret band).transport = s.transport := rfl
@[simp] theorem State.sendTurret_proofer (band : Nat) : (s.sendTurret band).proofer = s.proofer := rfl

@[simp] theorem State.frameEnded_pending : (s.frameEnded).pending = s.pending := rfl
@[simp] theorem State.frameEnded_station : (s.frameEnded).station = s.station := rfl
@[simp] theorem State.frameEnded_line : (s.frameEnded).line = { s.line with idleBits := 0 } := rfl
@[simp] theorem State.frameEnded_galleys : (s.frameEnded).galleys = s.galleys := rfl
@[simp] theorem State.frameEnded_composer : (s.frameEnded).composer = s.composer := rfl
@[simp] theorem State.frameEnded_hyphenation : (s.frameEnded).hyphenation = s.hyphenation := rfl
@[simp] theorem State.frameEnded_queue : (s.frameEnded).queue = s.queue := rfl
@[simp] theorem State.frameEnded_fonts : (s.frameEnded).fonts = s.fonts := rfl
@[simp] theorem State.frameEnded_imaging : (s.frameEnded).imaging = s.imaging := rfl
@[simp] theorem State.frameEnded_transport : (s.frameEnded).transport = s.transport := rfl
@[simp] theorem State.frameEnded_proofer : (s.frameEnded).proofer = s.proofer := rfl

@[simp] theorem State.recount_pending : (s.recount).pending = s.pending := rfl
@[simp] theorem State.recount_station : (s.recount).station = s.station := rfl
@[simp] theorem State.recount_line : (s.recount).line = s.line := rfl
@[simp] theorem State.recount_galleys : (s.recount).galleys = s.galleys := rfl
@[simp] theorem State.recount_composer : (s.recount).composer = s.composer := rfl
@[simp] theorem State.recount_hyphenation : (s.recount).hyphenation = s.hyphenation := rfl
@[simp] theorem State.recount_queue : (s.recount).queue = s.queue := rfl
@[simp] theorem State.recount_fonts : (s.recount).fonts = s.fonts.recount s.references := rfl
@[simp] theorem State.recount_imaging : (s.recount).imaging = s.imaging := rfl
@[simp] theorem State.recount_transport : (s.recount).transport = s.transport := rfl
@[simp] theorem State.recount_proofer : (s.recount).proofer = s.proofer := rfl

@[simp] theorem State.markNotNeeded_pending : (s.markNotNeeded).pending = s.pending := rfl
@[simp] theorem State.markNotNeeded_station : (s.markNotNeeded).station = s.station := rfl
@[simp] theorem State.markNotNeeded_line : (s.markNotNeeded).line = s.line := rfl
@[simp] theorem State.markNotNeeded_galleys : (s.markNotNeeded).galleys = s.galleys := rfl
@[simp] theorem State.markNotNeeded_composer : (s.markNotNeeded).composer = s.composer := rfl
@[simp] theorem State.markNotNeeded_hyphenation : (s.markNotNeeded).hyphenation = s.hyphenation := rfl
@[simp] theorem State.markNotNeeded_queue : (s.markNotNeeded).queue = markProof (markExposure s.queue) := rfl
@[simp] theorem State.markNotNeeded_fonts : (s.markNotNeeded).fonts = s.fonts := rfl
@[simp] theorem State.markNotNeeded_imaging : (s.markNotNeeded).imaging = s.imaging := rfl
@[simp] theorem State.markNotNeeded_transport : (s.markNotNeeded).transport = s.transport := rfl
@[simp] theorem State.markNotNeeded_proofer : (s.markNotNeeded).proofer = s.proofer := rfl

@[simp] theorem State.send_pending (kind : FrameKind) (dest : BitVec 5) (body : List Byte) (owner : FrameOwner) :
    (s.send kind dest body owner).pending = s.pending := rfl
@[simp] theorem State.send_station (kind : FrameKind) (dest : BitVec 5) (body : List Byte) (owner : FrameOwner) :
    (s.send kind dest body owner).station = s.station := rfl
@[simp] theorem State.send_line (kind : FrameKind) (dest : BitVec 5) (body : List Byte) (owner : FrameOwner) :
    (s.send kind dest body owner).line = (s.line.offer s.station.takesPart kind dest body owner).1 := rfl
@[simp] theorem State.send_galleys (kind : FrameKind) (dest : BitVec 5) (body : List Byte) (owner : FrameOwner) :
    (s.send kind dest body owner).galleys = s.galleys := rfl
@[simp] theorem State.send_composer (kind : FrameKind) (dest : BitVec 5) (body : List Byte) (owner : FrameOwner) :
    (s.send kind dest body owner).composer = s.composer := rfl
@[simp] theorem State.send_hyphenation (kind : FrameKind) (dest : BitVec 5) (body : List Byte) (owner : FrameOwner) :
    (s.send kind dest body owner).hyphenation = s.hyphenation := rfl
@[simp] theorem State.send_queue (kind : FrameKind) (dest : BitVec 5) (body : List Byte) (owner : FrameOwner) :
    (s.send kind dest body owner).queue = s.queue := rfl
@[simp] theorem State.send_fonts (kind : FrameKind) (dest : BitVec 5) (body : List Byte) (owner : FrameOwner) :
    (s.send kind dest body owner).fonts = s.fonts := rfl
@[simp] theorem State.send_imaging (kind : FrameKind) (dest : BitVec 5) (body : List Byte) (owner : FrameOwner) :
    (s.send kind dest body owner).imaging = s.imaging := rfl
@[simp] theorem State.send_transport (kind : FrameKind) (dest : BitVec 5) (body : List Byte) (owner : FrameOwner) :
    (s.send kind dest body owner).transport = s.transport := rfl
@[simp] theorem State.send_proofer (kind : FrameKind) (dest : BitVec 5) (body : List Byte) (owner : FrameOwner) :
    (s.send kind dest body owner).proofer = s.proofer := rfl

end Sys2Proof.Machine
end

