-- ==== Sys2Proof/Laws/Frames.lean ====
section
/-! SUPPORT. What the operations of the galley unit, of the queue and of settling leave unchanged: one lemma for each
shared operation, to be cited where a command calls it. -/

namespace Sys2Proof.Machine

/-! ## The relation -/

theorem Line.Kept.refl (l : Line) : Line.Kept l l := ⟨rfl, rfl, rfl, rfl, rfl, rfl⟩

theorem Line.Kept.trans {a b c : Line} (h : Line.Kept a b) (k : Line.Kept b c) : Line.Kept a c :=
  ⟨k.flight.trans h.flight, k.holdOff.trans h.holdOff, k.quiet.trans h.quiet, k.resync.trans h.resync,
    k.idleBits.trans h.idleBits, k.driven.trans h.driven⟩

theorem Line.enqueue_kept (l : Line) (d : Descriptor) : Line.Kept l (l.enqueue d) := ⟨rfl, rfl, rfl, rfl, rfl, rfl⟩

/-- An offer changes nothing but what waits in the transmit queue. -/
theorem Line.offer_kept (l : Line) (takesPart : Bool) (kind : FrameKind) (dest : BitVec 5) (body : List Byte)
    (owner : FrameOwner) : Line.Kept l (l.offer takesPart kind dest body owner).1 := by
  unfold Line.offer
  split
  · exact Line.Kept.refl l
  · dsimp only
    split
    · exact ⟨rfl, rfl, rfl, rfl, rfl, rfl⟩
    · split
      · exact l.enqueue_kept _
      · split
        · exact ⟨rfl, rfl, rfl, rfl, rfl, rfl⟩
        · exact Line.Kept.refl l

/-- An owner other than a galley's report has no waiting report to replace. -/
theorem Line.waitingReport_eq_none (l : Line) {owner : FrameOwner} (h : ∀ id, owner ≠ .report id) :
    l.waitingReport owner = none := by
  unfold Line.waitingReport
  split
  · exact absurd rfl (h _)
  · rfl

/-- A frame offered where there is room, with no report of its galley waiting, waits in the queue. -/
theorem Line.offer_of_room (l : Line) (kind : FrameKind) (dest : BitVec 5) (body : List Byte) (owner : FrameOwner)
    (hw : l.waitingReport owner = none) (hc : l.count < Config.transmitCapacity) :
    l.offer true kind dest body owner = (l.withWaiting kind dest body owner, true) := by
  unfold Line.offer
  simp only [hw, hc]
  rfl

/-- A listening station's offer is discarded. -/
theorem Line.offer_of_listening (l : Line) (kind : FrameKind) (dest : BitVec 5) (body : List Byte)
    (owner : FrameOwner) : l.offer false kind dest body owner = (l, false) := rfl

/-- A TAKE due where there is room: it waits in the queue, and is due no more. -/
theorem State.queueTake_of_room (s : State) (hp : s.station.takesPart = true)
    (hc : s.line.count < Config.transmitCapacity) :
    s.queueTake =
      { s with
        line :=
          s.line.withWaiting .fontTake 0 (fontTakeBody s.fonts.inbound.font s.fonts.inbound.lender s.fonts.inbound.next)
            .inbound
        fonts := { s.fonts with inbound := { s.fonts.inbound with takeDue := false } } } := by
  unfold State.queueTake
  dsimp only
  rw [hp, Line.offer_of_room _ _ _ _ _ (s.line.waitingReport_eq_none fun _ h => FrameOwner.noConfusion h) hc]
  rfl

/-- A FONT WANTED offered where there is room: it waits in the queue, and is due no more (R113). -/
theorem State.queueAsk_of_room (s : State) (font : Nat) (hp : s.station.takesPart = true)
    (hc : s.line.count < Config.transmitCapacity) :
    s.queueAsk font =
      { s with
        line := s.line.withWaiting .fontWanted 0 (fontWantedBody font) .inbound
        fonts := { s.fonts with inbound := { s.fonts.inbound with askDue := false } } } := by
  unfold State.queueAsk
  dsimp only
  rw [hp, Line.offer_of_room _ _ _ _ _ (s.line.waitingReport_eq_none fun _ h => FrameOwner.noConfusion h) hc]
  rfl

/-- A FONT WANTED discarded on queueing: the asking wait starts at once, and its end counts no attempt (R113). -/
theorem State.queueAsk_of_discard (s : State) (font : Nat)
    (h : s.line.offer s.station.takesPart .fontWanted 0 (fontWantedBody font) .inbound = (s.line, false)) :
    s.queueAsk font =
      { s with
        fonts :=
          { s.fonts.startAskingWait font with
            inbound := { s.fonts.inbound with askDue := false, unsent := true } } } := by
  unfold State.queueAsk
  dsimp only
  rw [h]
  rfl

/-- An entry taken for the line while a frame of the channel stands in the transmit queue: it is ASKING, its FONT WANTED is due,
and the queue is as it was (R105, R171). -/
theorem State.askLine_of_holds (s : State) (w : Want) (h : s.line.holds Descriptor.isInbound = true) :
    s.askLine w =
      { s with
        fonts :=
          { (s.fonts.serve w.font).updateWant w.font fun w => { w with state := .asking, timer := none } with
            inbound := { Inbound.rest with askDue := true } } } := by
  unfold State.askLine
  dsimp only [State.mapFonts]
  rw [h]
  rfl

/-- The inbound channel takes an entry exactly when it is IDLE with no entry in service, no withdrawn FONT WANTED is in flight,
and an entry waits: the first in the order of R105, with the cartridge as its source where R105 lets it. -/
theorem State.takeable_eq_some {s : State} {w : Want} {c : Option CatalogEntry} :
    s.takeable = some (w, c) ↔
      s.fonts.inbound.mode = .idle ∧ s.fonts.inService = none ∧ s.line.askWithdrawn = false ∧
        s.fonts.nextWaiting = some w ∧ s.fonts.cartridgeSource w.font = c := by
  unfold State.takeable
  simp only [Option.isNone_iff_eq_none]
  constructor
  · intro h
    split at h
    · rename_i may
      obtain ⟨w', next, h⟩ := Option.map_eq_some_iff.1 h
      cases h
      exact ⟨may.1, may.2.1, may.2.2, next, rfl⟩
    · cases h
  · rintro ⟨idle, free, gone, next, rfl⟩
    rw [if_pos ⟨idle, free, gone⟩, next]
    rfl

/-- A lost descriptor with no younger report of its galley waiting has its own place again. -/
theorem Line.returned_of_none (l : Line) (d : Descriptor) (h : l.waitingReport d.owner = none) :
    l.returned d = insertBy Descriptor.precedes d l.queue := by
  unfold Line.returned
  rw [h]

/-- A lost report beside a younger one of its galley gives it its place and age. -/
theorem Line.returned_of_some (l : Line) (d : Descriptor) {younger : Descriptor}
    (h : l.waitingReport d.owner = some younger) :
    l.returned d = insertBy Descriptor.precedes { younger with age := d.age } (l.queue.erase younger) := by
  unfold Line.returned
  rw [h]

variable {s t u : State}

theorem State.MachineryKept.refl (s : State) : State.MachineryKept s s :=
  ⟨rfl, rfl, Line.Kept.refl _, rfl, rfl, rfl, rfl, rfl, rfl, rfl, rfl, rfl, rfl, rfl, rfl, rfl, rfl, rfl,
    List.Sublist.refl _⟩

theorem State.MachineryKept.trans (h : State.MachineryKept s t) (k : State.MachineryKept t u) :
    State.MachineryKept s u :=
  ⟨k.pending.trans h.pending, k.station.trans h.station, h.line.trans k.line, k.hyphenation.trans h.hyphenation,
    k.imaging.trans h.imaging, k.transport.trans h.transport, k.proofer.trans h.proofer, k.memory.trans h.memory,
    k.size.trans h.size, k.inbound.trans h.inbound, k.outbound.trans h.outbound, k.slot.trans h.slot,
    k.catalog.trans h.catalog, k.catalogTimer.trans h.catalogTimer, k.refused.trans h.refused,
    k.contents.trans h.contents, k.watch.trans h.watch, k.claimCount.trans h.claimCount, k.held.trans h.held⟩

/-- A fold of kept steps keeps. -/
theorem State.MachineryKept.foldl {α : Type} {f : State → α → State}
    (step : ∀ s a, State.MachineryKept s (f s a)) (xs : List α) (s : State) : State.MachineryKept s (xs.foldl f s) := by
  induction xs generalizing s with
  | nil => exact .refl s
  | cons a xs ih => exact (step s a).trans (ih _)

/-- The parts of the font store that settling leaves alone. -/
structure FontStore.Kept (a b : FontStore) : Prop where
  memory : b.memory = a.memory
  size : b.size = a.size
  inbound : b.inbound = a.inbound
  outbound : b.outbound = a.outbound
  slot : b.slot = a.slot
  catalog : b.catalog = a.catalog
  catalogTimer : b.catalogTimer = a.catalogTimer
  refused : b.refused = a.refused
  contents : b.directory.map DirEntry.content = a.directory.map DirEntry.content

theorem FontStore.Kept.refl (a : FontStore) : FontStore.Kept a a := ⟨rfl, rfl, rfl, rfl, rfl, rfl, rfl, rfl, rfl⟩

theorem FontStore.Kept.trans {a b c : FontStore} (h : FontStore.Kept a b) (k : FontStore.Kept b c) :
    FontStore.Kept a c :=
  ⟨k.memory.trans h.memory, k.size.trans h.size, k.inbound.trans h.inbound, k.outbound.trans h.outbound,
    k.slot.trans h.slot, k.catalog.trans h.catalog, k.catalogTimer.trans h.catalogTimer, k.refused.trans h.refused,
    k.contents.trans h.contents⟩

/-- A change of pins or stamps alone. -/
theorem FontStore.mapDirectory_kept (a : FontStore) (f : DirEntry → DirEntry) (n : Nat)
    (hf : ∀ e, (f e).content = e.content) :
    FontStore.Kept a { a with directory := a.directory.map f, useCount := n } := by
  refine ⟨rfl, rfl, rfl, rfl, rfl, rfl, rfl, rfl, ?_⟩
  simp only [List.map_map]
  exact List.map_congr_left fun e _ => hf e

theorem FontStore.restartDeferred_kept (a : FontStore) : FontStore.Kept a a.restartDeferred :=
  ⟨rfl, rfl, rfl, rfl, rfl, rfl, rfl, rfl, rfl⟩

theorem FontStore.recount_kept (a : FontStore) (f : Nat → Nat) : FontStore.Kept a (a.recount f) := by
  have h := a.mapDirectory_kept (fun e => if e.state = .free then e else { e with pins := f e.font }) a.useCount
    fun e => by split <;> rfl
  unfold FontStore.recount
  dsimp only
  split
  · exact h.trans (FontStore.restartDeferred_kept _)
  · exact h

theorem FontStore.advanceUse_kept (a : FontStore) : FontStore.Kept a a.advanceUse := by
  unfold FontStore.advanceUse
  split
  · exact ⟨rfl, rfl, rfl, rfl, rfl, rfl, rfl, rfl, rfl⟩
  · exact a.mapDirectory_kept _ _ fun e => by split <;> rfl

theorem FontStore.stampUse_kept (a : FontStore) (fonts : List Nat) : FontStore.Kept a (a.stampUse fonts) := by
  unfold FontStore.stampUse
  split
  · exact .refl a
  · exact (a.mapDirectory_kept _ a.useCount fun e => by split <;> rfl).trans (FontStore.advanceUse_kept _)

/-- The parts of the galley unit that settling leaves alone; galleys may go and none come. -/
structure GalleyUnit.Kept (a b : GalleyUnit) : Prop where
  watch : b.watch = a.watch
  claimCount : b.claimCount = a.claimCount
  held : (b.table.map Galley.id).Sublist (a.table.map Galley.id)

theorem GalleyUnit.Kept.refl (a : GalleyUnit) : GalleyUnit.Kept a a := ⟨rfl, rfl, List.Sublist.refl _⟩

theorem GalleyUnit.Kept.trans {a b c : GalleyUnit} (h : GalleyUnit.Kept a b) (k : GalleyUnit.Kept b c) :
    GalleyUnit.Kept a c :=
  ⟨k.watch.trans h.watch, k.claimCount.trans h.claimCount, k.held.trans h.held⟩

/-- A record changed keeps every galley's place in the table. -/
theorem GalleyUnit.update_kept (gu : GalleyUnit) (id : GalleyId) (f : Galley → Galley) (hf : ∀ g, (f g).id = g.id) :
    GalleyUnit.Kept gu (gu.update id f) := by
  refine ⟨rfl, rfl, ?_⟩
  have same : (gu.update id f).table.map Galley.id = gu.table.map Galley.id := by
    unfold GalleyUnit.update
    simp only [List.map_map]
    refine List.map_congr_left fun g _ => ?_
    simp only [Function.comp_apply]
    split
    · exact hf g
    · rfl
  rw [same]

/-- A step that replaces a kept galley unit, the composer, the queue, the transmit queue and a kept font store. -/
theorem State.kept_of (s : State) {l : Line} {gu : GalleyUnit} {c : Composer} {q : List QueueRecord} {fs : FontStore}
    (hl : Line.Kept s.line l) (hg : GalleyUnit.Kept s.galleys gu) (hf : FontStore.Kept s.fonts fs) :
    State.MachineryKept s { s with line := l, galleys := gu, composer := c, queue := q, fonts := fs } :=
  ⟨rfl, rfl, hl, rfl, rfl, rfl, rfl, hf.memory, hf.size, hf.inbound, hf.outbound, hf.slot, hf.catalog,
    hf.catalogTimer, hf.refused, hf.contents, hg.watch, hg.claimCount, hg.held⟩

/-! ## The galley unit -/

/-- A galley record changed. -/
theorem State.updateGalley_kept (s : State) (id : GalleyId) (f : Galley → Galley) (hf : ∀ g, (f g).id = g.id) :
    State.MachineryKept s (s.mapGalleys fun gu => gu.update id f) :=
  s.kept_of (.refl _) (s.galleys.update_kept id f hf) (.refl _)

theorem State.mapComposer_kept (s : State) (f : Composer → Composer) : State.MachineryKept s (s.mapComposer f) :=
  s.kept_of (.refl _) (.refl _) (.refl _)

theorem State.mapParams_kept (s : State) (f : Params → Params) : State.MachineryKept s (s.mapParams f) :=
  s.kept_of (.refl _) (.refl _) (.refl _)

theorem State.recount_kept (s : State) : State.MachineryKept s s.recount :=
  s.kept_of (.refl _) (.refl _) (s.fonts.recount_kept _)

theorem State.send_kept (s : State) (kind : FrameKind) (dest : BitVec 5) (body : List Byte) (owner : FrameOwner) :
    State.MachineryKept s (s.send kind dest body owner) :=
  s.kept_of (s.line.offer_kept _ _ _ _ _) (.refl _) (.refl _)

theorem State.sendReport_kept (s : State) (id : GalleyId) (e : ReportEvent) (reason : Nat) (c : Counters) :
    State.MachineryKept s (s.sendReport id e reason c) := s.send_kept _ _ _ _

theorem State.report_kept (s : State) (id : GalleyId) (e : ReportEvent) (reason : Nat) :
    State.MachineryKept s (s.report id e reason) := by
  unfold State.report
  split
  · exact s.sendReport_kept _ _ _ _
  · exact .refl s

theorem grantCredit_kept (takesPart : Bool) (head : Option GalleyId) (before : GalleyUnit × Line) (id : GalleyId) :
    GalleyUnit.Kept before.1 (grantCredit takesPart head before id).1 ∧
      Line.Kept before.2 (grantCredit takesPart head before id).2 := by
  unfold grantCredit
  split
  · exact ⟨.refl _, .refl _⟩
  · dsimp only
    split
    · exact ⟨GalleyUnit.update_kept _ _ _ fun _ => rfl, Line.offer_kept _ _ _ _ _ _⟩
    · exact ⟨.refl _, .refl _⟩

theorem State.evaluateCredit_kept (s : State) : State.MachineryKept s s.evaluateCredit := by
  have fold : ∀ (ids : List GalleyId) (b : GalleyUnit × Line),
      GalleyUnit.Kept b.1 (ids.foldl (grantCredit s.station.takesPart (s.galleys.head s.composer.galley)) b).1 ∧
        Line.Kept b.2 (ids.foldl (grantCredit s.station.takesPart (s.galleys.head s.composer.galley)) b).2 := by
    intro ids
    induction ids with
    | nil => exact fun b => ⟨.refl _, .refl _⟩
    | cons id ids ih =>
      exact fun b => ⟨(grantCredit_kept _ _ b id).1.trans (ih _).1, (grantCredit_kept _ _ b id).2.trans (ih _).2⟩
  have h := fold (s.galleys.creditOrder (s.galleys.head s.composer.galley)) (s.galleys, s.line)
  exact s.kept_of (c := s.composer) (q := s.queue) h.2 h.1 (.refl _)

theorem State.removeGalley_kept (s : State) (id : GalleyId) : State.MachineryKept s (s.removeGalley id) :=
  State.MachineryKept.trans
    (s.kept_of (l := s.line) (c := s.composer) (q := s.queue) (fs := s.fonts)
      (gu := { s.galleys with table := s.galleys.table.filter fun g => g.id ≠ id })
      (.refl _) ⟨rfl, rfl, List.filter_sublist.map _⟩ (.refl _))
    (State.evaluateCredit_kept _)

theorem State.finishGalley_kept (s : State) (id : GalleyId) : State.MachineryKept s (s.finishGalley id) :=
  (s.report_kept _ _ _).trans (State.removeGalley_kept _ _)

theorem State.enterDraining_kept (s : State) (id : GalleyId) : State.MachineryKept s (s.enterDraining id) := by
  unfold State.enterDraining
  have h := (s.updateGalley_kept id (fun g =>
    { g with
      state := .draining, suspension := none, compositionEnded := true, segments := [], unitsRead := 0,
      granted := none }) fun _ => rfl).trans (State.evaluateCredit_kept _)
  dsimp only
  split
  · exact h
  · exact h.trans (State.finishGalley_kept _ _)

theorem State.releaseComposer_kept (s : State) : State.MachineryKept s s.releaseComposer :=
  (s.kept_of (l := s.line) (q := s.queue) (c := Composer.rest) (gu := { s.galleys with textTimer := none })
    (fs := s.fonts) (.refl _) ⟨rfl, rfl, List.Sublist.refl _⟩ (.refl _)).trans (State.recount_kept _)

theorem State.freeComposer_kept (s : State) (id : GalleyId) : State.MachineryKept s (s.freeComposer id) := by
  unfold State.freeComposer
  split
  · exact s.releaseComposer_kept
  · exact .refl s

theorem State.checkDone_kept (s : State) (id : GalleyId) : State.MachineryKept s (s.checkDone id) := by
  unfold State.checkDone
  split
  · exact .refl s
  · split
    · exact .refl s
    · split
      · exact (s.freeComposer_kept id).trans (State.finishGalley_kept _ id)
      · exact .refl s

theorem State.suspend_kept (s : State) (id : GalleyId) (why : Suspension) :
    State.MachineryKept s (s.suspend id why) := by
  unfold State.suspend
  split
  · exact .refl s
  · split
    · dsimp only
      split
      · exact s.updateGalley_kept _ _ (by intro _; rfl)
      · exact (s.updateGalley_kept _ _ (by intro _; rfl)).trans (State.report_kept _ _ _ _)
    · exact .refl s

theorem State.resume_kept (s : State) (id : GalleyId) : State.MachineryKept s (s.resume id) := by
  unfold State.resume
  split
  · exact .refl s
  · split
    · dsimp only
      split
      · exact (s.report_kept _ _ _).trans (State.enterDraining_kept _ _)
      · have h := (s.report_kept id .resumed 0).trans (State.updateGalley_kept _ id (fun g =>
          { g with state := .composing, suspension := none }) fun _ => rfl)
        split
        · exact h.trans (State.mapComposer_kept _ _)
        · exact h
    · exact .refl s

theorem State.resumeAll_kept (s : State) (p : Suspension → Bool) : State.MachineryKept s (s.resumeAll p) :=
  State.MachineryKept.foldl State.resume_kept _ s

theorem State.consumeUnit_kept (s : State) : State.MachineryKept s s.consumeUnit := by
  unfold State.consumeUnit
  split
  · exact .refl s
  · split
    · exact .refl s
    · split
      · exact s.updateGalley_kept _ _ (by intro _; rfl)
      · exact (s.updateGalley_kept _ _ (by intro _; rfl)).trans (State.evaluateCredit_kept _)

theorem State.askNext_kept (s : State) : State.MachineryKept s s.askNext := by
  unfold State.askNext
  split
  · exact .refl s
  · split
    · exact (s.kept_of (l := s.line) (q := s.queue) (fs := s.fonts) (c := { s.composer with state := .waitText })
        (gu := { s.galleys with textTimer := some Config.textTimer }) (.refl _) ⟨rfl, rfl, List.Sublist.refl _⟩
        (.refl _)).trans
        (State.evaluateCredit_kept _)
    · exact .refl s

/-! ## The queue and settling -/

theorem State.appendRecord_kept (s : State) (r : SetLine) : State.MachineryKept s (s.appendRecord r) := by
  have h : State.MachineryKept s
      { s with
        queue := s.queue ++
          [{ line := r, exposed := false, proofed := false, attached := true, exposing := false,
             rasterizing := false }]
        galleys := s.galleys.update r.galley fun g => { g with counters := g.counters.appended r.flags }
        fonts := s.fonts.stampUse r.fonts } :=
    s.kept_of (l := s.line) (c := s.composer) (.refl _) (s.galleys.update_kept _ _ fun _ => rfl)
      (s.fonts.stampUse_kept r.fonts)
  unfold State.appendRecord
  dsimp only
  split
  · exact h.trans (State.suspend_kept _ _ _)
  · exact h

theorem State.takeWaiting_kept (s : State) : State.MachineryKept s s.takeWaiting := by
  unfold State.takeWaiting
  split
  · split
    · exact ((s.appendRecord_kept _).trans (State.mapComposer_kept _ _)).trans (State.recount_kept _)
    · exact .refl s
  · exact .refl s

theorem State.queue_kept (s : State) (q : List QueueRecord) : State.MachineryKept s { s with queue := q } :=
  s.kept_of (l := s.line) (gu := s.galleys) (c := s.composer) (fs := s.fonts) (.refl _) (.refl _) (.refl _)

theorem State.markNotNeeded_kept (s : State) : State.MachineryKept s s.markNotNeeded := s.queue_kept _

theorem State.departure_kept (h : s.departure = some t) : State.MachineryKept s t := by
  unfold State.departure at h
  have leave : ∀ q, State.MachineryKept s (State.takeWaiting (State.recount { s with queue := q })) := fun q =>
    ((s.queue_kept q).trans (State.recount_kept _)).trans (State.takeWaiting_kept _)
  split at h
  · obtain rfl := Option.some.inj h
    exact leave _
  · split at h
    · split at h
      · obtain rfl := Option.some.inj h
        exact (leave _).trans (State.checkDone_kept _ _)
      · cases h
    · cases h

theorem State.finishComposition_kept (s : State) (id : GalleyId) :
    State.MachineryKept s (s.finishComposition id) := by
  unfold State.finishComposition
  dsimp only
  split
  · exact s.releaseComposer_kept
  · split
    · exact (s.releaseComposer_kept.trans (State.updateGalley_kept _ _ _ (by intro _; rfl))).trans (State.evaluateCredit_kept _)
    · exact s.releaseComposer_kept.trans (State.enterDraining_kept _ _)

theorem State.perform_kept (s : State) (g : Galley) (task : Task) (rest : List Task) :
    State.MachineryKept s (s.perform g task rest) := by
  unfold State.perform
  have h := s.mapComposer_kept fun c => { c with todo := rest }
  cases task <;> dsimp only <;>
    first
      | exact h.trans (State.mapComposer_kept _ _)
      | exact h.trans (State.finishComposition_kept _ _)
      | exact h.trans (State.askNext_kept _)
      | skip
  split
  · exact h.trans (State.appendRecord_kept _ _)
  · exact h.trans (State.mapComposer_kept _ _)

theorem State.composerTask_kept (h : s.composerTask = some t) : State.MachineryKept s t := by
  unfold State.composerTask at h
  split at h
  · obtain rfl := Option.some.inj h
    exact (s.perform_kept _ _ _).trans (State.recount_kept _)
  · cases h

theorem State.settleStep_kept (h : s.settleStep = some t) : State.MachineryKept s t := by
  unfold State.settleStep at h
  dsimp only at h
  split at h
  · obtain rfl := Option.some.inj h
    exact s.markNotNeeded_kept.trans (State.departure_kept ‹_›)
  · exact s.markNotNeeded_kept.trans (State.composerTask_kept h)

theorem State.settleFor_kept (fuel : Nat) (s : State) : State.MachineryKept s (State.settleFor fuel s) := by
  induction fuel generalizing s with
  | zero => exact s.markNotNeeded_kept
  | succ fuel ih =>
    unfold State.settleFor
    split
    · exact (State.settleStep_kept ‹_›).trans (ih _)
    · exact s.markNotNeeded_kept

/-- What settling leaves unchanged. -/
theorem State.settle_kept (s : State) : State.MachineryKept s s.settle := s.settleFor_kept _

theorem State.dropRecords_kept (s : State) (id : GalleyId) : State.MachineryKept s (s.dropRecords id) := by
  have h := (s.queue_kept (removeRecords id s.queue)).trans (State.recount_kept _)
  unfold State.dropRecords
  dsimp only
  split
  · exact h.trans (State.takeWaiting_kept _)
  · exact h

theorem State.abort_kept (s : State) (id : GalleyId) (why : AbortReason) : State.MachineryKept s (s.abort id why) := by
  unfold State.abort
  split
  · exact .refl s
  · exact ((s.freeComposer_kept id).trans (State.dropRecords_kept _ _)).trans
      ((State.sendReport_kept _ _ _ _ _).trans (State.removeGalley_kept _ _))

theorem State.applyCancel_kept (s : State) (id : GalleyId) : State.MachineryKept s (s.applyCancel id) := by
  unfold State.applyCancel
  split
  · split
    · exact s.abort_kept _ _
    · exact .refl s
  · exact .refl s

end Sys2Proof.Machine
end

