-- ==== Sys2Proof/Laws/FollowUp.lean ====
section
/-! SUPPORT. What the examination behind an event may change, and so what may follow from any event: the one lemma
`State.event_followUp`, to be cited for every command that is an event. -/

namespace Sys2Proof.Machine

/-! ## The demands and the film test -/

/-- What the demands and the tests of the exposure walk leave unchanged; the flight may be marked withdrawn. -/
structure State.DemandKept (s t : State) : Prop where
  pending : t.pending = s.pending
  station : t.station = s.station
  sent : t.line.flight.map Flight.desc = s.line.flight.map Flight.desc
  holdOff : t.line.holdOff = s.line.holdOff
  quiet : t.line.quiet = s.line.quiet
  resync : t.line.resync = s.line.resync
  idleBits : t.line.idleBits = s.line.idleBits
  driven : t.line.driven = s.line.driven
  hyphenation : t.hyphenation = s.hyphenation
  memory : t.fonts.memory = s.fonts.memory
  size : t.fonts.size = s.fonts.size
  outbound : t.fonts.outbound = s.fonts.outbound
  inbound : t.fonts.inbound.unasked = s.fonts.inbound.unasked
  slot : t.fonts.slot = s.fonts.slot
  catalog : t.fonts.catalog = s.fonts.catalog
  contents : t.fonts.directory.map DirEntry.content = s.fonts.directory.map DirEntry.content
  watch : t.galleys.watch = s.galleys.watch
  claimCount : t.galleys.claimCount = s.galleys.claimCount
  held : (t.galleys.table.map Galley.id).Sublist (s.galleys.table.map Galley.id)
  transport : t.transport = s.transport
  imaging : t.imaging = s.imaging
  proofer : t.proofer = s.proofer

variable {s t u : State}

theorem State.MachineryKept.demandKept (h : State.MachineryKept s t) : State.DemandKept s t :=
  ⟨h.pending, h.station, by rw [h.line.flight], h.line.holdOff, h.line.quiet, h.line.resync, h.line.idleBits,
    h.line.driven, h.hyphenation, h.memory, h.size, h.outbound, by rw [h.inbound], h.slot, h.catalog, h.contents,
    h.watch, h.claimCount, h.held, h.transport, h.imaging, h.proofer⟩

theorem State.DemandKept.refl (s : State) : State.DemandKept s s := (State.MachineryKept.refl s).demandKept

theorem State.DemandKept.trans (h : State.DemandKept s t) (k : State.DemandKept t u) : State.DemandKept s u :=
  ⟨k.pending.trans h.pending, k.station.trans h.station, k.sent.trans h.sent, k.holdOff.trans h.holdOff,
    k.quiet.trans h.quiet, k.resync.trans h.resync, k.idleBits.trans h.idleBits, k.driven.trans h.driven,
    k.hyphenation.trans h.hyphenation, k.memory.trans h.memory, k.size.trans h.size, k.outbound.trans h.outbound,
    k.inbound.trans h.inbound, k.slot.trans h.slot, k.catalog.trans h.catalog, k.contents.trans h.contents,
    k.watch.trans h.watch, k.claimCount.trans h.claimCount, k.held.trans h.held, k.transport.trans h.transport,
    k.imaging.trans h.imaging, k.proofer.trans h.proofer⟩

theorem State.DemandKept.foldl {α : Type} {f : State → α → State} (step : ∀ s a, State.DemandKept s (f s a))
    (xs : List α) (s : State) : State.DemandKept s (xs.foldl f s) := by
  induction xs generalizing s with
  | nil => exact .refl s
  | cons a xs ih => exact (step s a).trans (ih _)

/-- A change of the want list and the refused demands alone. -/
theorem State.wants_demandKept (s : State) (wants : List Want) (refused : List (Party × Nat)) :
    State.DemandKept s { s with fonts := { s.fonts with wants := wants, refused := refused } } :=
  ⟨rfl, rfl, rfl, rfl, rfl, rfl, rfl, rfl, rfl, rfl, rfl, rfl, rfl, rfl, rfl, rfl, rfl, rfl, List.Sublist.refl _, rfl,
    rfl, rfl⟩

theorem State.withdraw_demandKept (s : State) (p : Descriptor → Bool) :
    State.DemandKept s (s.mapLine fun l => l.withdraw p) := by
  have sent : (s.line.withdraw p).flight.map Flight.desc = s.line.flight.map Flight.desc := by
    unfold Line.withdraw
    cases s.line.flight with
    | none => rfl
    | some f => simp only [Option.map_some]; split <;> rfl
  exact ⟨rfl, rfl, sent, rfl, rfl, rfl, rfl, rfl, rfl, rfl, rfl, rfl, rfl, rfl, rfl, rfl, rfl, rfl,
    List.Sublist.refl _, rfl, rfl, rfl⟩

/-- The end of an ASKING entry's service, as far as the channel's own marks go. -/
theorem State.unasked_demandKept (s : State) :
    State.DemandKept s (s.mapInbound Inbound.unasked) :=
  ⟨rfl, rfl, rfl, rfl, rfl, rfl, rfl, rfl, rfl, rfl, rfl, rfl, rfl, rfl, rfl, rfl, rfl, rfl, List.Sublist.refl _, rfl,
    rfl, rfl⟩

theorem State.dropWant_demandKept (s : State) (w : Want) : State.DemandKept s (s.dropWant w) := by
  have h := s.wants_demandKept (s.fonts.removeWant w.font).wants s.fonts.refused
  unfold State.dropWant
  dsimp only
  split
  · exact (h.trans (State.withdraw_demandKept _ (Descriptor.asksFor w.font))).trans (State.unasked_demandKept _)
  · exact h

theorem State.suspendForFonts_kept (s : State) : State.MachineryKept s s.suspendForFonts := by
  unfold State.suspendForFonts
  split
  · exact .refl s
  · dsimp only
    split
    · exact s.suspend_kept _ _
    · exact .refl s

theorem State.suspendForFont_kept (s : State) (font : Nat) : State.MachineryKept s (s.suspendForFont font) := by
  unfold State.suspendForFont
  split
  · split
    · exact s.suspendForFonts_kept
    · exact .refl s
  · exact .refl s

theorem State.demandOnce_demandKept (s : State) (party : Party) (font : Nat) :
    State.DemandKept s (s.demandOnce party font) := by
  have set := s.wants_demandKept (s.fonts.updateWant font Want.demanded).wants s.fonts.refused
  have add (s : State) := s.wants_demandKept (s.fonts.addWant font true).wants s.fonts.refused
  unfold State.demandOnce
  split
  · dsimp only
    split
    · exact set.trans (State.suspendForFont_kept _ _).demandKept
    · exact set
  · split
    · exact add s
    · split
      · exact (s.dropWant_demandKept _).trans (add _)
      · split
        · exact .refl s
        · exact s.wants_demandKept s.fonts.wants _

theorem State.demandAgain_demandKept (s : State) (d : Party × Nat) : State.DemandKept s (s.demandAgain d) := by
  have forget (s : State) := s.wants_demandKept s.fonts.wants (s.fonts.refused.filter fun x => x ≠ d)
  unfold State.demandAgain
  dsimp only
  split
  · exact forget s
  · split
    · exact (s.demandOnce_demandKept _ _).trans (forget _)
    · exact s.demandOnce_demandKept _ _

theorem State.wantRemoved_demandKept (s : State) : State.DemandKept s s.wantRemoved :=
  State.DemandKept.foldl State.demandAgain_demandKept _ s

/-- What raising a demand leaves unchanged (R104). -/
theorem State.raiseDemand_demandKept (s : State) (party : Party) (font : Nat) :
    State.DemandKept s (s.raiseDemand party font) := by
  unfold State.raiseDemand
  dsimp only
  split
  · exact (s.demandOnce_demandKept _ _).trans (State.wantRemoved_demandKept _)
  · exact s.demandOnce_demandKept _ _

theorem State.filmCheck_kept (s : State) : State.MachineryKept s s.filmCheck := by
  unfold State.filmCheck
  split
  · exact .refl s
  · split
    · exact s.suspend_kept _ _
    · exact .refl s

/-- What a record's becoming the exposure walk's next record leaves unchanged (R129, R130). -/
theorem State.nextArrived_demandKept (s : State) : State.DemandKept s s.nextArrived := by
  unfold State.nextArrived
  split
  · exact .refl s
  · exact (State.DemandKept.foldl (fun s f => s.raiseDemand_demandKept .exposure f) _ s).trans
      ((State.suspendForFonts_kept _).trans (State.filmCheck_kept _)).demandKept

/-! ## The queue is left to settling -/

theorem State.suspend_queue (s : State) (id : GalleyId) (why : Suspension) : (s.suspend id why).queue = s.queue := by
  unfold State.suspend
  split
  · rfl
  · split
    · dsimp only
      split
      · rfl
      · unfold State.report
        split <;> rfl
    · rfl

theorem State.filmTest_cases (s : State) :
    ∃ st, State.MachineryKept { s with transport := { s.transport with state := st } } s.filmTest ∧
      (st = s.transport.state ∨ s.transport.state = .idle ∧ (st = .filmOut ∨ st = .takeUpFull)) := by
  unfold State.filmTest
  split
  · exact ⟨_, .refl s, .inl rfl⟩
  · split
    · rename_i h
      split
      · exact ⟨.filmOut, State.suspend_kept _ _ _, .inr ⟨h.2.2, .inl rfl⟩⟩
      · split
        · exact ⟨.takeUpFull, State.suspend_kept _ _ _, .inr ⟨h.2.2, .inr rfl⟩⟩
        · exact ⟨_, .refl s, .inl rfl⟩
    · exact ⟨_, .refl s, .inl rfl⟩

/-! ## Events -/

/-- What the examination behind an event leaves unchanged. -/
theorem State.examine_followUp (s : State) (old : Option (GalleyId × Nat)) : State.FollowUp s (s.examine old) := by
  have arrived : State.DemandKept s (if s.exposureNextName = old then s else s.nextArrived) := by
    split
    · exact .refl s
    · exact s.nextArrived_demandKept
  generalize ha : (if s.exposureNextName = old then s else s.nextArrived) = a at arrived
  have last : s.examine old =
      State.proofWatch (a.filmTest.mapImaging fun i => i.watch a.filmTest.exposureNext.isSome) := by
    unfold State.examine
    rw [ha]
  rw [last]
  obtain ⟨st, kept, film⟩ := a.filmTest_cases
  have ringKept : a.filmTest.proofer.ring = s.proofer.ring := congrArg Proofer.ring (kept.proofer.trans arrived.proofer)
  have rasterKept : a.filmTest.proofer.raster = s.proofer.raster :=
    congrArg Proofer.raster (kept.proofer.trans arrived.proofer)
  refine
    { pending := kept.pending.trans arrived.pending
      station := kept.station.trans arrived.station
      sent := (congrArg _ kept.line.flight).trans arrived.sent
      holdOff := kept.line.holdOff.trans arrived.holdOff
      quiet := kept.line.quiet.trans arrived.quiet
      resync := kept.line.resync.trans arrived.resync
      idleBits := kept.line.idleBits.trans arrived.idleBits
      driven := kept.line.driven.trans arrived.driven
      hyphenation := kept.hyphenation.trans arrived.hyphenation
      memory := kept.memory.trans arrived.memory
      size := kept.size.trans arrived.size
      outbound := kept.outbound.trans arrived.outbound
      inbound := ?_
      slot := kept.slot.trans arrived.slot
      catalog := kept.catalog.trans arrived.catalog
      contents := kept.contents.trans arrived.contents
      watch := kept.watch.trans arrived.watch
      claimCount := kept.claimCount.trans arrived.claimCount
      held := kept.held.trans arrived.held
      transport := ?_
      imaging := ?_
      ring := ringKept
      raster := rasterKept
      printer := ?_ }
  · have h : a.filmTest.fonts.inbound = a.fonts.inbound := kept.inbound
    exact (congrArg Inbound.unasked h).trans arrived.inbound
  · have h : a.filmTest.transport = { s.transport with state := st } := by
      rw [← arrived.transport]; exact kept.transport
    rw [arrived.transport] at film
    show a.filmTest.transport = _ ∨ _ ∧ (a.filmTest.transport = _ ∨ a.filmTest.transport = _)
    rw [h]
    rcases film with rfl | ⟨idle, rfl | rfl⟩
    · exact .inl rfl
    · exact .inr ⟨idle, .inl rfl⟩
    · exact .inr ⟨idle, .inr rfl⟩
  · have h : a.filmTest.imaging = s.imaging := kept.imaging.trans arrived.imaging
    show a.filmTest.imaging.watch _ = _
    rw [h]
    rfl
  · have h : a.filmTest.proofer = s.proofer := kept.proofer.trans arrived.proofer
    rw [← h]
    rfl

/-- What settling and then the examination leave unchanged. -/
theorem State.FollowUp.of_kept (h : State.MachineryKept s t) (k : State.FollowUp t u) : State.FollowUp s u where
  pending := k.pending.trans h.pending
  station := k.station.trans h.station
  sent := k.sent.trans (congrArg _ h.line.flight)
  holdOff := k.holdOff.trans h.line.holdOff
  quiet := k.quiet.trans h.line.quiet
  resync := k.resync.trans h.line.resync
  idleBits := k.idleBits.trans h.line.idleBits
  driven := k.driven.trans h.line.driven
  hyphenation := k.hyphenation.trans h.hyphenation
  memory := k.memory.trans h.memory
  size := k.size.trans h.size
  outbound := k.outbound.trans h.outbound
  inbound := k.inbound.trans (congrArg Inbound.unasked h.inbound)
  slot := k.slot.trans h.slot
  catalog := k.catalog.trans h.catalog
  contents := k.contents.trans h.contents
  watch := k.watch.trans h.watch
  claimCount := k.claimCount.trans h.claimCount
  held := k.held.trans h.held
  transport := h.transport ▸ k.transport
  imaging := h.imaging ▸ k.imaging
  ring := k.ring.trans (congrArg Proofer.ring h.proofer)
  raster := k.raster.trans (congrArg Proofer.raster h.proofer)
  printer := h.proofer ▸ k.printer

/-- What may follow from an event whose own effect is `f`. -/
theorem State.event_followUp (s : State) (f : State → State) : State.FollowUp (f s) (s.event f) :=
  State.FollowUp.of_kept (f s).settle_kept (State.examine_followUp _ _)

end Sys2Proof.Machine
end

