-- ==== Sys2Proof/Laws/Memory.lean ====
section
/-! SUPPORT. The block store's memory keeps its canonical form: an empty memory has it, and every write of a block keeps
it (log entry 7). -/

namespace Sys2Proof.Machine

theorem Memory.wf_nil : Memory.wf [] := ⟨List.Pairwise.nil, fun _ h => absurd h List.not_mem_nil⟩

/-- Reset's memory is in canonical form. -/
theorem State.reset_memory_wf : Memory.wf State.reset.fonts.memory := Memory.wf_nil

/-- The cells of successive bytes lie within the bytes' addresses, rise, and hold no 0. -/
theorem cellsFrom_spec (data : List Byte) (a : Nat) :
    ((cellsFrom a data).map Prod.fst).Pairwise (· < ·) ∧
      ∀ c ∈ cellsFrom a data, a ≤ c.1 ∧ c.1 < a + data.length ∧ c.2 ≠ 0 := by
  induction data generalizing a with
  | nil => exact ⟨List.Pairwise.nil, fun _ h => absurd h List.not_mem_nil⟩
  | cons b rest ih =>
    obtain ⟨rise, within⟩ := ih (a + 1)
    have wide : ∀ c ∈ cellsFrom (a + 1) rest, a ≤ c.1 ∧ c.1 < a + (rest.length + 1) ∧ c.2 ≠ 0 := fun c h => by
      obtain ⟨low, high, held⟩ := within c h
      exact ⟨by omega, by omega, held⟩
    unfold cellsFrom
    split
    · exact ⟨rise, wide⟩
    · rename_i held
      refine ⟨List.pairwise_cons.2 ⟨fun x hx => ?_, rise⟩, fun c h => ?_⟩
      · obtain ⟨c, h, rfl⟩ := List.mem_map.1 hx
        exact (within c h).1
      · rcases List.mem_cons.1 h with rfl | h
        · exact ⟨Nat.le_refl _, by simp, held⟩
        · exact wide c h

/-- Memory put together of rising parts, each below the next. -/
theorem Memory.wf_append {m n : Memory} (hm : Memory.wf m) (hn : Memory.wf n) (below : ∀ c ∈ m, ∀ d ∈ n, c.1 < d.1) :
    Memory.wf (m ++ n) := by
  refine ⟨?_, fun c h => (List.mem_append.1 h).elim (hm.2 c) (hn.2 c)⟩
  rw [List.map_append, List.pairwise_append]
  refine ⟨hm.1, hn.1, fun x hx y hy => ?_⟩
  obtain ⟨c, hc, rfl⟩ := List.mem_map.1 hx
  obtain ⟨d, hd, rfl⟩ := List.mem_map.1 hy
  exact below c hc d hd

theorem Memory.wf_filter {m : Memory} (h : Memory.wf m) (p : Host.Cell → Bool) : Memory.wf (m.filter p) :=
  ⟨h.1.sublist (List.filter_sublist.map _), fun c hc => h.2 c (List.mem_filter.1 hc).1⟩

/-- Writing a block keeps the canonical form. -/
theorem Memory.writeBlock_wf {m : Memory} (h : Memory.wf m) (block : Nat) (data : List Byte) :
    Memory.wf (m.writeBlock block data) := by
  obtain ⟨rise, within⟩ := cellsFrom_spec (data.take Config.blockBytes) (Config.blockBytes * block)
  have short : (data.take Config.blockBytes).length ≤ Config.blockBytes := by simp
  have cells : ∀ c ∈ cellsFrom (Config.blockBytes * block) (data.take Config.blockBytes),
      Config.blockBytes * block ≤ c.1 ∧ c.1 < Config.blockBytes * (block + 1) := fun c hc => by
    obtain ⟨low, high, -⟩ := within c hc
    exact ⟨low, by rw [Nat.mul_add, Nat.mul_one]; omega⟩
  unfold Memory.writeBlock
  refine Memory.wf_append (Memory.wf_append (Memory.wf_filter h _) ⟨rise, fun c hc => (within c hc).2.2⟩ ?_)
    (Memory.wf_filter h _) ?_
  · intro c hc d hd
    have low := (List.mem_filter.1 hc).2
    have := (cells d hd).1
    simp only [decide_eq_true_eq] at low
    omega
  · intro c hc d hd
    have high := (List.mem_filter.1 hd).2
    simp only [decide_eq_true_eq] at high
    rcases List.mem_append.1 hc with hc | hc
    · have low := (List.mem_filter.1 hc).2
      simp only [decide_eq_true_eq] at low
      have : Config.blockBytes * block ≤ Config.blockBytes * (block + 1) := Nat.mul_le_mul_left _ (by omega)
      omega
    · have := (cells c hc).2
      omega

/-- Storing a block of a font keeps the canonical form. -/
theorem FontStore.storeBlock_wf {fs : FontStore} (h : Memory.wf fs.memory) (font : Nat) (data : List Byte) :
    Memory.wf (fs.storeBlock font data).memory := by
  unfold FontStore.storeBlock
  split
  · exact h
  · exact Memory.writeBlock_wf h _ _

end Sys2Proof.Machine
end

