-- ==== Sys2Proof/Laws/PerInstr.lean ====
section
/-! SUPPORT. Laws made per command. `UnitRead`: the code unit that spells a well-formed setting unit is read back as that
unit (R25, R26, R178); a command that is no unit of galley text has no code unit. -/

namespace Sys2Proof.Laws.UnitRead

def Statement (i : Instr) : Prop := i.wellFormed = true → ∀ u, unitWord i = some u → readUnit u = i

/-! ## The fields of a unit -/

theorem command_msb (n p : Nat) : (commandWord n p).msb = true := by
  rw [BitVec.msb_eq_getLsbD_last, commandWord, BitVec.getLsbD_append, BitVec.getLsbD_append]
  rfl

theorem command_number {n : Nat} (h : n < 32) (p : Nat) : commandNumber (commandWord n p) = n := by
  have : (commandWord n p).extractLsb' 10 5 = BitVec.ofNat 5 n := by
    unfold commandWord
    refine BitVec.eq_of_getLsbD_eq fun k hk => ?_
    rw [BitVec.getLsbD_extractLsb', BitVec.getLsbD_append, BitVec.getLsbD_append, if_neg (by omega),
      if_pos (by omega), show 10 + k - 10 = k by omega]
    simp [hk]
  simp [commandNumber, this, Nat.mod_eq_of_lt h]

theorem command_parameter {p : Nat} (n : Nat) (h : p < 1024) : commandParameter (commandWord n p) = p := by
  have : (commandWord n p).extractLsb' 0 10 = BitVec.ofNat 10 p := by
    unfold commandWord
    refine BitVec.eq_of_getLsbD_eq fun k hk => ?_
    rw [BitVec.getLsbD_extractLsb', BitVec.getLsbD_append, if_pos (by omega), Nat.zero_add]
    simp [hk]
  simp [commandParameter, this, Nat.mod_eq_of_lt h]

/-- A command unit is read by its number and its parameter. -/
theorem read_command {n p : Nat} (hn : n < 32) (hp : p < 1024) (i : Instr)
    (h : ∀ u : CodeWord, u.msb = true → commandNumber u = n → commandParameter u = p → readUnit u = i) :
    readUnit (commandWord n p) = i :=
  h _ (command_msb n p) (command_number hn p) (command_parameter n hp)

/-- A parameter field holds less than 1024. -/
theorem parameter_lt {p : Nat} (h : isParameter p = true) : p < 1024 := by simpa [isParameter] using h

/-! ## One law per command -/

theorem powerOn (p : PowerInputs) : Statement (.powerOn p) := fun _ _ h => by cases h

theorem quietPeriodEnd : Statement (.quietPeriodEnd) := fun _ _ h => by cases h

theorem contentionOpportunity (other : Bool) : Statement (.contentionOpportunity other) := fun _ _ h => by cases h

theorem frameLeftLine : Statement (.frameLeftLine) := fun _ _ h => by cases h

theorem stuffingViolation (bits : List Bool) : Statement (.stuffingViolation bits) := fun _ _ h => by cases h

theorem frameDiscarded (bits : List Bool) (inQuiet : Bool) : Statement (.frameDiscarded bits inQuiet) := fun _ _ h => by
  cases h

theorem galleyPosted (h : Header) (p : Posting) : Statement (.galleyPosted h p) := fun _ _ h => by cases h

theorem claimDelayExpiry (id : GalleyId) : Statement (.claimDelayExpiry id) := fun _ _ h => by cases h

theorem watchExpiryTimer (id : GalleyId) : Statement (.watchExpiryTimer id) := fun _ _ h => by cases h

theorem galleyClaim (h : Header) (id : GalleyId) : Statement (.galleyClaim h id) := fun _ _ h => by cases h

theorem galleyCancel (h : Header) (id : GalleyId) : Statement (.galleyCancel h id) := fun _ _ h => by cases h

theorem textSegment (h : Header) (id : GalleyId) (number : Nat) (units : List CodeWord) : Statement (.textSegment h id number units) := fun _ _ h => by cases h

theorem textCredit (h : Header) (id : GalleyId) (limit : Nat) : Statement (.textCredit h id limit) := fun _ _ h => by cases h

theorem galleyReport (h : Header) (id : GalleyId) (event reason : Nat) (counters : List Nat) : Statement (.galleyReport h id event reason counters) := fun _ _ h => by cases h

theorem proofWanted (h : Header) (id : GalleyId) (first last : Nat) : Statement (.proofWanted h id first last) := fun _ _ h => by cases h

theorem textTimeout : Statement (.textTimeout) := fun _ _ h => by cases h

theorem composerTakesHead : Statement (.composerTakesHead) := fun _ _ h => by cases h

theorem characterUnit (code : Nat) : Statement (.characterUnit code) := by
  intro h u hu
  obtain rfl := Option.some.inj hu
  have hc : 32 ≤ code ∧ code < 256 := by simpa [Instr.wellFormed, isByte] using h
  have n : (characterWord code).toNat = code := by simp [characterWord]; omega
  have m : (characterWord code).msb = false := by
    rw [BitVec.msb_eq_false_iff_two_mul_lt, n]; omega
  unfold readUnit
  rw [m, n, if_neg (by decide), if_neg (by omega)]

theorem ignoredUnit (w : CodeWord) : Statement (.ignoredUnit w) := by
  intro h u hu
  obtain rfl := Option.some.inj hu
  simpa [Instr.wellFormed] using h

theorem font (p : Nat) : Statement (.font p) := by
  intro h u hu
  obtain rfl := Option.some.inj hu
  exact read_command (n := 0) (by decide) (parameter_lt (by simp only [Instr.wellFormed, Bool.and_eq_true] at h; exact h.1)) _ fun u m n q => by simp [readUnit, m, n, q, show p ≠ 0 by simp [Instr.wellFormed] at h; omega]

theorem size (p : Nat) : Statement (.size p) := by
  intro h u hu
  obtain rfl := Option.some.inj hu
  exact read_command (n := 1) (by decide) (parameter_lt h) _ fun u m n q => by simp [readUnit, m, n, q]

theorem measure (p : Nat) : Statement (.measure p) := by
  intro h u hu
  obtain rfl := Option.some.inj hu
  exact read_command (n := 2) (by decide) (parameter_lt h) _ fun u m n q => by simp [readUnit, m, n, q]

theorem lead (p : Nat) : Statement (.lead p) := by
  intro h u hu
  obtain rfl := Option.some.inj hu
  exact read_command (n := 3) (by decide) (parameter_lt h) _ fun u m n q => by simp [readUnit, m, n, q]

theorem quad (p : Nat) : Statement (.quad p) := by
  intro h u hu
  obtain rfl := Option.some.inj hu
  exact read_command (n := 4) (by decide) ((by simp [Instr.wellFormed] at h; omega)) _ fun u m n q => by simp [readUnit, m, n, q, show ¬ 3 < p by simp [Instr.wellFormed] at h; omega]

theorem fixedSpace (p : Nat) : Statement (.fixedSpace p) := by
  intro h u hu
  obtain rfl := Option.some.inj hu
  exact read_command (n := 5) (by decide) ((by simp [Instr.wellFormed] at h; omega)) _ fun u m n q => by simp [readUnit, m, n, q, show ¬ (p = 0 ∨ 3 < p) by simp [Instr.wellFormed] at h; omega]

theorem endLine : Statement .endLine := by
  intro _ u hu
  obtain rfl := Option.some.inj hu
  exact read_command (n := 6) (p := 0) (by decide) (by decide) _ fun u m n _ => by simp [readUnit, m, n]

theorem endPara : Statement .endPara := by
  intro _ u hu
  obtain rfl := Option.some.inj hu
  exact read_command (n := 7) (p := 0) (by decide) (by decide) _ fun u m n _ => by simp [readUnit, m, n]

theorem indent (p : Nat) : Statement (.indent p) := by
  intro h u hu
  obtain rfl := Option.some.inj hu
  exact read_command (n := 8) (by decide) (parameter_lt h) _ fun u m n q => by simp [readUnit, m, n, q]

theorem offset (p : Nat) : Statement (.offset p) := by
  intro h u hu
  obtain rfl := Option.some.inj hu
  exact read_command (n := 9) (by decide) (parameter_lt h) _ fun u m n q => by simp [readUnit, m, n, q]

theorem hyphenate (p : Nat) : Statement (.hyphenate p) := by
  intro h u hu
  obtain rfl := Option.some.inj hu
  exact read_command (n := 10) (by decide) (parameter_lt h) _ fun u m n q => by simp [readUnit, m, n, q]

theorem ladder (p : Nat) : Statement (.ladder p) := by
  intro h u hu
  obtain rfl := Option.some.inj hu
  exact read_command (n := 11) (by decide) (parameter_lt h) _ fun u m n q => by simp [readUnit, m, n, q]

theorem letterspace (p : Nat) : Statement (.letterspace p) := by
  intro h u hu
  obtain rfl := Option.some.inj hu
  exact read_command (n := 12) (by decide) (parameter_lt h) _ fun u m n q => by simp [readUnit, m, n, q]

theorem track (p : Nat) : Statement (.track p) := by
  intro h u hu
  obtain rfl := Option.some.inj hu
  exact read_command (n := 13) (by decide) (parameter_lt h) _ fun u m n q => by simp [readUnit, m, n, q]

theorem softHyphen : Statement .softHyphen := by
  intro _ u hu
  obtain rfl := Option.some.inj hu
  exact read_command (n := 14) (p := 0) (by decide) (by decide) _ fun u m n _ => by simp [readUnit, m, n]

theorem reverse (p : Nat) : Statement (.reverse p) := by
  intro h u hu
  obtain rfl := Option.some.inj hu
  exact read_command (n := 15) (by decide) (parameter_lt h) _ fun u m n q => by simp [readUnit, m, n, q]

theorem advance (p : Nat) : Statement (.advance p) := by
  intro h u hu
  obtain rfl := Option.some.inj hu
  exact read_command (n := 16) (by decide) (parameter_lt h) _ fun u m n q => by simp [readUnit, m, n, q]

theorem back (p : Nat) : Statement (.back p) := by
  intro h u hu
  obtain rfl := Option.some.inj hu
  exact read_command (n := 17) (by decide) (parameter_lt h) _ fun u m n q => by simp [readUnit, m, n, q]

theorem cut : Statement .cut := by
  intro _ u hu
  obtain rfl := Option.some.inj hu
  exact read_command (n := 18) (p := 0) (by decide) (by decide) _ fun u m n _ => by simp [readUnit, m, n]

theorem learn (p : Nat) : Statement (.learn p) := by
  intro h u hu
  obtain rfl := Option.some.inj hu
  exact read_command (n := 19) (by decide) (parameter_lt h) _ fun u m n q => by simp [readUnit, m, n, q]

theorem endLearn : Statement .endLearn := by
  intro _ u hu
  obtain rfl := Option.some.inj hu
  exact read_command (n := 20) (p := 0) (by decide) (by decide) _ fun u m n _ => by simp [readUnit, m, n]

theorem density (p : Nat) : Statement (.density p) := by
  intro h u hu
  obtain rfl := Option.some.inj hu
  exact read_command (n := 21) (by decide) (parameter_lt h) _ fun u m n q => by simp [readUnit, m, n, q]

theorem endGalley : Statement .endGalley := by
  intro _ u hu
  obtain rfl := Option.some.inj hu
  exact read_command (n := 22) (p := 0) (by decide) (by decide) _ fun u m n _ => by simp [readUnit, m, n]

theorem wordLearned (h : Header) (body : List Byte) : Statement (.wordLearned h body) := fun _ _ h => by cases h

theorem inboundTakesEntry : Statement (.inboundTakesEntry) := fun _ _ h => by cases h

theorem cartridgeBlockRead (data : List Byte) : Statement (.cartridgeBlockRead data) := fun _ _ h => by cases h

theorem retryWait (font : Nat) : Statement (.retryWait font) := fun _ _ h => by cases h

theorem deferralLimit (font : Nat) : Statement (.deferralLimit font) := fun _ _ h => by cases h

theorem cartridgeInsertion : Statement (.cartridgeInsertion) := fun _ _ h => by cases h

theorem catalogRead (fonts : List CatalogEntry) : Statement (.catalogRead fonts) := fun _ _ h => by cases h

theorem cartridgeRemoval : Statement (.cartridgeRemoval) := fun _ _ h => by cases h

theorem askingWait : Statement (.askingWait) := fun _ _ h => by cases h

theorem fontWanted (h : Header) (font : Nat) : Statement (.fontWanted h font) := fun _ _ h => by cases h

theorem offerDelay : Statement (.offerDelay) := fun _ _ h => by cases h

theorem fontOffer (h : Header) (font asker total : Nat) : Statement (.fontOffer h font asker total) := fun _ _ h => by cases h

theorem fontTake (h : Header) (font lender first : Nat) : Statement (.fontTake h font lender first) := fun _ _ h => by cases h

theorem takeWait : Statement (.takeWait) := fun _ _ h => by cases h

theorem fontBlock (h : Header) (font index : Nat) (data : List Byte) : Statement (.fontBlock h font index data) := fun _ _ h => by cases h

theorem stallTimer : Statement (.stallTimer) := fun _ _ h => by cases h

theorem stationHalt (h : Header) : Statement (.stationHalt h) := fun _ _ h => by cases h

theorem stationRelease (h : Header) : Statement (.stationRelease h) := fun _ _ h => by cases h

theorem stationReset (h : Header) : Statement (.stationReset h) := fun _ _ h => by cases h

theorem warmUpTimer : Statement (.warmUpTimer) := fun _ _ h => by cases h

theorem standbyTimer : Statement (.standbyTimer) := fun _ _ h => by cases h

theorem exposureStart : Statement (.exposureStart) := fun _ _ h => by cases h

theorem turretMoveEnd : Statement (.turretMoveEnd) := fun _ _ h => by cases h

theorem backgroundPass : Statement (.backgroundPass) := fun _ _ h => by cases h

theorem flashDone : Statement (.flashDone) := fun _ _ h => by cases h

theorem strokeCompleted (samples : List Bool) : Statement (.strokeCompleted samples) := fun _ _ h => by cases h

theorem strokeTrip (samples : List Bool) : Statement (.strokeTrip samples) := fun _ _ h => by cases h

theorem holdOff : Statement (.holdOff) := fun _ _ h => by cases h

theorem reverseDone : Statement (.reverseDone) := fun _ _ h => by cases h

theorem knifeDone : Statement (.knifeDone) := fun _ _ h => by cases h

theorem supplyInsertion (lengthCode stockCode : Nat) : Statement (.supplyInsertion lengthCode stockCode) := fun _ _ h => by cases h

theorem supplyRemoval : Statement (.supplyRemoval) := fun _ _ h => by cases h

theorem takeUpInsertion : Statement (.takeUpInsertion) := fun _ _ h => by cases h

theorem takeUpRemoval : Statement (.takeUpRemoval) := fun _ _ h => by cases h

theorem rasterizeStart : Statement (.rasterizeStart) := fun _ _ h => by cases h

theorem rowWritten : Statement (.rowWritten) := fun _ _ h => by cases h

theorem printStart : Statement (.printStart) := fun _ _ h => by cases h

theorem rowPrinted : Statement (.rowPrinted) := fun _ _ h => by cases h

theorem idleTimer : Statement (.idleTimer) := fun _ _ h => by cases h

theorem settlingTimer : Statement (.settlingTimer) := fun _ _ h => by cases h

theorem wakingTimer : Statement (.wakingTimer) := fun _ _ h => by cases h

theorem paperOut : Statement (.paperOut) := fun _ _ h => by cases h

theorem paperIn : Statement (.paperIn) := fun _ _ h => by cases h

theorem abandonmentTimer : Statement (.abandonmentTimer) := fun _ _ h => by cases h

theorem endOfArbitration (read : BitVec 7) : Statement (.endOfArbitration read) := fun _ _ h => by cases h

end Sys2Proof.Laws.UnitRead
end

