-- ==== Sys2Proof/Laws/Units.lean ====
section
/-! SUPPORT. What the taking of a unit does: the one lemma `State.takeUnit_spec`, to be cited for every setting unit that
changes the composer alone. -/

namespace Sys2Proof.Machine

variable {s : State}

theorem GalleyUnit.find_id {gu : GalleyUnit} {id : GalleyId} {g : Galley} (h : gu.find id = some g) : g.id = id := by
  simpa using List.find?_some h

/-- The record found after an update that keeps ids. -/
theorem GalleyUnit.find_update {gu : GalleyUnit} {id : GalleyId} {f : Galley → Galley} (hf : ∀ g, (f g).id = g.id)
    (i : GalleyId) : (gu.update id f).find i = (gu.find i).map fun g => if g.id = id then f g else g := by
  unfold GalleyUnit.update GalleyUnit.find
  dsimp only
  rw [List.find?_map]
  congr 2
  funext g
  simp only [Function.comp_apply]
  split
  · rw [hf]
  · rfl

/-- What a credit evaluation leaves of a galley's record: all but the grant and the credit-unsent mark. -/
def Galley.uncredited (g : Galley) : Galley := { g with granted := none, creditUnsent := false }

theorem grantCredit_uncredited (takesPart : Bool) (head : Option GalleyId) (b : GalleyUnit × Line) (id : GalleyId) :
    (grantCredit takesPart head b id).1.table.map Galley.uncredited = b.1.table.map Galley.uncredited ∧
      (grantCredit takesPart head b id).1.textTimer = b.1.textTimer := by
  unfold grantCredit
  split
  · exact ⟨rfl, rfl⟩
  · dsimp only
    split
    · refine ⟨?_, rfl⟩
      unfold sendCredit GalleyUnit.update
      simp only [List.map_map]
      refine List.map_congr_left fun g _ => ?_
      simp only [Function.comp_apply]
      split <;> rfl
    · exact ⟨rfl, rfl⟩

theorem State.evaluateCredit_uncredited (s : State) :
    s.evaluateCredit.galleys.table.map Galley.uncredited = s.galleys.table.map Galley.uncredited ∧
      s.evaluateCredit.galleys.textTimer = s.galleys.textTimer := by
  have fold : ∀ (ids : List GalleyId) (b : GalleyUnit × Line),
      (ids.foldl (grantCredit s.station.takesPart (s.galleys.head s.composer.galley)) b).1.table.map
          Galley.uncredited = b.1.table.map Galley.uncredited ∧
        (ids.foldl (grantCredit s.station.takesPart (s.galleys.head s.composer.galley)) b).1.textTimer =
          b.1.textTimer := by
    intro ids
    induction ids with
    | nil => exact fun b => ⟨rfl, rfl⟩
    | cons id ids ih =>
      intro b
      obtain ⟨h, h'⟩ := grantCredit_uncredited s.station.takesPart (s.galleys.head s.composer.galley) b id
      obtain ⟨k, k'⟩ := ih (grantCredit s.station.takesPart (s.galleys.head s.composer.galley) b id)
      exact ⟨k.trans h, k'.trans h'⟩
  exact fold _ (s.galleys, s.line)

/-- Records that agree but for credit are found together. -/
theorem GalleyUnit.find_uncredited {a b : GalleyUnit}
    (h : b.table.map Galley.uncredited = a.table.map Galley.uncredited) (id : GalleyId) :
    (b.find id).map Galley.uncredited = (a.find id).map Galley.uncredited := by
  have same : ∀ gu : GalleyUnit,
      (gu.find id).map Galley.uncredited = (gu.table.map Galley.uncredited).find? fun g => g.id = id := by
    intro gu
    rw [List.find?_map]
    rfl
  rw [same, same, h]

theorem Galley.apartText_uncredited (g : Galley) : g.uncredited.apartText = g.apartText := rfl

theorem GalleyUnit.apartText_of_uncredited {a b : GalleyUnit}
    (h : b.table.map Galley.uncredited = a.table.map Galley.uncredited) :
    b.table.map Galley.apartText = a.table.map Galley.apartText := by
  have := congrArg (List.map Galley.apartText) h
  simpa only [List.map_map, Function.comp_def, Galley.apartText_uncredited] using this

/-- The evaluated state but for the galley unit and the transmit queue. -/
theorem State.evaluateCredit_rest (s : State) :
    s.evaluateCredit.queue = s.queue ∧ s.evaluateCredit.fonts = s.fonts ∧ s.evaluateCredit.composer = s.composer :=
  ⟨rfl, rfl, rfl⟩

/-- The galley after its front unit is consumed. -/
def Galley.consumedOne (g : Galley) : Galley :=
  match g.segments with
  | [] => g
  | slot :: rest =>
    if g.unitsRead + 1 < slot.length then { g with unitsRead := g.unitsRead + 1, consumed := g.consumed + 1 }
    else { g with segments := rest, unitsRead := 0, consumed := g.consumed + 1 }

theorem Galley.consumedOne_ahead {g : Galley} {u : CodeWord} (h : g.nextUnit = some u) :
    g.consumedOne.ahead = g.ahead.tail ∧ g.consumedOne.consumed = g.consumed + 1 := by
  unfold Galley.nextUnit at h
  unfold Galley.consumedOne Galley.ahead
  cases hs : g.segments with
  | nil => simp [hs] at h
  | cons slot rest =>
    simp only [hs] at h
    have inside : g.unitsRead < slot.length := (List.getElem?_eq_some_iff.1 h).1
    dsimp only
    split
    · simp
    · have last : slot.length = g.unitsRead + 1 := by omega
      refine ⟨?_, rfl⟩
      simp [last]

/-- What consuming the next unit does (R16). -/
theorem State.consumeUnit_spec {g : Galley} (hw : s.workingGalley = some g) (hs : g.segments ≠ []) :
    s.consumeUnit.composer = s.composer ∧ s.consumeUnit.queue = s.queue ∧ s.consumeUnit.fonts = s.fonts ∧
      s.consumeUnit.galleys.textTimer = s.galleys.textTimer ∧
      s.consumeUnit.galleys.table.map Galley.apartText = s.galleys.table.map Galley.apartText ∧
      (s.consumeUnit.galleys.find g.id).map Galley.uncredited = some g.consumedOne.uncredited := by
  have found : s.galleys.find g.id = some g := by
    unfold State.workingGalley at hw
    split at hw
    · rw [GalleyUnit.find_id hw]; exact hw
    · cases hw
  unfold State.consumeUnit
  simp only [hw]
  cases hseg : g.segments with
  | nil => exact absurd hseg hs
  | cons slot rest =>
    dsimp only
    have apart : ∀ f : Galley → Galley, (∀ g, (f g).apartText = g.apartText) →
        (s.galleys.update g.id f).table.map Galley.apartText = s.galleys.table.map Galley.apartText := by
      intro f hf
      unfold GalleyUnit.update
      simp only [List.map_map]
      refine List.map_congr_left fun x _ => ?_
      simp only [Function.comp_apply]
      split
      · exact hf x
      · rfl
    split
    · rename_i more
      refine ⟨rfl, rfl, rfl, rfl, apart _ fun _ => rfl, ?_⟩
      show ((s.galleys.update g.id _).find g.id).map _ = _
      rw [GalleyUnit.find_update (by intro; rfl), found]
      simp [Galley.consumedOne, hseg, more]
    · rename_i more
      obtain ⟨same, timer⟩ := State.evaluateCredit_uncredited (s.mapGalleys fun gu => gu.update g.id fun g =>
        { g with segments := rest, unitsRead := 0, consumed := g.consumed + 1 })
      refine ⟨rfl, rfl, rfl, timer, (GalleyUnit.apartText_of_uncredited same).trans (apart _ fun _ => rfl), ?_⟩
      rw [GalleyUnit.find_uncredited same]
      show ((s.galleys.update g.id _).find g.id).map _ = _
      rw [GalleyUnit.find_update (by intro; rfl), found]
      simp [Galley.consumedOne, hseg, more]

theorem Galley.nextCommand_uncredited {g h : Galley} (e : h.uncredited = g.uncredited) :
    h.nextCommand = g.nextCommand ∧ h.ahead = g.ahead ∧ h.consumed = g.consumed ∧
      h.compositionEnded = g.compositionEnded ∧ h.id = g.id := by
  cases g
  cases h
  simp only [Galley.uncredited, Galley.mk.injEq] at e
  obtain ⟨rfl, rfl, rfl, rfl, rfl, rfl, rfl, rfl, rfl, rfl, rfl, -, -, rfl, rfl, rfl, rfl, rfl, rfl, rfl, rfl, rfl⟩ := e
  exact ⟨rfl, rfl, rfl, rfl, rfl⟩

/-- What the composer's asking for the next unit does (R16, R17). -/
theorem State.askNext_spec {g : Galley} {id : GalleyId} (hc : s.composer.galley = some id)
    (hg : s.galleys.find id = some g) (run : s.composer.state = .running) (open_ : g.compositionEnded = false) :
    s.askNext.queue = s.queue ∧ s.askNext.fonts = s.fonts ∧
      s.askNext.composer = { s.composer with state := if g.nextCommand.isSome then .running else .waitText } ∧
      s.askNext.galleys.textTimer =
        (if s.askNext.composer.state = .waitText then some Config.textTimer else s.galleys.textTimer) ∧
      s.askNext.galleys.table.map Galley.apartText = s.galleys.table.map Galley.apartText ∧
      (s.askNext.galleys.find id).map Galley.uncredited = some g.uncredited := by
  have work : s.workingGalley = some g := by unfold State.workingGalley; rw [hc]; exact hg
  unfold State.askNext
  simp only [work]
  cases hn : g.nextCommand with
  | some i =>
    have same : s.composer = { s.composer with state := .running } := by rw [← run]
    simp [hg, run, ← same]
  | none =>
    obtain ⟨same, timer⟩ := State.evaluateCredit_uncredited
      { s with
        composer := { s.composer with state := .waitText }
        galleys := { s.galleys with textTimer := some Config.textTimer } }
    rw [if_pos ⟨run, rfl, open_⟩]
    refine ⟨rfl, rfl, by simp [State.evaluateCredit], ?_, GalleyUnit.apartText_of_uncredited same, ?_⟩
    · rw [timer]
      simp [State.evaluateCredit]
    · rw [GalleyUnit.find_uncredited same]
      show (s.galleys.find id).map _ = _
      rw [hg]
      rfl

/-- A unit handed over next comes from the galley's held text, but for an END GALLEY supplied. -/
theorem State.taking_spec {i : Instr} (h : s.taking i = true) :
    s.composer.state = .running ∧ ∃ g, s.workingGalley = some g ∧ g.nextCommand = some i := by
  unfold State.taking at h
  simp only [Bool.and_eq_true, beq_iff_eq] at h
  refine ⟨h.1.1, ?_⟩
  cases hw : s.workingGalley with
  | none => simp [hw] at h
  | some g => exact ⟨g, rfl, by simpa [hw] using h.2⟩

/-- What the taking of a unit that changes the composer alone does (R16, R25). -/
theorem State.takeUnit_spec {i : Instr} {f : Composer → Composer} (h : s.taking i = true) (hi : i ≠ .endGalley)
    (state : (f s.composer).state = s.composer.state) (galley : (f s.composer).galley = s.composer.galley) :
    State.UnitTaken s (f s.composer) (s.takeUnit i f) := by
  obtain ⟨run, g, work, next⟩ := State.taking_spec h
  have unit : ∃ u, g.nextUnit = some u := by
    unfold Galley.nextCommand at next
    split at next
    · cases next
    · split at next
      · exact ⟨_, ‹_›⟩
      · split at next
        · exact absurd (Option.some.inj next).symm hi
        · cases next
  obtain ⟨u, unit⟩ := unit
  have held : g.segments ≠ [] := by
    intro none
    simp [Galley.nextUnit, none] at unit
  have open_ : g.compositionEnded = false := by
    unfold Galley.nextCommand at next
    split at next
    · cases next
    · simpa using ‹¬g.compositionEnded = true›
  obtain ⟨id, composing, found⟩ : ∃ id, s.composer.galley = some id ∧ s.galleys.find id = some g := by
    unfold State.workingGalley at work
    split at work
    · exact ⟨_, ‹_›, work⟩
    · cases work
  obtain rfl := GalleyUnit.find_id found
  obtain ⟨c1, q1, f1, t1, a1, g1⟩ := State.consumeUnit_spec work held
  obtain ⟨g', found', same'⟩ := Option.map_eq_some_iff.1 g1
  obtain ⟨cmd', ahead', consumed', open', -⟩ := Galley.nextCommand_uncredited same'
  have ended : g.consumedOne.compositionEnded = g.compositionEnded := by
    unfold Galley.consumedOne
    split
    · rfl
    · split <;> rfl
  obtain ⟨q2, f2, c2, t2, a2, g2⟩ := State.askNext_spec (s := s.consumeUnit.mapComposer f) (id := g.id) (g := g')
    (by show (f s.consumeUnit.composer).galley = _; rw [c1, galley, composing]) found'
    (by show (f s.consumeUnit.composer).state = _; rw [c1, state, run]) (by rw [open', ended, open_])
  obtain ⟨g'', found'', same''⟩ := Option.map_eq_some_iff.1 g2
  obtain ⟨cmd'', ahead'', consumed'', -, -⟩ := Galley.nextCommand_uncredited same''
  obtain ⟨fewer, more⟩ := Galley.consumedOne_ahead unit
  unfold State.takeUnit
  rw [if_pos h]
  exact
    { kept := (s.consumeUnit_kept.trans (State.mapComposer_kept _ _)).trans (State.askNext_kept _)
      queue := q2.trans q1
      fonts := f2.trans f1
      records := a2.trans a1
      timer := by rw [t2]; show (if _ then _ else s.consumeUnit.galleys.textTimer) = _; rw [t1]
      galley :=
        ⟨g, g'', work, found'', (ahead''.trans ahead').trans fewer, (consumed''.trans consumed').trans more, by
          rw [c2, cmd'', State.mapComposer_composer, c1]⟩ }

end Sys2Proof.Machine
end

