-- ==== Sys2Proof/Tests/Slice0.lean ====
section
/-! SUPPORT. Tests: the manual's own worked values, words and frames written out from its tables, an ill-formed command
for each check of `Instr.wellFormed`, and for each obligation with hypotheses a state and operands that meet them. -/

namespace Sys2Proof.Tests

open Sys2Proof Sys2Proof.Machine

/-! ## Code units and frames, written out from R25, R167 and R178 -/

/-- R178: bit 15 set, the command number in bits 14 to 10, the parameter in bits 9 to 0. -/
theorem test_units_read :
    [0x0041#16, 0x0020#16, 0x001F#16, 0x0141#16, 0x8065#16, 0x8424#16, 0x8800#16, 0x8CC8#16, 0x9002#16, 0x9403#16,
      0x9800#16, 0x9C00#16].map readUnit =
      [.characterUnit 65, .characterUnit 32, .ignoredUnit 0x001F, .ignoredUnit 0x0141, .font 101, .size 36, .measure 0,
        .lead 200, .quad 2, .fixedSpace 3, .endLine, .endPara] := by
  decide

theorem test_units_read_on :
    [0xA001#16, 0xA402#16, 0xA801#16, 0xAC03#16, 0xB005#16, 0xB410#16, 0xB800#16, 0xBC01#16, 0xC090#16, 0xC658#16,
      0xC800#16, 0xCC01#16, 0xD000#16, 0xD404#16, 0xD800#16, 0xDC00#16, 0x8000#16, 0x9004#16].map readUnit =
      [.indent 1, .offset 2, .hyphenate 1, .ladder 3, .letterspace 5, .track 16, .softHyphen, .reverse 1, .advance 144,
        .back 600, .cut, .learn 1, .endLearn, .density 4, .endGalley, .ignoredUnit 0xDC00, .ignoredUnit 0x8000,
        .ignoredUnit 0x9004] := by
  decide

/-- R178: the bytes of a GALLEY POSTED of (2, 41), NORMAL, FILM, stock FILM, HOLD, 640 units, fonts 101 and 230. -/
theorem test_posting_read :
    readBody .galleyPosted ⟨2, 0⟩
        [2, 41, 1, 0, 0, 0, 0, 0, 1, 0, 2, 128, 2, 0, 101, 0, 230] =
      some (.galleyPosted ⟨2, 0⟩
        { id := ⟨2, 41⟩, priority := 1, mode := 0, firstLine := 0, lastLine := 0, stock := 1, policy := 0,
          length := 640, fonts := [101, 230] }) := by
  decide

/-- R178: a TEXT SEGMENT, a PROOF WANTED, a FONT OFFER and a FONT TAKE, byte for byte; R175, case 5: a length that does not
agree. -/
theorem test_bodies_read :
    readBody .textSegment ⟨2, 5⟩ [2, 41, 0, 1, 2, 0, 65, 128, 101] =
        some (.textSegment ⟨2, 5⟩ ⟨2, 41⟩ 1 [0x0041, 0x8065]) ∧
      readBody .proofWanted ⟨2, 5⟩ [2, 41, 0, 3, 1, 4] = some (.proofWanted ⟨2, 5⟩ ⟨2, 41⟩ 3 260) ∧
      readBody .fontOffer ⟨9, 0⟩ [1, 44, 17, 100] = some (.fontOffer ⟨9, 0⟩ 300 17 100) ∧
      readBody .fontTake ⟨17, 0⟩ [1, 44, 9, 2] = some (.fontTake ⟨17, 0⟩ 300 9 2) ∧
      readBody .galleyClaim ⟨9, 0⟩ [2, 41, 0] = none := by
  decide

/-- R168: the check register is the one whose value for the bytes of "123456789" is known to be 29B1 hex. -/
theorem test_check_register :
    checkOf ([0x31, 0x32, 0x33, 0x34, 0x35, 0x36, 0x37, 0x38, 0x39].flatMap fun b => natBits 8 b) = 0x29B1#16 := by
  decide +kernel

/-- R167: class 1 and the complement of station 9, 22. -/
theorem test_arbitration_field : arbitrationField .galleyClaim 9 = 0b0110110#7 := by decide

/-- R167: after five successive bits of equal level one of the opposite level, which counts into the next run. -/
theorem test_stuffing :
    stuff [false, false, false, false, false, true, true, true, true, false] =
      [false, false, false, false, false, true, true, true, true, true, false, false] := by
  decide

/-- R167, R168, R178: the bits of station 9's GALLEY CLAIM of (2, 41): start 0, class 01, complement 10110, kind 00010,
destination 00000, length 000000010, body 00000010 00101001, check 06F5 hex, with a bit stuffed behind each five equal ones. -/
def claimBits : List Bool :=
  natBits 63 0b001101100001000001000001000100000100100010100100000111011110101

/-- R167: the frame is whole with its last check bit and not before, and is read with idle bits before it and others behind. -/
theorem test_frame_read_from_bits :
    receive claimBits =
        .whole
          { cls := 0b01, complement := 0b10110, kind := 0b00010, dest := 0, length := 2, body := [2, 41],
            check := 0x06F5 } ∧
      receive (claimBits.take 62) = .unfinished ∧
      readBits (List.replicate 12 true ++ claimBits ++ List.replicate 12 true) = some (.galleyClaim ⟨9, 0⟩ ⟨2, 41⟩) := by
  decide +kernel

/-- R167, R175: six equal bits inside a frame, the line gone recessive before the body length is reached, and a body length of
260, are violations; an idle line is no frame. -/
theorem test_frames_not_read :
    violates (claimBits.take 40 ++ List.replicate 6 false) = true ∧
      violates (claimBits.take 20 ++ List.replicate 12 true) = true ∧
      violates (natBits 28 0x765960C) = true ∧
      violates ((natBits 28 0x765960C).dropLast) = false ∧ receive (List.replicate 24 true) = .unfinished := by
  decide +kernel

/-- R146: the third of three successive over-limit samples; two do not trip. -/
theorem test_trip_samples :
    tripSample [true, true, false, true, true, true] = some 6 ∧
      tripSample [true, true, false, true, true, false, true, true] = none ∧
      tripSample [true, true, true] = some 3 := by
  decide

/-! ## The worked cases of the chapter Composition and Justification -/

/-- A box of font 101 at size 20. -/
def box (code width : Nat) : Box := .char code 101 20 width

def rain : List Box := [box 114 69, box 97 94, box 105 47, box 110 103]
def isWord : List Box := [box 105 47, box 115 75]
def sent : List Box := [box 115 75, box 101 91, box 110 103, box 116 63]
def tenants : List Box := [box 116 63, box 101 91, box 110 103, box 97 94, box 110 103, box 116 63, box 115 75]

/-- The waiting glue of the worked case: 50, 38, 88. -/
def glue : Glue := { nominal := 50, minimum := 38, maximum := 88 }

def lineOf (words : List (List Box)) : LineBuild :=
  { items := ((words.map wordItems).intersperse [.glue glue]).flatten, missing := false, substituted := false }

/-- Widths of the table: units 22, 30, 15, 33, 24, 29, 20 and the hyphen's 21 at size 20. -/
theorem test_widths :
    [22, 30, 15, 33, 24, 29, 20, 21].map (fun w => characterWidth w 0 20) = [69, 94, 47, 103, 75, 91, 63, 66] ∧
      [16, 12, 28].map (fun u => scaled u 20) = [50, 38, 88] := by
  decide

/-- Measure 44 pt: the spaces are 57 and 56, and no flag stands. -/
theorem test_justified_line :
    (justify (lineOf [rain, isWord, sent]) 880 0).glues = [57, 56] ∧
      (justify (lineOf [rain, isWord, sent]) 880 0).flags = Flags.none := by
  decide

theorem test_justified_positions :
    (positions 0 (lineOf [rain, isWord, sent]).items [57, 56] []).map Prod.snd =
      [0, 69, 163, 210, 370, 417, 548, 623, 714, 817] := by
  decide

/-- Measure 43 pt: a negative slack of 7 gives 47 and 46, not TIGHT. -/
theorem test_narrower_measure :
    (justify (lineOf [rain, isWord, sent]) 860 0).glues = [47, 46] ∧
      (justify (lineOf [rain, isWord, sent]) 860 0).flags.tight = false := by
  decide

/-- Under CENTER: offset 6, set width 867. -/
theorem test_centered :
    (setByQuad (lineOf [rain, isWord, sent]) 880 .center).quadOffset = 6 ∧
      (setByQuad (lineOf [rain, isWord, sent]) 880 .center).setWidth = 867 := by
  decide

/-- "rain is te-" under cap 0 is LOOSE with spaces 113 and 112, and under cap 3 as well. -/
theorem test_loose_line :
    (justify (lineOf [rain, isWord, [box 116 63, box 101 91, box 45 66]]) 880 0).glues = [113, 112] ∧
      (justify (lineOf [rain, isWord, [box 116 63, box 101 91, box 45 66]]) 880 3).flags.loose = true := by
  decide

/-- Under cap 10 it is LETTERSPACED: spaces 88, the first gap 9 and the other five 8. -/
theorem test_letterspaced_line :
    (justify (lineOf [rain, isWord, [box 116 63, box 101 91, box 45 66]]) 880 10).glues = [88, 88] ∧
      (justify (lineOf [rain, isWord, [box 116 63, box 101 91, box 45 66]]) 880 10).gaps = [9, 8, 8, 8, 8, 8] := by
  decide

/-- R33: thin, en and em at size 20. -/
theorem test_fixed_spaces : [1, 2, 3].map (fun k => fixedSpaceWidth k 20) = [50, 100, 200] := by decide

/-! ## The worked examples of the chapter Hyphenation -/

def core (s : String) : List Nat := s.toList.map Char.toNat

/-- The reply for a letters-only word with no entry and no soft hyphen. -/
def reply (s : String) : List Nat := Hyphenation.points ⟨[], 0⟩ ((core s).map fun c => box c 60) []

theorem test_rule_points :
    ["tenants", "recording", "unstable", "mystery"].map reply = [[2], [2, 5, 6], [2, 4, 5], [2]] := by
  decide +kernel

theorem test_rule_points_on :
    ["wanted", "brochure", "quarter", "interest"].map reply = [[3], [3], [4], [2, 4, 5]] := by
  decide +kernel

/-- "(tenants)," has the reply 3 by the rules, and 6 with a soft hyphen after "(tenan". -/
theorem test_word_with_lead_and_tail :
    Hyphenation.points ⟨[], 0⟩ ([box 40 40] ++ tenants ++ [box 41 40, box 44 30]) [] = [3] ∧
      Hyphenation.points ⟨[], 0⟩ ([box 40 40] ++ tenants ++ [box 41 40, box 44 30]) [6] = [6] := by
  decide

/-- The learn sequence of the chapter Setting Codes: "record" with a point at 2 is handed on. -/
theorem test_learned_record :
    LearnWord.handed { never := false, letters := core "record", points := [2], valid := true } =
      some (false, core "record", [2]) := by
  decide

/-! ## Exposure, film and proof -/

/-- R134: trim 0 on PAPER and on FILM; R128: the bands meet at 24, 48 and 96. -/
theorem test_intensities :
    [0, 1, 2, 3].map (fun b => intensityOf b 1 0) = [3, 4, 5, 6] ∧
      [0, 1, 2, 3].map (fun b => intensityOf b 2 0) = [6, 8, 10, 12] ∧
      [intensityOf 0 1 (-2), intensityOf 3 2 2] = [1, 14] ∧
      [10, 23, 24, 47, 48, 95, 96, 288].map bandOf = [0, 0, 1, 1, 2, 2, 3, 3] := by
  decide

/-- The proof dots of "rain is sent", and the field of a REVERSE line of measure 880. -/
theorem test_proof_dots :
    [0, 69, 163, 210, 370, 417, 548, 623, 714, 817].map proofDot = [16, 20, 27, 30, 41, 44, 54, 59, 65, 72] ∧
      measureDots 880 = 61 := by
  decide

/-- R158: LOOSE and HYPHENATED show L and then H, and HYPHENATED with LETTERSPACED shows H alone. -/
theorem test_margin_letters :
    Flags.letters { Flags.none with hyphenated := true, loose := true } = [76, 72] ∧
      Flags.letters { Flags.none with hyphenated := true, letterspaced := true } = [72] := by
  decide

/-! ## Ill-formed commands (one for each check of `Instr.wellFormed`) -/

/-- A header and a galley id that fit their fields, and one of each that does not. -/
def h5 : Header := ⟨5, 0⟩
def h40 : Header := ⟨40, 0⟩
def id9 : GalleyId := ⟨2, 41⟩
def id300 : GalleyId := ⟨2, 300⟩

def posting : Posting :=
  { id := id9, priority := 1, mode := 2, firstLine := 0, lastLine := 0, stock := 0, policy := 0, length := 640,
    fonts := [101, 230] }

theorem test_ill_formed_frames :
    [.galleyPosted h40 posting, .galleyPosted h5 { posting with id := id300 },
      .galleyPosted h5 { posting with priority := 256 }, .galleyPosted h5 { posting with mode := 256 },
      .galleyPosted h5 { posting with firstLine := 65536 }, .galleyPosted h5 { posting with lastLine := 65536 },
      .galleyPosted h5 { posting with stock := 256 }, .galleyPosted h5 { posting with policy := 256 },
      .galleyPosted h5 { posting with length := 65536 }, .galleyPosted h5 { posting with fonts := [65536] },
      .galleyPosted h5 { posting with fonts := List.replicate 124 1 }, .galleyClaim h5 id300, .galleyClaim h40 id9,
      .galleyCancel h40 id9, .galleyCancel h5 id300].all (fun i => !Instr.wellFormed i) = true := by
  decide +kernel

theorem test_ill_formed_text_frames :
    [.textSegment h40 id9 0 [], .textSegment h5 id300 0 [], .textSegment h5 id9 65536 [],
      .textSegment h5 id9 0 (List.replicate 128 0), .textCredit h40 id9 0, .textCredit h5 id300 0,
      .textCredit h5 id9 65536, .galleyReport h40 id9 0 0 (List.replicate 11 0),
      .galleyReport h5 id300 0 0 (List.replicate 11 0), .galleyReport h5 id9 256 0 (List.replicate 11 0),
      .galleyReport h5 id9 0 256 (List.replicate 11 0), .galleyReport h5 id9 0 0 [],
      .galleyReport h5 id9 0 0 (List.replicate 11 65536), .proofWanted h40 id9 0 0, .proofWanted h5 id300 0 0,
      .proofWanted h5 id9 65536 0, .proofWanted h5 id9 0 65536].all (fun i => !Instr.wellFormed i) = true := by
  decide +kernel

theorem test_ill_formed_font_frames :
    [.fontWanted h40 1, .fontWanted h5 65536, .fontOffer h40 1 1 3, .fontOffer h5 65536 1 3, .fontOffer h5 1 256 3,
      .fontOffer h5 1 1 256, .fontTake h40 1 1 0, .fontTake h5 65536 1 0, .fontTake h5 1 256 0, .fontTake h5 1 1 256,
      .fontBlock h40 1 0 (List.replicate 256 0), .fontBlock h5 65536 0 (List.replicate 256 0),
      .fontBlock h5 1 256 (List.replicate 256 0), .fontBlock h5 1 0 [], .wordLearned h40 [],
      .wordLearned h5 (List.replicate 260 0), .stationHalt h40, .stationRelease h40,
      .stationReset ⟨5, 32⟩].all (fun i => !Instr.wellFormed i) = true := by
  decide +kernel

theorem test_ill_formed_units :
    [.characterUnit 31, .characterUnit 256, .ignoredUnit 0x0041, .font 0, .font 1024, .quad 4, .fixedSpace 0,
      .fixedSpace 4, .size 1024, .measure 1024, .lead 1024, .indent 1024, .offset 1024, .hyphenate 1024, .ladder 1024,
      .letterspace 1024, .track 1024, .reverse 1024, .advance 1024, .back 1024, .learn 1024,
      .density 1024].all (fun i => !Instr.wellFormed i) = true := by
  decide +kernel

/-- The levels of a station strapped 5 with everything mounted. -/
def levels : PowerInputs :=
  { station := 5, priorityStrap := false, largeStore := false, cartridge := true, supply := some (1, 0),
    takeUp := true, paper := true }

theorem test_ill_formed_events :
    [.powerOn { levels with station := 32 }, .powerOn { levels with supply := some (4, 0) },
      .powerOn { levels with supply := some (1, 2) }, .stuffingViolation [false, true],
      .frameDiscarded (claimBits.take 62) false, .claimDelayExpiry id300, .watchExpiryTimer id300,
      .cartridgeBlockRead [], .retryWait 0, .retryWait 1024, .deferralLimit 0, .deferralLimit 1024,
      .strokeCompleted [false], .strokeCompleted (List.replicate 8 true), .strokeTrip [true, true],
      .strokeTrip (List.replicate 9 true), .supplyInsertion 4 0,
      .supplyInsertion 1 2].all (fun i => !Instr.wellFormed i) = true := by
  decide +kernel

/-- What is well formed at the edges of the ranges is not refused. -/
theorem test_well_formed :
    [.powerOn levels, .galleyPosted h5 posting, .font 1023, .characterUnit 255, .characterUnit 32, .quad 3,
      .fixedSpace 1, .retryWait 1023, .strokeCompleted (List.replicate 8 false), .strokeTrip [true, true, true],
      .supplyInsertion 0 0, .ignoredUnit 0x001F, .stuffingViolation (List.replicate 6 false),
      .frameDiscarded claimBits true, .wordLearned h5 (List.replicate 259 0), .stationReset ⟨31, 31⟩].all Instr.wellFormed = true := by
  decide +kernel

/-! ## States to test on -/

/-- Station 5, past its quiet period and warm, with a paper supply and a take-up mounted and the printer READY. -/
def ready : State :=
  { State.reset with
    station := { State.reset.station with number := 5 }
    line := { State.reset.line with quiet := none, resync := false, idleBits := 12 }
    imaging := { state := .ready, warmUp := none, standby := some 600000, turret := .standing 0, exposure := none }
    transport :=
      { state := .idle, supplyPresent := true, supplyLength := 864000, stock := some .paper, takeUpPresent := true,
        remaining := 864000, drawn := 0, depth := 0, takeUpHeld := 0, trips := 0, move := none }
    proofer :=
      { State.reset.proofer with
        printer := { State.reset.proofer.printer with state := .ready, idle := some 20000 } } }

/-- A galley of 64 units, its first segment held. -/
def galley : Galley :=
  { id := id9, priority := .normal, mode := .both, firstLine := 1, lastLine := 0, fonts := [101], policy := .hold,
    fallback := 101, length := 64, expected := 2, nextSegment := 1, granted := some 1, creditUnsent := false,
    segments := [List.replicate 32 0x0041], unitsRead := 0, consumed := 0, state := .composing, suspension := none,
    compositionEnded := false, cancelPending := false, counters := Counters.zero, stamp := 0 }

def holding (g : Galley) : State := { ready with galleys := { ready.galleys with table := [g], claimCount := 1 } }

/-- The composer on that galley, RUNNING. -/
def running : Composer := { Composer.rest with state := .running, galley := some id9 }

/-- The composer about to take this unit. -/
def before (u : CodeWord) : State :=
  { holding { galley with segments := [u :: List.replicate 31 0x0041] } with composer := running }

/-- The same with a line and a word in progress, and with a learn sequence open. -/
def inLine (u : CodeWord) : State :=
  { before u with
    composer := { running with line := lineOf [rain], word := { Word.empty with boxes := isWord } } }

def learning (u : CodeWord) (letters : List Nat) : State :=
  { before u with
    composer :=
      { running with
        params :=
          { running.params with learn := some { never := false, letters := letters, points := [], valid := true } } } }

/-- Font metrics in which every code has 22 units. -/
def metrics : Metrics := { nominal := 16, minimum := 12, maximum := 28, widths := List.replicate 223 (some 22) }

/-- A RESIDENT font of 3 blocks. -/
def resident (font : Nat) : DirEntry :=
  { font := font, state := .resident, total := 3, present := 3, blocks := [0, 1, 2], lendable := true, pins := 0,
    stamp := 0, metrics := some metrics }

def withEntry (e : DirEntry) (s : State) : State :=
  { s with fonts := { s.fonts with directory := e :: List.replicate 23 DirEntry.unused } }

def want (font : Nat) (state : WantState) (timer : Option Nat) : Want :=
  { font := font, state := state, attempts := 0, firstBlock := 0, demand := true, timer := timer }

def wanting (w : Want) (s : State) : State := { s with fonts := { s.fonts with wants := [w] } }

/-- A closed line of one run of one character. -/
def setLine : SetLine :=
  { galley := id9, number := 1, kind := .text, leading := 240, advance := 0, back := 0, offset := 0, measure := 3360,
    setWidth := 69, flags := Flags.none, reverse := false, trim := 0, cutAfter := true,
    runs := [{ font := 101, size := 20, chars := [(114, 0), (97, 69)] }], fonts := [101], needsExposure := true,
    needsProof := true }

def record (l : SetLine) : QueueRecord :=
  { line := l, exposed := false, proofed := false, attached := true, exposing := false, rasterizing := false }

/-- The station with that galley, its font, and this record in the queue. -/
def queued (r : QueueRecord) : State := { withEntry (resident 101) (holding galley) with queue := [r] }

def exposure (stage : Stage) : Exposure :=
  { movement := .forward 240, stockMultiplier := 1, stage := stage, run := 0, char := 0, flash := none, field := none }

def flash : Flash := { font := 101, size := 20, code := 114, x := 0, intensity := 3 }

/-- That record being exposed. -/
def exposing (e : Exposure) : State :=
  { queued { record setLine with exposing := true } with
    imaging := { ready.imaging with state := .exposing, standby := none, exposure := some e } }

def moving (kind : MoveKind) (left : Nat) (phase : MovePhase) (s : State) : State :=
  { s with
    transport :=
      { s.transport with
        state := if kind = .leadOut then .cutting else .moving
        move := some { kind := kind, left := left, phase := phase, ending := false } } }

def sendingOf (kind : FrameKind) (owner : FrameOwner) (stage : FlightStage) : Flight :=
  { desc := { kind := kind, dest := 0, body := [], owner := owner, age := 0 }, stage := stage, withdrawn := false,
    disowned := false }

def inFlight (f : Flight) (s : State) : State := { s with line := { s.line with flight := some f } }

/-- A heard header of station 9, and the station's own. -/
def from9 : Header := ⟨9, 0⟩
def own : Header := ⟨5, 0⟩
def to5 : Header := ⟨2, 5⟩

def watching (state : WatchState) : WatchEntry :=
  { id := id9, priority := .normal, mode := .both, firstLine := 1, lastLine := 0, fonts := [101, 230], policy := .hold,
    length := 640, claimDelay := 20, delay := none, state := state, expiry := 2000 }

def watched (w : WatchEntry) : State := { ready with galleys := { ready.galleys with watch := [w] } }

/-! ## Worked values on these states -/

/-- The worked claim race: one galley held 10 ms, a font absent 12 ms, film low 68 ms. -/
theorem test_claim_delays :
    (withEntry (resident 101) (holding galley)).claimDelay .normal .film [101] = 10 ∧
      (withEntry (resident 101) ready).claimDelay .normal .film [101, 230] = 12 ∧
      { withEntry (resident 101) ready with
          transport := { ready.transport with remaining := 86399 } }.claimDelay .normal .film [101] = 68 := by
  decide +kernel

/-- R2: a RUSH delay is half, and no delay is below 2. -/
theorem test_rush_delay : ready.claimDelay .rush .film [101] = 6 ∧ ready.claimDelay .rush .film [] = 2 := by
  decide +kernel

/-- The worked credit sequence: B's a = min(63, 68 − 32) = 36 behind a head with 188 segments outstanding. -/
theorem test_credit_grant :
    (GalleyUnit.largestGrant
      { ready.galleys with
        table := [{ galley with expected := 188, nextSegment := 0, granted := some 187, segments := [] }] }
      (some id9) { galley with id := ⟨2, 42⟩, expected := 63, nextSegment := 0, granted := none, segments := [] }) =
      36 := by
  decide +kernel

/-- R121: the offer delays of stations 9 and 30. -/
theorem test_offer_delays : [9, 30, 8].map offerDelayOf = [4, 24, 0] := by decide

/-- R64: a back of 3000 against leading 240 reaches behind a section of 1000 and is clamped there. -/
theorem test_clamped_reverse :
    { setLine with back := 3000 }.resolve 1000 = .reverse 1000 ∧
      { setLine with back := 3000 }.clamped 1000 = true ∧ { setLine with back := 240 }.resolve 0 = .forward 0 := by
  decide

/-- R98: at the use count 65535 the one entry's stamp becomes 0 and the use count 1. -/
theorem test_restamping :
    ({ (withEntry { resident 101 with stamp := 700 } ready).fonts with useCount := 65535 }.advanceUse).useCount = 1 ∧
      (({ (withEntry { resident 101 with stamp := 700 } ready).fonts with useCount := 65535 }.advanceUse).entry
          101).map DirEntry.stamp = some 0 := by
  decide +kernel

/-! ## Witnesses: for each obligation with hypotheses, states and operands that meet them, clause by clause -/

theorem witness_StepTakesFrontCommand : { ready with pending := [.cut, .endLine] }.pending = .cut :: [.endLine] := rfl

theorem witness_IdleStepCountsOneMillisecond :
    ready.pending = [] ∧ ready.dueEvent = none ∧
      { ready with line := { ready.line with quiet := some 0 } }.dueEvent = some .quietPeriodEnd := by
  decide +kernel

theorem witness_FrameReadBack :
    Instr.wellFormed (.galleyClaim from9 id9) = true ∧
      frameOf (.galleyClaim from9 id9) = some (buildFrame .galleyClaim 9 0 [2, 41]) := by
  decide +kernel

/-- The head of a queue that may be sent, and an empty queue; stations at the ends of 1 to 30. -/
theorem witness_ContentionOpportunity :
    let d := (sendingOf .galleyClaim (.claim id9) .sending).desc
    let s := { ready with line := { ready.line with queue := [d] } }
    (s.line.flight = none ∧ 1 ≤ s.station.number ∧ s.station.number ≤ 30 ∧ s.line.quiet = none ∧
      s.line.holdOff = false ∧ s.line.queue = d :: []) ∧
      (ready.line.flight = none ∧ ready.line.queue = []) ∧
      ({ s with line := { s.line with holdOff := true } }.line.holdOff = true) ∧
      ¬(1 ≤ State.reset.station.number) ∧ State.reset.line.flight = none := by
  decide +kernel

/-- Lost to a class below, and within the class to station 6, the next above 5. -/
theorem witness_ArbitrationOrder :
    let f := sendingOf .galleyClaim (.claim id9) .arbitrating
    ((inFlight f ready).line.flight = some f ∧ f.stage = .arbitrating) ∧ f.withdrawn = false ∧
      (FrameKind.stationHalt.cls < f.desc.kind.cls) ∧
      (FrameKind.textCredit.cls = f.desc.kind.cls ∧ ready.station.number < 6) ∧
      (inFlight { f with withdrawn := true } ready).fonts.outbound.due = false := by
  decide +kernel

theorem witness_FrameLeavesLine :
    let own := fun kind owner => inFlight (sendingOf kind owner .sending) ready
    let ask := wanting (want 300 .asking none) (own .fontWanted .inbound)
    let load := { own .fontTake .inbound with
      fonts := { ready.fonts with inbound := { Inbound.rest with mode := .lineLoad } } }
    let offer := { own .fontOffer .outbound with
      fonts := { ready.fonts with outbound := { Outbound.rest with mode := .offered } } }
    ((inFlight { sendingOf .textCredit (.credit id9) .sending with disowned := true } ready).fonts.outbound.due = false) ∧
      (own .wordLearned .hyphenation).fonts.outbound.due = false ∧
      (ask.fonts.inService = some (want 300 .asking none) ∧ ask.fonts.outbound.due = false) ∧
      (load.fonts.inbound.mode = .lineLoad ∧ load.fonts.outbound.due = false) ∧
      (offer.fonts.outbound.mode = .offered ∧ offer.fonts.outbound.due = false) ∧
      (sendingOf .galleyClaim (.claim id9) .sending).stage = .sending := by
  decide +kernel

/-- A frame with a body of 2 bytes, a body length field of 260, and five equal bits in a frame that has not ended. -/
theorem witness_BitsOnTheLine :
    let f := buildFrame .galleyClaim 9 0 [2, 41]
    (f.body.length = f.length.toNat ∧ f.body.length ≤ 259) ∧ 259 < ({ f with length := 260 } : Frame).length.toNat ∧
      receive ([] ++ List.replicate 5 false) = .unfinished ∧
      (false ∈ [false] ∧ receive ([false] ++ List.replicate 5 true) = .unfinished) := by
  decide +kernel

/-- Six equal bits; a check that fails, kind codes 0 and 16, class 0 for a claim; the quiet period, another station's
address; stations 0 and 31. -/
theorem witness_FramesReachNoBlock :
    violates (List.replicate 6 false) = true ∧ receive claimBits = .whole (buildFrame .galleyClaim 9 0 [2, 41]) ∧
      (receive (stuff (frameBits { buildFrame .galleyClaim 9 0 [2, 41] with check := 0 })) =
        .whole { buildFrame .galleyClaim 9 0 [2, 41] with check := 0 }) ∧
      Frame.passes { buildFrame .galleyClaim 9 0 [2, 41] with check := 0 } = false ∧
      FrameKind.ofCode 0 = none ∧ FrameKind.ofCode 16 = none ∧
      (FrameKind.ofCode 2 = some .galleyClaim ∧ (0#2).toNat ≠ FrameKind.galleyClaim.cls) ∧
      (bodyOf (.galleyClaim from9 id9)).isSome = true ∧ State.reset.line.quiet ≠ none ∧
      ready.station.addressed .textSegment 6 = false ∧ ready.hears .stationReset own = true ∧
      (State.reset.station.number = 0 ∧
        { State.reset with station := { State.reset.station with number := 31 } }.station.number = 31) := by
  decide +kernel

/-- A claim of one byte has a body length that is not the table's. -/
theorem witness_FramesReachNoBlock_length :
    receive (stuff (frameBits (buildFrame .galleyClaim 9 0 [2]))) = .whole (buildFrame .galleyClaim 9 0 [2]) ∧
      FrameKind.ofCode (buildFrame .galleyClaim 9 0 [2]).kind.toNat = some .galleyClaim ∧
      ∀ h, readBody .galleyClaim h (buildFrame .galleyClaim 9 0 [2]).body = none :=
  ⟨by decide +kernel, by decide +kernel, fun _ => rfl⟩

/-- A queue of 15, of 16 with a report that can be displaced, and of 16 claims; all in order, all older than the next. -/
theorem witness_TransmitQueueBounded :
    let report := fun n => { (sendingOf .galleyReport (.report ⟨2, n⟩) .sending).desc with age := n }
    let claim := fun n => { (sendingOf .galleyClaim (.claim ⟨2, n⟩) .sending).desc with age := n }
    let full := { ready.line with queue := (List.range 16).map report, nextAge := 16 }
    let claims := { ready.line with queue := (List.range 16).map claim, nextAge := 16 }
    let room := { ready.line with queue := (List.range 15).map report, nextAge := 15 }
    (full.count = 16 ∧ claims.count = 16 ∧ room.count = 15) ∧ full.waitingReport (.claim id9) = none ∧
      full.queue.Pairwise (fun a b => a.precedes b = true) ∧ (∀ d ∈ full.queue, d.age < full.nextAge) ∧
      claims.queue.Pairwise (fun a b => a.precedes b = true) ∧ (∀ d ∈ claims.queue, d.age < claims.nextAge) ∧
      full.displaceable FrameKind.galleyClaim.cls = some (report 15) ∧
      claims.displaceable FrameKind.galleyClaim.cls = none := by
  decide +kernel

theorem witness_ReportReplacesWaitingReport :
    let old := (sendingOf .galleyReport (.report id9) .sending).desc
    let other := (sendingOf .galleyClaim (.claim id9) .sending).desc
    ({ ready.line with queue := [other] ++ old :: [] }.queue = [other] ++ old :: []) ∧ old.owner = .report id9 ∧
      ∀ d ∈ [other] ++ [], d.owner ≠ .report id9 := by
  decide +kernel

/-- A posting that can be taken, and one for each ground on which a posting is not. -/
theorem witness_PostingHeard :
    let s := ready
    (s.hears .galleyPosted from9 = true ∧ Priority.ofCode posting.priority = some .normal ∧
      GalleyMode.ofCode posting.mode = some .both ∧ Stock.ofCode posting.stock = some .paper ∧
      FontPolicy.ofCode posting.policy = some .hold ∧ Posting.wellPosted posting = true ∧
      s.canTake posting.id .both .paper = true) ∧
      Posting.wellPosted { posting with fonts := [] } = false ∧
      Posting.wellPosted { posting with id := ⟨31, 0⟩ } = false ∧
      (watched (watching .settled)).hears .galleyPosted from9 = true ∧
      ((watched (watching .settled)).galleys.findWatch posting.id).isSome = true ∧
      ((holding galley).galleys.find posting.id).isSome = true ∧
      { ready with transport := { ready.transport with stock := none } }.transport.stock = none ∧
      (∀ mode ∈ GalleyMode.ofCode posting.mode, ∀ stock ∈ Stock.ofCode 1, ready.canTake posting.id mode stock = false) := by
  decide +kernel

/-- A claim delay that expires with room and without, and an entry to remove. -/
theorem witness_WatchEntryTimers :
    let claim := fun n => { (sendingOf .galleyClaim (.claim ⟨3, n⟩) .sending).desc with age := n }
    let s := watched (watching .considering)
    let full := { s with line := { s.line with queue := (List.range 16).map claim, nextAge := 16 } }
    (s.galleys.findWatch id9 = some (watching .considering) ∧ 1 ≤ s.station.number ∧ s.station.number ≤ 30 ∧
      s.line.count < 16) ∧
      (full.galleys.findWatch id9 = some (watching .considering) ∧ 16 ≤ full.line.count ∧
        full.line.displaceable 1 = none) ∧
      (watched (watching .claimQueued)).galleys.findWatch id9 = some (watching .claimQueued) := by
  decide +kernel

theorem witness_ClaimHeard :
    let s := watched (watching .claimSent)
    (s.hears .galleyClaim own = true ∧ own.sender = s.station.number ∧
      s.galleys.findWatch id9 = some (watching .claimSent) ∧ s.galleys.table.length < 4 ∧
      s.galleys.find id9 = none) ∧
      (101 ∈ (watching .claimSent).fonts ∧ s.fonts.want 101 = none) ∧
      (s.hears .galleyClaim from9 = true ∧ from9.sender ≠ s.station.number) ∧
      (ready.hears .galleyClaim from9 = true ∧ ready.galleys.findWatch id9 = none) := by
  decide +kernel

/-- A cancel with no record being exposed, a text fault by a segment skipped, beyond the grant and of a wrong length, and
the text timeout; and a cancel that waits for its exposure, and a second one. -/
theorem witness_CancelsAndAborts :
    let s := holding galley
    let waits := { s with
      composer := { running with state := .waitText }, galleys := { s.galleys with textTimer := some 0 } }
    let e := exposing (exposure .runs)
    (s.galleys.find id9 = some galley ∧ galley.cancelPending = false) ∧
      (s.hears .galleyCancel to5 = true ∧ ∀ r ∈ s.queue, r.line.galley = id9 → r.exposing = false) ∧
      (s.hears .textSegment to5 = true ∧ galley.state ≠ .draining ∧ galley.compositionEnded = false ∧
        galley.nextSegment < 2 ∧ ([] : List CodeWord).length ≠ galley.unitsOf 1) ∧
      (waits.galleys.find id9 = some galley ∧ waits.galleys.textTimer.isSome = true ∧
        waits.composer.galley = some id9 ∧ waits.composer.waiting = none ∧ waits.composer.todo = []) ∧
      (e.galleys.find id9 = some galley ∧ e.hears .galleyCancel to5 = true ∧
        ∃ r ∈ e.queue, r.attached = true ∧ r.exposing = true ∧ r.line.galley = id9) ∧
      (holding { galley with cancelPending := true }).galleys.find id9 =
        some { galley with cancelPending := true } := by
  decide +kernel

theorem witness_CancelOfWatchedGalley :
    let s := watched (watching .claimQueued)
    (s.hears .galleyCancel from9 = true ∧ s.galleys.find id9 = none ∧
      s.galleys.findWatch id9 = some (watching .claimQueued) ∧ own.sender = s.station.number) ∧
      (ready.hears .galleyCancel from9 = true ∧ ready.galleys.find id9 = none ∧
        ready.galleys.findWatch id9 = none) := by
  decide +kernel

/-- The last segment, of the length its number calls for; a repeat, and a galley that takes no more text. -/
theorem witness_SegmentHeard :
    (holding galley).hears .textSegment to5 = true ∧ (holding galley).galleys.find id9 = some galley ∧
      (galley.cancelPending = false ∧ galley.state ≠ .draining ∧ galley.compositionEnded = false ∧
        1 = galley.nextSegment ∧ galley.granted = some 1 ∧
        (List.replicate 32 (0x0041 : CodeWord)).length =
          (if 1 + 1 = galley.expected then galley.length - 32 * (galley.expected - 1) else 32)) ∧
      0 < galley.nextSegment := by
  decide +kernel

theorem witness_ProofRequested :
    let waiting := { galley with state := .waiting }
    ((holding waiting).hears .proofWanted to5 = true ∧ (holding waiting).galleys.find id9 = some waiting ∧
      waiting.state = .waiting) ∧
      (∀ g ∈ (holding galley).galleys.find id9, g.state ≠ .waiting) ∧ id9.poster < 32 ∧
      (ready.hears .proofWanted to5 = true ∧ (GalleyId.mk 31 0).poster < 32 ∧
        ∀ g ∈ ready.galleys.find ⟨31, 0⟩, g.state ≠ .waiting) := by
  decide +kernel

theorem witness_ComposerTakesTheHead :
    let waiting := { galley with state := .waiting }
    (holding waiting).composer.state = .idle ∧ (holding waiting).galleys.head none = some id9 ∧
      (holding waiting).galleys.find id9 = some waiting := by
  decide +kernel

theorem witness_CreditStaysWithinTheTextStore :
    let s := holding { galley with length := 8192, expected := 256, nextSegment := 1, granted := some 255 }
    (s.galleys.table.map Galley.id).Nodup ∧
      (s.galleys.table.map fun g => g.segments.length + g.outstanding).sum ≤ 256 ∧
      ∀ g ∈ s.galleys.table, ∀ limit ∈ g.granted, limit < g.expected := by
  decide +kernel

/-- A unit of each command at an edge of its range. -/
theorem witness_SettingParameters :
    (before 0x83FF).taking (.font 1023) = true ∧ (before 0x8400).taking (.size 0) = true ∧
      (before 0xB411).taking (.track 17) = true ∧ (before 0x8805).taking (.measure 5) = true ∧
      (inLine 0x8AD1).taking (.measure 721) = true ∧ (before 0xA000).taking (.indent 0) = true ∧
      (inLine 0xA3FF).taking (.indent 1023) = true ∧ (before 0x9000).taking (.quad 0) = true ∧
      (before 0x9003).taking (.quad 3) = true ∧ (before 0xA800).taking (.hyphenate 0) = true ∧
      (before 0xAC00).taking (.ladder 0) = true := by
  decide +kernel

theorem witness_RecordParameters :
    (before 0x8E41).taking (.lead 577) = true ∧ (before 0xA6D1).taking (.offset 721) = true ∧
      (before 0xBC02).taking (.reverse 2) = true ∧ (before 0xD405).taking (.density 5) = true ∧
      (before 0xB029).taking (.letterspace 41) = true ∧ (before 0xC3FF).taking (.advance 1023) = true ∧
      (before 0xC400).taking (.back 0) = true ∧ (before 0xC800).taking .cut = true := by
  decide +kernel

theorem witness_UnitsWithinAWord :
    (before 0x001F).taking (.ignoredUnit 0x001F) = true ∧ (before 0x9401).taking (.fixedSpace 1) = true ∧
      (inLine 0x9403).taking (.fixedSpace 3) = true ∧ (inLine 0xB800).taking .softHyphen = true ∧
      (before 0x9401).composer.params.learn = none ∧ (inLine 0xB800).composer.params.learn = none := by
  decide +kernel

/-- LEARN 1; a letter at 23 and at 24 letters held, another character, a fixed space and a soft hyphen in the sequence. -/
theorem witness_LearnSequence :
    (before 0xCC01).taking (.learn 1) = true ∧
      (learning 0x0041 (List.replicate 23 97)).taking (.characterUnit 65) = true ∧
      (learning 0x0041 (List.replicate 24 97)).taking (.characterUnit 65) = true ∧
      (learning 0x0020 [97]).taking (.characterUnit 32) = true ∧
      (learning 0x9402 [97]).taking (.fixedSpace 2) = true ∧ (learning 0xB800 [97]).taking .softHyphen = true ∧
      ((learning 0x0041 [97]).composer.params.learn).isSome = true := by
  decide +kernel

/-- The classes of characters, spaces, line ends and the galley end, each about to be taken. -/
theorem witness_CharacterSet :
    let s := withEntry (resident 101) { before 0x0041 with composer := { running with params := Params.start 101 } }
    (s.taking (.characterUnit 65) = true ∧ s.composer.params.learn = none ∧
      s.fonts.atLeastMetrics s.composer.params.font = true ∧
      s.fonts.metricsOf s.composer.params.font = some metrics) ∧
      (metrics.width 65 = some 22 ∧ boxesChars s.composer.word.boxes < 160 ∧
        (fontsOf s.composer.word.boxes).length < 8) ∧
      { metrics with widths := [] }.width 65 = none := by
  decide +kernel

/-- The wait, HOLD, and SUBSTITUTE with the fallback at hand. -/
theorem witness_CharacterWithoutItsFont :
    let s := { before 0x0041 with composer := { running with params := Params.start 230 } }
    let g := { galley with segments := [List.replicate 32 0x0041] }
    let lost := wanting (want 230 .unavailable (some 10000)) s
    let sub := { lost with galleys := { lost.galleys with table := [{ g with policy := .substitute }] } }
    (s.taking (.characterUnit 65) = true ∧ s.composer.params.learn = none ∧ s.workingGalley = some g ∧
      s.fonts.atLeastMetrics s.composer.params.font = false) ∧
      (s.fonts.want s.composer.params.font = none ∧ s.fonts.wants.length < 16) ∧
      (lost.taking (.characterUnit 65) = true ∧ lost.workingGalley = some g ∧
        lost.fonts.want 230 = some (want 230 .unavailable (some 10000)) ∧ g.policy = .hold ∧
        g.state = .composing) ∧
      ((withEntry (resident 101) sub).taking (.characterUnit 65) = true ∧
        (withEntry (resident 101) sub).workingGalley = some { g with policy := .substitute } ∧
        (withEntry (resident 101) sub).fonts.atLeastMetrics 101 = true ∧
        (withEntry (resident 101) sub).fonts.metricsOf 101 = some metrics ∧ metrics.width 65 = some 22 ∧
        (withEntry (resident 101) sub).fonts.atLeastMetrics 230 = false) := by
  decide +kernel

theorem witness_InterwordSpace :
    let s := { before 0x0020 with composer := { running with line := lineOf [rain] } }
    s.taking (.characterUnit 32) = true ∧ s.composer.params.learn = none ∧ s.composer.word = Word.empty ∧
      (before 0x0020).taking (.characterUnit 32) = true := by
  decide +kernel

theorem witness_LineAndParagraphEnds :
    let s := { before 0x9800 with composer := { running with line := lineOf [rain] } }
    (s.taking .endLine = true ∧ s.workingGalley.isSome = true ∧ s.composer.word.boxes = [] ∧ s.queue.length < 32) ∧
      ((before 0x9C00).taking .endPara = true ∧ (before 0x9C00).composer.word.boxes = []) := by
  decide +kernel

/-- A galley of mode FILM whose END GALLEY stands in its text, and one whose text is at its end. -/
theorem witness_GalleyEnds :
    let ended := { holding { galley with segments := [], consumed := 64 } with composer := running }
    ((before 0xD800).taking .endGalley = true ∧ (before 0xD800).workingGalley.isSome = true ∧
      (before 0xD800).composer.word.boxes = [] ∧ (before 0xD800).composer.line.items = [] ∧
      (before 0xD800).composer.params.cut = false) ∧ ended.taking .endGalley = true := by
  decide +kernel

/-- A line with glues, one without that fits, and one without that fills its measure exactly. -/
theorem witness_JustifiedLineFillsTheMeasure :
    (lineOf [rain, isWord, sent]).glues ≠ [] ∧
      ((lineOf [rain]).glues = [] ∧ (lineOf [rain]).natural ≤ 880 ∧
        (justify (lineOf [rain]) 313 0).flags.loose = false ∧ (justify (lineOf [rain]) 880 0).flags.loose = true) ∧
      (lineOf [rain]).natural = 313 := by
  decide +kernel

theorem witness_LineSetByQuad :
    ((860 : Nat) : Int) - ((lineOf [rain, isWord, sent]).natural : Int) < 0 ∧
      (0 : Int) ≤ ((867 : Nat) : Int) - ((lineOf [rain, isWord, sent]).natural : Int) := by
  decide +kernel

/-- An empty line, and a line that does not take the word, so that a record is offered. -/
theorem witness_BreaksAndRuns :
    let c := { running with line := lineOf [rain, isWord], word := { Word.empty with boxes := tenants } }
    ((c.line.items ≠ [] → c.line.boxes ≠ []) ∧ (running.line.items ≠ [] → running.line.boxes ≠ [])) ∧
      (boxesWidth running.word.boxes ≤ running.params.available ∧
        { c with word := { Word.empty with boxes := isWord } }.testBase + boxesWidth isWord ≤ c.params.available ∧
        c.line.chars + boxesChars isWord ≤ 160 ∧ (fontsOf (c.line.boxes ++ isWord)).length ≤ 8) ∧
      ({ c with params := { c.params with measure := 880, firstLine := false } }.testWord ⟨[], 0⟩ ready.fonts
          galley).todo.length = 2 := by
  decide +kernel

theorem witness_HyphenReply :
    let u : Hyphenation :=
      { entries := [{ word := core "tenants", never := true, points := [], origin := .here, stamp := 0 }],
        ageCount := 1 }
    (2 ∈ u.points ([box 97 60, box 45 60] ++ tenants) []) ∧ 2 ∈ rulePoints (core "tenants") ∧
      (foldedCore tenants = some (core "tenants") ∧ 2 ≤ (core "tenants").length ∧ (core "tenants").length ≤ 24 ∧
        (u.find (core "tenants")).isSome = true ∧ ∀ e ∈ u.find (core "tenants"), e.points = []) := by
  decide +kernel

/-- A word of 2 letters, one of 1, a sequence not open, and a full dictionary. -/
theorem witness_LearnedWord :
    (learning 0xD000 (core "re")).taking .endLearn = true ∧
      (LearnWord.handed { never := false, letters := core "re", points := [], valid := true }).isSome = true ∧
      (learning 0xD000 (core "r")).taking .endLearn = true ∧
      (learning 0xD000 (core "r")).composer.params.learn.bind LearnWord.handed = none ∧
      (before 0xD000).taking .endLearn = true ∧
      ((learning 0xD000 (core "re")).station.takesPart = true ∧ (learning 0xD000 (core "re")).line.count ≤ 4) := by
  decide +kernel

/-- A heard entry of the dictionary, and one taught here. -/
def entryOf (word : List Nat) (origin : Origin) (stamp : Nat) : DictEntry :=
  { word := word, never := false, points := [], origin := origin, stamp := stamp }

theorem witness_HeardWord :
    let body := wordLearnedBody false (core "record") [2]
    let knows := fun origin => { ready with hyphenation := ⟨[entryOf (core "record") origin 0], 1⟩ }
    (ready.hears .wordLearned from9 = true ∧ readWord body = some (false, core "record", [2]) ∧
      from9.sender ≠ ready.station.number) ∧ readWord [0] = none ∧ own.sender = ready.station.number ∧
      (∃ e ∈ (knows .here).hyphenation.find (core "record"), e.origin = .here) ∧
      (∃ e ∈ (knows (.heard 17)).hyphenation.find (core "record"), e.origin ≠ .here) ∧
      (ready.hyphenation.find (core "record") = none ∧ ready.hyphenation.entries.length < 400) := by
  decide +kernel

/-- 400 entries, one of them heard, and 400 taught here. -/
theorem witness_HeardWordInAFullDictionary :
    let word := fun n => [97, 97 + n / 20, 97 + n % 20]
    let heard := { ready with
      hyphenation := ⟨(List.range 400).map fun n => entryOf (word n) (if n = 7 then .heard 9 else .here) n, 400⟩ }
    let taught := { ready with hyphenation := ⟨(List.range 400).map fun n => entryOf (word n) .here n, 400⟩ }
    (heard.hears .wordLearned from9 = true ∧ heard.hyphenation.entries.length = 400 ∧
      heard.hyphenation.find (core "record") = none ∧
      (heard.hyphenation.entries.filter fun e => e.origin ≠ .here) = [entryOf (word 7) (.heard 9) 7]) ∧
      (taught.hyphenation.entries.length = 400 ∧ taught.hyphenation.find (core "record") = none ∧
        ∀ e ∈ taught.hyphenation.entries, e.origin = .here) := by
  decide +kernel

/-- The words of that dictionary are all different. -/
theorem witness_HeardWordInAFullDictionary_distinct :
    (((List.range 400).map fun n =>
        entryOf [97, 97 + n / 20, 97 + n % 20] (if n = 7 then .heard 9 else .here) n).map DictEntry.word).Nodup := by
  rw [List.map_map]
  refine List.Nodup.map (fun a b h => ?_) List.nodup_range
  simp only [Function.comp, entryOf, List.cons.injEq, and_true, true_and] at h
  omega

/-- A font being loaded, its second block awaited: from the cartridge, and from station 9. -/
def loadingEntry : DirEntry := { resident 300 with state := .loading, present := 1, metrics := none }

def loadingFrom (mode : InboundMode) : State :=
  let s := wanting (want 300 .loading none) (withEntry loadingEntry ready)
  { s with
    fonts :=
      { s.fonts with
        inbound := { Inbound.rest with mode := mode, font := 300, lender := 9, next := 1, total := 3, stall := some 200 } } }

/-- A heard header of station 9 addressed to station 5. -/
def block9 : Header := ⟨9, 5⟩

theorem witness_BlockStored :
    (Memory.wf [(3, (7 : Byte))] ∧ (List.replicate 256 (1 : Byte)).length = 256) ∧
      ((loadingFrom .cartLoad).fonts.entry 300 = some loadingEntry ∧
        (loadingFrom .cartLoad).fonts.inbound.mode = .cartLoad) ∧
      ((loadingFrom .lineLoad).fonts.entry 300 = some loadingEntry ∧
        (loadingFrom .lineLoad).hears .fontBlock block9 = true ∧
        block9.sender = (loadingFrom .lineLoad).fonts.inbound.lender) := by
  decide +kernel

/-- Block 0 repeated, block 2 too early, a block of station 5, and the stall timer. -/
theorem witness_LineLoadBroken :
    let s := loadingFrom .lineLoad
    (s.fonts.inbound.mode = .lineLoad ∧ s.fonts.want s.fonts.inbound.font = some (want 300 .loading none) ∧
      s.hears .fontBlock block9 = true ∧ block9.sender = s.fonts.inbound.lender) ∧ 0 < s.fonts.inbound.next ∧
      s.fonts.inbound.next < 2 ∧ own.sender ≠ s.fonts.inbound.lender ∧ s.fonts.inbound.stall.isSome = true ∧
      (want 300 .loading none).attempts + 1 < 3 := by
  decide +kernel

/-- A font of the cartridge with room for it and with none, and a font for the line. -/
theorem witness_EntryTakenIntoService :
    let s := wanting (want 300 .waiting none) ready
    let c : CatalogEntry := { font := 300, total := 3, lendable := true }
    let cart := { s with fonts := { s.fonts with slot := .present, catalog := [c] } }
    let small := { cart with fonts := { cart.fonts with size := 2 } }
    (s.fonts.inbound.mode = .idle ∧ s.fonts.inService = none ∧ s.line.holds (fun d => d.owner == .inbound) = false ∧
      s.line.flight = none ∧ s.fonts.nextWaiting = some (want 300 .waiting none) ∧ s.fonts.want 300 = some (want 300 .waiting none) ∧
      s.fonts.cartridgeSource 300 = none ∧ s.station.takesPart = true ∧ s.line.count < 16) ∧
      (cart.fonts.cartridgeSource 300 = some c ∧ (cart.fonts.allocate 300 3 true).isSome = true ∧
        cart.fonts.inService = none) ∧
      (small.fonts.cartridgeSource 300 = some c ∧ small.fonts.allocate 300 3 true = none) := by
  decide +kernel

theorem witness_WantTimers :
    let w := fun state => want 300 state (some 0)
    let s := fun state => wanting (w state) ready
    (((s .unavailable).fonts.wants.map Want.font).Nodup ∧
      (s .unavailable).fonts.want 300 = some (w .unavailable) ∧ (w .unavailable).timer.isSome = true) ∧
      ((s .deferred).fonts.want 300 = some (w .deferred) ∧ (w .deferred).demand = true) ∧
      ((s .asking).fonts.want 300 = some (w .asking) ∧ (s .asking).fonts.inService = some (w .asking) ∧
        (s .asking).fonts.inbound.unsent = false ∧ (w .asking).attempts < 2) ∧
      ((wanting { w .asking with attempts := 2 } ready).fonts.inService = some { w .asking with attempts := 2 }) ∧
      { ready.fonts with inbound := { Inbound.rest with unsent := true } }.inbound.unsent = true := by
  decide +kernel

theorem witness_CartridgeInAndOut :
    let s := loadingFrom .cartLoad
    let present := { s with fonts := { s.fonts with slot := .present } }
    ready.fonts.slot = .empty ∧
      ({ ready with fonts := { ready.fonts with slot := .reading } }.fonts.slot = .reading) ∧
      (present.fonts.slot = .present ∧ present.fonts.inbound.mode = .cartLoad ∧
        present.fonts.want 300 = some (want 300 .loading none) ∧ (want 300 .loading none).state = .loading) ∧
      ((queued (record setLine)).fonts.inbound.mode ≠ .cartLoad ∧
        (queued (record setLine)).fonts.entry 101 = some (resident 101) ∧ (resident 101).state = .resident) := by
  decide +kernel

/-- A pinned entry, an entry loading, an allocation beside them, and a pin count that falls to 0. -/
theorem witness_PinsAndEviction :
    let s := withEntry { resident 101 with pins := 1 } ready
    (s.fonts.useCount < 65535 ∧ (s.fonts.allocate 300 3 true).isSome = true ∧ s.fonts.entry 300 = none) ∧
      (∃ e ∈ s.fonts.directory, e.state ≠ .free ∧ 0 < e.pins ∧ s.references e.font = 0) ∧
      (∃ e ∈ (loadingFrom .cartLoad).fonts.directory, e.state ≠ .free ∧ e.state ≠ .resident) := by
  decide +kernel

/-- An outbound channel with a loan of font 300 to station 17. -/
def lending (mode : OutboundMode) : State :=
  let s := withEntry (resident 300) ready
  { s with
    fonts :=
      { s.fonts with
        outbound := { mode := mode, font := 300, asker := 17, next := 0, timer := some 0, due := false } } }

theorem witness_AskAndOffer :
    let s := withEntry (resident 300) ready
    let closed := withEntry { resident 300 with lendable := false } ready
    (s.hears .fontWanted from9 = true ∧ 1 ≤ s.station.number ∧ s.station.number ≤ 30 ∧
      from9.sender ≠ s.station.number ∧ s.fonts.outbound.mode = .idle ∧ s.fonts.entry 300 = some (resident 300) ∧
      (resident 300).state = .resident ∧ (resident 300).lendable = true) ∧
      own.sender = s.station.number ∧ (lending .offered).fonts.outbound.mode ≠ .idle ∧
      ready.fonts.isResident 300 = false ∧ (∃ e ∈ closed.fonts.entry 300, e.lendable = false) ∧
      ((lending .offerPending).fonts.outbound.mode = .offerPending ∧ (lending .offerPending).station.takesPart = true ∧
        (lending .offerPending).line.count < 16 ∧
        (lending .offerPending).line.holds (fun d => d.owner == .outbound) = false) := by
  decide +kernel

theorem witness_OfferHeard :
    let s := wanting (want 300 .asking (some 50)) ready
    (s.hears .fontOffer from9 = true ∧ s.station.takesPart = true ∧ 5 = s.station.number ∧
      s.fonts.want 300 = some (want 300 .asking (some 50)) ∧ (∀ e ∈ s.fonts.entry 300, e.total = 3) ∧
      (s.fonts.allocate 300 3 true).isSome = true ∧ s.line.count < 16 ∧ s.fonts.outbound.mode = .idle) ∧
      (17 ≠ (lending .offerPending).station.number ∧ from9.sender ≠ (lending .offerPending).station.number ∧
        (lending .offerPending).fonts.outbound.mode = .offerPending ∧
        (lending .offerPending).fonts.outbound.font = 300 ∧ (lending .offerPending).fonts.outbound.asker = 17) ∧
      (17 ≠ ready.station.number ∧ ready.fonts.outbound.mode ≠ .offerPending) := by
  decide +kernel

/-- First blocks 0 and 2 of a font of 3 blocks, another lender, first block 1, and a take while SENDING. -/
theorem witness_TakeHeard :
    let h : Header := ⟨17, 0⟩
    let s := lending .offered
    (s.hears .fontTake h = true ∧ h.sender = s.fonts.outbound.asker ∧ s.fonts.outbound.mode = .offered ∧
      s.fonts.entry 300 = some (resident 300) ∧ 5 = s.station.number ∧ 2 < (resident 300).total ∧
      s.station.takesPart = true ∧ s.line.count < 16 ∧ s.line.holds (fun d => d.owner == .outbound) = false) ∧
      9 ≠ s.station.number ∧ ¬(1 = 0 ∨ 1 = 2) ∧ s.fonts.outbound.timer.isSome = true ∧
      (lending .sending).fonts.outbound.mode = .sending ∧ from9.sender ≠ s.fonts.outbound.asker := by
  decide +kernel

theorem witness_PowerOn :
    levels.supply = some (1, 0) ∧ (1, 864000) ∈ [(1, 864000), (2, 1728000), (3, 2592000)] ∧ levels.cartridge = true ∧
      { levels with supply := none, cartridge := false }.supply = none := by
  decide

/-- A RUNNING station with a galley composing and a record in the queue, a HALTED one, and each frame heard. -/
theorem witness_HaltAndRelease :
    let s := queued (record setLine)
    let halted := { s with station := { s.station with mode := .halted } }
    (s.hears .stationHalt to5 = true ∧ s.station.mode = .running ∧ (s.galleys.table.map Galley.id).Nodup) ∧
      (galley ∈ s.galleys.table ∧ galley.state = .composing ∧
        ∃ r ∈ s.queue, r.attached = true ∧ r.line.galley = galley.id ∧ (r.exposed && r.proofed) = false) ∧
      (halted.hears .stationHalt to5 = true ∧ halted.station.mode = .halted ∧
        halted.hears .stationRelease to5 = true ∧ s.hears .stationRelease to5 = true) ∧
      (∃ w ∈ (watched (watching .claimQueued)).galleys.watch, w.state = .claimQueued) := by
  decide +kernel

theorem witness_ResetHeard :
    let s := exposing (exposure .runs)
    s.hears .stationReset from9 = true ∧
      (inFlight (sendingOf .fontBlock .outbound .sending) s).hears .stationReset from9 = true ∧
      s.imaging.state = .exposing ∧ (∃ e ∈ s.fonts.entry 101, e.state = .resident) ∧
      { s.transport with state := .jammed }.state = .jammed := by
  decide +kernel

/-- A forward movement of 240, and a reverse of 240 into a section of 100. -/
theorem witness_ExposureBegins :
    let s := queued (record setLine)
    let back := { setLine with back := 480 }
    let deep := { queued (record back) with
      transport := { ready.transport with remaining := 863900, drawn := 100, depth := 100, takeUpHeld := 100 } }
    (s.exposureNext = some (record setLine) ∧ s.station.mode = .running ∧ s.imaging.state = .ready ∧
      (∀ f ∈ setLine.fonts, s.fonts.isResident f = true) ∧ s.transport.state = .idle ∧
      setLine.movement.toNat + 1440 ≤ s.transport.remaining ∧
      s.transport.takeUpHeld + setLine.movement.toNat + (if setLine.cutAfter then 1440 else 0) ≤ 2592000 ∧
      (∀ g ∈ s.galleys.find setLine.galley, g.cancelPending = false) ∧ setLine.movement = (240 : Nat)) ∧
      (deep.exposureNext = some (record back) ∧ back.movement = -((240 : Nat) : Int) ∧ 0 < deep.transport.depth ∧
        back.movement.toNat + 1440 ≤ deep.transport.remaining) ∧
      (setLine.resolve 0 = .forward 240 ∧ back.resolve 100 = .reverse 100 ∧ back.clamped 100 = true ∧
        back.resolve 240 = .reverse 240 ∧ back.clamped 240 = false) := by
  decide +kernel

theorem witness_WarmUpStandbyTurret :
    State.reset.imaging.state = .warming ∧ (ready.imaging.state = .ready ∧ ready.imaging.standby.isSome = true) ∧
      ready.exposureNext = none ∧ (queued (record setLine)).exposureNext.isSome = true ∧
      (ready.imaging.exposure = none ∧
        { ready.imaging with turret := .moving 0 3 120 }.turret = .moving 0 3 120 ∧
        State.reset.imaging.turret = .homing) := by
  decide +kernel

/-- The first flash of two, the last flash, and a background pass; each band's base at both ends of the clamp. -/
theorem witness_FlashesAndCut :
    let first := { exposure .runs with flash := some flash }
    let last := { exposure .runs with flash := some flash, char := 1 }
    let field : Background := { start := 0, stop := 3360, height := 200, intensity := 3, mask := setLine.runs }
    let pass := { exposure .background with field := some field }
    ((exposing first).exposingRecord = some { record setLine with exposing := true } ∧
      (exposing first).imaging.exposure = some first ∧ first.flash.isSome = true ∧
      ((setLine.runs[first.run]?).bind fun run => run.chars[first.char + 1]?) = some (97, 69) ∧
      (exposing first).imaging.turret = .standing (bandOf 20)) ∧
      (last.flash.isSome = true ∧ nextPosition setLine.runs last.run (last.char + 1) = none ∧
        setLine.cutAfter = true ∧ (exposing last).transport.state = .idle) ∧
      ((exposing pass).exposingRecord.isSome = true ∧ pass.field.isSome = true) ∧
      ((0, 3) ∈ [(0, 3), (1, 4), (2, 5), (3, 6)] ∧ ((3 : Nat) : Int) * (1 : Nat) + (-2) = 1 ∧
        ((3 : Nat) : Int) * (1 : Nat) + (-3) < 1 ∧ (15 : Int) < ((6 : Nat) : Int) * (2 : Nat) + 4) := by
  decide +kernel

/-- A seventh and an eighth trip, and a hold-off. -/
theorem witness_StrokeTrips :
    let m : Move := { kind := .forward, left := 240, phase := .stroke 40, ending := false }
    let s := moving .forward 240 (.stroke 40) (exposing (exposure .move))
    let sixth := { s with transport := { s.transport with trips := 6 } }
    let eighth := { s with transport := { s.transport with trips := 7 } }
    trippedSamples [true, true, true] = true ∧ (sixth.transport.move = some m ∧ m.ending = false ∧
      m.phase = .stroke 40 ∧ sixth.transport.trips < 7) ∧
      (eighth.transport.trips = 7 ∧ eighth.imaging.state = .exposing ∧ eighth.imaging.exposure.isSome = true ∧
        ∃ r ∈ eighth.exposingRecord, r.attached = true ∧ r.exposed = false ∧ r.line.needsExposure = true ∧
          eighth.galleys.find r.line.galley = some galley) ∧
      (galley.state = .composing ∧ galley.cancelPending = false) ∧
      (∃ m' ∈ (moving .forward 240 (.holdOff 10 40) ready).transport.move, m'.phase = .holdOff 10 40) := by
  decide +kernel

theorem witness_FilmMoves :
    completedSamples (List.replicate 8 false) = true ∧
      (moving .forward 240 (.stroke 40) ready).transport.move =
        some { kind := .forward, left := 240, phase := .stroke 40, ending := false } ∧
      (moving .leadOut 40 (.stroke 40) ready).transport.move =
        some { kind := .leadOut, left := 40, phase := .stroke 40, ending := false } ∧
      ((moving .forward 40 (.stroke 40) ready).imaging.exposure = none) ∧
      (moving .reverse 100 .reversing ready).transport.move =
        some { kind := .reverse, left := 100, phase := .reversing, ending := false } ∧
      (moving .leadOut 0 .knife (exposing (exposure .cut))).transport.move =
        some { kind := .leadOut, left := 0, phase := .knife, ending := false } ∧
      (∃ r ∈ (moving .leadOut 0 .knife (exposing (exposure .cut))).exposingRecord, r.attached = true) := by
  decide +kernel

/-- Length codes 1 and 3, codes 0 and 4, an empty transport, and removals at rest and in motion. -/
theorem witness_Cassettes :
    (ready.transport.state ≠ .moving ∧ ready.transport.state ≠ .cutting) ∧
      (3, 2592000) ∈ [(1, 864000), (2, 1728000), (3, 2592000)] ∧
      (State.reset.transport.state = .noCassette ∧ State.reset.transport.takeUpPresent = false) ∧
      { State.reset.transport with takeUpPresent := true }.takeUpPresent = true ∧
      (ready.transport.supplyPresent = true ∧ ready.transport.takeUpPresent = true) ∧
      (moving .forward 240 (.stroke 40) ready).transport.state = .moving ∧
      (moving .forward 240 (.stroke 40) ready).transport.supplyPresent = true := by
  decide +kernel

/-- A band being written, `rows` of its rows written. -/
def writing (rows : Nat) : State :=
  let s := queued { record setLine with rasterizing := true }
  { s with
    proofer :=
      { s.proofer with
        raster := some
          { kind := .text, runs := setLine.runs, offset := 0, measure := 3360, reverse := false, flags := Flags.none,
            rows := rows, timer := 1 } } }

theorem witness_Rasterizing :
    let s := queued (record setLine)
    (s.proofNext = some (record setLine) ∧ s.station.mode = .running ∧ s.proofer.raster = none ∧
      s.proofer.printer.state = .ready ∧ s.proofer.ring.length + 12 ≤ 192 ∧
      ∀ g ∈ s.galleys.find setLine.galley, g.cancelPending = false) ∧
      ((writing 10).proofer.raster.map Raster.rows = some 10 ∧ (writing 11).proofer.raster.map Raster.rows = some 11) ∧
      (∃ r ∈ (writing 11).queue.find? QueueRecord.rasterizing, r.attached = true) ∧
      ((0 : Nat) < 1024 ∧ (1023 : Nat) < 1024 ∧ setLine.kind = .text ∧ setLine.measure ≤ 14400) := by
  decide +kernel

theorem witness_Printing :
    let ring := fun rows => { ready with proofer := { ready.proofer with ring := rows } }
    let printing := fun state rows => { ready with
      proofer :=
        { ready.proofer with
          ring := rows
          printer := { ready.proofer.printer with state := state, row := some { dots := 1, inRing := true } } } }
    ((ring [1]).proofer.ring = 1 :: [] ∧ (ring [1]).proofer.printer.state = .ready ∧
      (ring [1]).proofer.printer.row = none) ∧
      ((printing .printing [1, 2]).proofer.ring = 1 :: [2] ∧ (printing .printing [1, 2]).proofer.printer.state = .printing ∧
        (printing .printing [1, 2]).proofer.printer.row = some { dots := 1, inRing := true }) ∧
      ((printing .printing [1]).proofer.ring = 1 :: []) ∧
      (printing .paperOut [1]).proofer.printer.state ≠ .printing := by
  decide +kernel

theorem witness_PrinterStates :
    let p := ready.proofer.printer
    (p.state = .ready ∧ p.idle.isSome = true ∧ p.state ≠ .paperOut) ∧
      { p with state := .settling, wakeHeld := true }.state = .settling ∧
      { p with state := .waking }.state = .waking ∧ State.reset.proofer.printer.state = .paperOut ∧
      (let out := { p with state := .paperOut, abandonment := some 0 }
       let s := { queued (record setLine) with proofer := { ready.proofer with printer := out } }
       s.proofer.printer.state = .paperOut ∧ s.proofer.printer.abandonment.isSome = true ∧
         s.composer.waiting = none ∧ s.composer.todo = []) := by
  decide +kernel

/-- The invariants hold of a state with work in hand, and its step gives a next state. -/
theorem witness_StepKeepsCapacities : State.WithinCapacities (writing 10) := by
  refine ⟨?_, ?_, ?_, ?_, ?_, ?_, ?_, ?_, ?_⟩
  case refine_9 =>
    change 10 < Config.bandRows ∧ (writing 10).proofer.ring.length + (Config.bandRows - 10) ≤ Config.ringRows
    decide +kernel
  all_goals decide +kernel

theorem witness_StepKeepsMemoryCanonical :
    State.MemoryCanonical { ready with fonts := { ready.fonts with memory := [(3, 7), (4, 1)] } } := by
  unfold State.MemoryCanonical
  decide +kernel

theorem witness_StepKeepsFilmSound :
    State.FilmSound (moving .forward 240 (.stroke 40) (exposing (exposure .move))) := by
  constructor <;> decide +kernel

/-! ## Witnesses, clause by clause, of the statements with more than one case -/

/-- A timer at 0 and one that runs; a turret under way, a hold-off and a printer's idle timer. -/
theorem witness_IdleStepCountsOneMillisecond_timers :
    let s := moving .forward 240 (.holdOff 10 40)
      { watched (watching .considering) with imaging := { ready.imaging with turret := .moving 0 3 120 } }
    s.pending = [] ∧ s.dueEvent = none ∧ (s.galleys.watch.map WatchEntry.expiry = [2000]) := by
  decide +kernel

/-- A report that lost finds none waiting, and finds a younger one; a withdrawn frame of another channel. -/
theorem witness_ArbitrationOrder_reports :
    let f := sendingOf .galleyReport (.report id9) .arbitrating
    let younger := { f.desc with age := 7 }
    let s := inFlight f { ready with line := { ready.line with queue := [younger] } }
    (s.line.flight = some f ∧ f.withdrawn = false ∧ s.line.waitingReport f.desc.owner = some younger) ∧
      (inFlight f ready).line.waitingReport f.desc.owner = none ∧ f.desc.owner ≠ .outbound ∧
      (lending .sending).fonts.outbound.due = false := by
  decide +kernel

/-- A FONT WANTED that leaves with nothing due, with a TAKE and with an ask due, and withdrawn; a TEXT CREDIT that leaves. -/
theorem witness_FrameLeavesLine_asks :
    let w := want 300 .asking none
    let ask := wanting w (inFlight (sendingOf .fontWanted .inbound .sending) ready)
    let due := inFlight (sendingOf .fontWanted .inbound .sending)
      { ready with fonts := { ready.fonts with inbound := { Inbound.rest with takeDue := true } } }
    let again := { ask with fonts := { ask.fonts with inbound := { Inbound.rest with askDue := true } } }
    let dropped := inFlight { sendingOf .fontWanted .inbound .sending with withdrawn := true } ready
    let credit := inFlight (sendingOf .textCredit (.credit id9) .sending) (holding galley)
    (ask.fonts.inService = some w ∧ w.state = .asking ∧ ask.fonts.inbound.takeDue = false ∧
      ask.fonts.inbound.askDue = false) ∧
      (again.fonts.inbound.askDue = true ∧ again.fonts.inService = some w ∧ again.station.takesPart = true ∧
        again.line.queue.length < 16) ∧
      (dropped.fonts.inService = none ∧ dropped.fonts.inbound = Inbound.rest) ∧
      (due.fonts.inbound.takeDue = true ∧ due.station.takesPart = true ∧ due.line.queue.length < 16 ∧
        due.fonts.outbound.due = false) ∧
      (∃ f, credit.line.flight = some f ∧ f.stage = .sending ∧ f.disowned = false ∧ f.desc.owner = .credit id9) := by
  refine ⟨by decide +kernel, by decide +kernel, by decide +kernel, by decide +kernel, _, rfl, by decide +kernel⟩

/-- Block 1 of three leaves, the last leaves, and another frame leaves while block 0 is due, with 15 frames waiting. -/
theorem witness_FrameLeavesLine_blocks :
    let claim := fun n => { (sendingOf .galleyClaim (.claim ⟨3, n⟩) .sending).desc with age := n }
    let s := fun (next : Nat) (due : Bool) (f : Flight) => inFlight f
      { lending .sending with
        line := { ready.line with queue := (List.range 15).map claim, nextAge := 15 }
        fonts :=
          { (lending .sending).fonts with
            outbound := { (lending .sending).fonts.outbound with next := next, due := due } } }
    let block := sendingOf .fontBlock .outbound .sending
    let second := s 1 false block
    let last := s 2 false block
    let other := s 0 true (sendingOf .wordLearned .hyphenation .sending)
    (second.fonts.outbound.mode = .sending ∧ second.fonts.entry second.fonts.outbound.font = some (resident 300) ∧
      second.station.takesPart = true ∧ second.line.queue.length < 16 ∧
      (∀ d ∈ second.line.queue, d.owner ≠ .outbound) ∧
      second.fonts.outbound.next + 1 < (resident 300).total) ∧
      (resident 300).total ≤ last.fonts.outbound.next + 1 ∧
      (other.fonts.outbound.due = true ∧ (∀ f ∈ other.line.flight, f.desc.owner = .hyphenation)) := by
  decide +kernel

/-- A galley COMPOSING, with cancel pending, SUSPENDED, done with, cancelled, and with unproofed records. -/
theorem witness_ReportReplacesWaitingReport_galley :
    let s := holding galley
    let held := holding { galley with state := .suspended, suspension := some .film }
    s.galleys.find id9 = some galley ∧ id9.poster < 32 ∧ galley.state = .composing ∧ galley.cancelPending = false ∧
      (holding { galley with cancelPending := true }).galleys.find id9 = some { galley with cancelPending := true } ∧
      (held.galleys.find id9 = some { galley with state := .suspended, suspension := some .film } ∧
        galley.compositionEnded = false) ∧
      (s.composer.galley ≠ some id9 ∧ s.composer.waiting = none) ∧
      ((∃ r ∈ (queued (record setLine)).queue, r.unproofed = true) ∧
        ∀ r ∈ (queued (record setLine)).queue, r.unproofed = true → r.line.galley = id9) := by
  decide +kernel

/-- A claim of the station's own, a composer at rest, and a halt, with 4 frames waiting; and an id of poster 32. -/
theorem witness_ReportReplacesWaitingReport_queued :
    let claim := fun n => { (sendingOf .galleyClaim (.claim ⟨3, n⟩) .sending).desc with age := n }
    let four := fun (s : State) =>
      { s with line := { s.line with queue := (List.range 4).map claim, nextAge := 4 } }
    let claimed := four (watched (watching .claimSent))
    let waits := four (holding { galley with state := .waiting })
    let composing := four (queued (record setLine))
    (claimed.station.takesPart = true ∧ claimed.line.count ≤ 4 ∧ claimed.hears .galleyClaim own = true ∧
      own.sender = claimed.station.number ∧ claimed.galleys.findWatch id9 = some (watching .claimSent) ∧
      claimed.galleys.table.length < 4 ∧ claimed.galleys.find id9 = none) ∧
      (waits.composer.state = .idle ∧ waits.galleys.head none = some id9 ∧
        (waits.galleys.table.map Galley.id).Nodup ∧ waits.galleys.find id9 = some { galley with state := .waiting }) ∧
      (composing.hears .stationHalt to5 = true ∧ composing.station.mode = .running ∧
        composing.galleys.find id9 = some galley ∧ galley.cancelPending = false ∧
        ∃ r ∈ composing.queue, r.attached = true ∧ r.line.galley = id9 ∧ (r.exposed && r.proofed) = false) ∧
      (ready.hears .proofWanted to5 = true ∧ 32 ≤ (GalleyId.mk 32 0).poster ∧
        ready.galleys.find ⟨32, 0⟩ = none) := by
  decide +kernel

/-- A station reset heard, with no frame in flight, and a line that is treated as busy. -/
theorem witness_FramesReachNoBlock_resync :
    ready.hears .stationReset own = true ∧ ready.line.flight = none ∧
      { ready with line := { ready.line with resync := true } }.hears .galleyClaim from9 = false ∧
      ready.hears .galleyClaim from9 = true := by
  decide +kernel

/-- The head with nothing granted, with a need of 8 and with the text store committed; the galley beside no head, with all
but 32 slots; a full queue with nothing to displace; and the grounds on which a galley is passed over. -/
theorem witness_CreditStaysWithinTheTextStore_grants :
    let fresh := { galley with state := .waiting, segments := [], nextSegment := 0, granted := none }
    let long := { fresh with length := 8192, expected := 256 }
    let most := { long with granted := some 239 }
    let sum := fun (s : State) => (s.galleys.table.map fun g => g.segments.length + g.outstanding).sum
    let claim := fun n => { (sendingOf .galleyClaim (.claim ⟨3, n⟩) .sending).desc with age := n }
    let full := { holding fresh with
      line := { ready.line with queue := (List.range 16).map claim, nextAge := 16 } }
    let away := holding { long with state := .suspended }
    ((holding fresh).galleys.head none = some id9 ∧ min fresh.expected (256 - sum (holding fresh)) = 2) ∧
      ((holding most).galleys.head none = some id9 ∧ min (256 - 1 - 239) (256 - sum (holding most)) = 16) ∧
      (away.galleys.head away.composer.galley ≠ some id9 ∧ away.galleys.table = [{ long with state := .suspended }] ∧
        min 256 (256 - sum away - 32) = 224) ∧
      (let spent := holding { long with granted := some 255, creditUnsent := true }
       256 - sum spent = 0 ∧ 0 < 255 + 1 + 0 ∧ spent.line.holds (fun d => d.owner == .credit id9) = false) ∧
      (full.line.displaceable FrameKind.textCredit.cls = none ∧ 16 ≤ full.line.count) ∧
      (holding { galley with state := .draining }).galleys.find id9 = some { galley with state := .draining } ∧
      (inFlight (sendingOf .textCredit (.credit id9) .sending) (holding galley)).line.holds
        (fun d => d.owner == .credit id9) = true := by
  decide +kernel

/-- A font wanted by no demand and asked for, one DEFERRED with no timer; a full list whose youngest entry can be
replaced, and one of demands only. -/
theorem witness_CharacterWithoutItsFont_listed :
    let s := { before 0x0041 with composer := { running with params := Params.start 230 } }
    let quiet := fun font state => { want font state none with demand := false }
    let list := fun ws => { s with fonts := { s.fonts with wants := ws } }
    let demands := (List.range 15).map fun n => want (400 + n) .waiting none
    let room := list (demands ++ quiet 300 .asking :: [])
    let closed := list (demands ++ want 300 .waiting none :: [])
    (s.taking (.characterUnit 65) = true ∧ s.fonts.atLeastMetrics s.composer.params.font = false) ∧
      ((list [quiet 230 .asking]).fonts.wants = [] ++ quiet 230 .asking :: [] ∧
        (quiet 230 .asking).state ≠ .unavailable) ∧
      ((quiet 230 .deferred).state = .deferred ∧ (quiet 230 .deferred).timer = none) ∧
      (room.fonts.want 230 = none ∧ 16 ≤ room.fonts.wants.length ∧ (room.fonts.wants.map Want.font).Nodup ∧
        (quiet 300 .asking).demand = false ∧ (quiet 300 .asking).state = .asking ∧ room.fonts.refused = []) ∧
      (closed.fonts.want 230 = none ∧ 16 ≤ closed.fonts.wants.length ∧
        ∀ w ∈ closed.fonts.wants, w.demand = true ∨ w.state = .loading) ∧
      (let lost := list [quiet 230 .unavailable]
       lost.fonts.want 230 = some (quiet 230 .unavailable) ∧ lost.exposureNext = none) := by
  decide +kernel

/-- A waiting space and none behind placed words, a line with no character, and a word on an empty line and behind one. -/
theorem witness_InterwordSpace_glue :
    let s := withEntry (resident 101) (inLine 0x0020)
    let c := s.composer
    let alone := { s with composer := { c with line := LineBuild.empty } }
    let blank := { s with
      composer := { c with line := { LineBuild.empty with items := [.box (.fixed 50) true] }, word := Word.empty } }
    (s.taking (.characterUnit 32) = true ∧ c.params.learn = none ∧ c.word.boxes ≠ [] ∧ c.line.items ≠ [] ∧
      c.testBase + boxesWidth c.word.boxes ≤ c.params.available ∧
      c.line.chars + boxesChars c.word.boxes ≤ 160 ∧ (fontsOf (c.line.boxes ++ c.word.boxes)).length ≤ 8) ∧
      (c.line.boxes ++ c.word.boxes = (rain ++ [box 105 47]) ++ .char 115 101 20 75 :: [] ∧
        s.fonts.metricsOf 101 = some metrics) ∧
      (alone.taking (.characterUnit 32) = true ∧ alone.composer.line.items = [] ∧
        boxesWidth alone.composer.word.boxes ≤ alone.composer.params.available) ∧
      (blank.taking (.characterUnit 32) = true ∧ blank.composer.line.items ≠ [] ∧ blank.composer.space = none ∧
        ∀ b ∈ blank.composer.line.boxes, b.isChar = false) ∧
      { c with space := some glue }.space.isSome = true := by
  decide +kernel

/-- END LINE into a queue of 31, and into a full one whose head has still to be exposed. -/
theorem witness_LineAndParagraphEnds_queue :
    let s := { before 0x9800 with composer := { running with line := lineOf [rain] } }
    let room := { s with queue := List.replicate 31 (record setLine) }
    let full := { s with queue := List.replicate 32 (record setLine) }
    (room.taking .endLine = true ∧ room.workingGalley.isSome = true ∧ room.composer.word.boxes = [] ∧
      room.queue.length < 32 ∧ (∀ g ∈ room.workingGalley, g.mode = .both)) ∧
      (full.taking .endLine = true ∧ 32 ≤ full.queue.length ∧ (∀ q ∈ full.queue, q.attached = true) ∧
        full.queue.head? = some (record setLine) ∧ (record setLine).exposed = false ∧
        (record setLine).line.needsExposure = true) ∧
      s.fonts.useCount < 65535 := by
  decide +kernel

/-- END GALLEY with a line in progress, and with a cut flag on an empty line, into a queue of 31. -/
theorem witness_GalleyEnds_line :
    let line := { before 0xD800 with
      composer := { running with line := lineOf [rain] }, queue := List.replicate 31 (record setLine) }
    let cut := { before 0xD800 with composer := { running with params := { running.params with cut := true } } }
    (line.taking .endGalley = true ∧ line.composer.word.boxes = [] ∧ line.queue.length < 32 ∧
      line.composer.line.boxes ≠ [] ∧ (∀ g ∈ line.workingGalley, g.mode = .both)) ∧
      (cut.taking .endGalley = true ∧ cut.composer.line.items = [] ∧ cut.composer.params.cut = true) ∧
      (before 0xD800).markNotNeeded = before 0xD800 ∧ (before 0xD800).departure.isNone = true := by
  decide +kernel

/-- A record that needs no exposure behind one that is exposed and behind one that is not. -/
theorem witness_GalleyEnds_marks :
    let plain := record { setLine with needsExposure := false, needsProof := false }
    let done := { record setLine with exposed := true, proofed := true }
    ({ ready with queue := [done] ++ plain :: [] }.queue = [done] ++ plain :: []) ∧
      (plain.attached = true ∧ plain.line.needsExposure = false ∧ plain.line.needsProof = false) ∧
      (∀ q ∈ [done], q.attached = true → q.line.needsExposure = true → q.exposed = true) ∧
      ∃ q ∈ [record setLine], q.attached = true ∧ q.line.needsExposure = true ∧ q.exposed = false := by
  decide +kernel

/-- The head with one mark and with both; a record that waits; the last record of a galley DRAINING, of one SUSPENDED with
its composition ended, and of one with a record left. -/
theorem witness_GalleyEnds_leave :
    let done := { record setLine with exposed := true, proofed := true }
    let s := queued done
    let draining := { galley with state := .draining, compositionEnded := true }
    let held := { galley with state := .suspended, compositionEnded := true }
    let ended := fun g => { s with galleys := { s.galleys with table := [g] } }
    let waits := { s with composer := { Composer.rest with state := .waitQueue, waiting := some setLine } }
    (s.queue = done :: [] ∧ (∀ q ∈ s.queue, q.attached = true) ∧ done.exposed = true ∧ done.proofed = true) ∧
      ({ done with proofed := false }.exposed && { done with proofed := false }.proofed) = false ∧
      (waits.composer.state = .waitQueue ∧ waits.composer.waiting = some setLine) ∧
      (s.composer.waiting = none ∧ s.galleys.find id9 = some galley ∧ galley.state ≠ .draining ∧
        galley.cancelPending = false ∧ s.composer.galley ≠ some id9) ∧
      ((ended draining).galleys.find id9 = some draining ∧ (ended held).galleys.find id9 = some held ∧
        s.station.takesPart = true ∧ id9.poster < 32 ∧ s.line.count ≤ 4 ∧ s.galleys.table.length ≤ 4) ∧
      ∃ q ∈ [record setLine], q.line.galley = done.line.galley := by
  decide +kernel

/-- A word of eight fonts that takes one of them, and one of seven that takes an eighth. -/
theorem witness_CharacterSet_fonts :
    let of := fun n => (List.range n).map fun i => Box.char 97 (94 + i) 20 69
    ((fontsOf (of 8)).length = 8 ∧ 101 ∈ fontsOf (of 8)) ∧ (fontsOf (of 7)).length < 8 ∧
      boxesChars (of 8) < 160 := by
  decide +kernel

/-- An entry with points, soft hyphens without an entry, and cores of five letters and of four without either. -/
theorem witness_HyphenReply_order :
    let none : Hyphenation := ⟨[], 0⟩
    let u : Hyphenation := ⟨[{ entryOf (core "tenants") .here 0 with points := [3] }], 1⟩
    (foldedCore ([box 40 60] ++ tenants) = some (core "tenants") ∧ u.points ([box 40 60] ++ tenants) [2] = [4]) ∧
      (u.find (core "tenants")).map DictEntry.points = some [3] ∧
      (none.find (core "tenants") = Option.none ∧ none.points tenants [4] = [4] ∧ ∃ p ∈ [4], p < tenants.length) ∧
      (foldedCore (tenants.take 5) = some (core "tenan") ∧ 5 ≤ (core "tenan").length) ∧
      (foldedCore (tenants.take 4) = some (core "tena") ∧ (core "tena").length < 5) := by
  decide +kernel

/-- A cartridge of 17 valid fonts, and one with a font listed twice. -/
theorem witness_CartridgeInAndOut_fonts :
    let c := fun n : Nat => ({ font := n, total := 3, lendable := true } : CatalogEntry)
    let all := (List.range 17).map fun n => c (n + 1)
    all = (all.take 15) ++ c 16 :: [c 17] ∧ (∀ b ∈ all.take 15, b.font = (c 16).font → ¬(3 ≤ b.total ∧ b.total ≤ 252)) ∧
      (∀ b ∈ [{ c 1 with total := 2 }], b.font = (c 1).font → ¬(3 ≤ b.total ∧ b.total ≤ 252)) ∧
      1 ≤ (c 1).font ∧ (c 1).font ≤ 1023 := by
  decide +kernel

/-- A font no longer lendable at the end of the offer delay. -/
theorem witness_AskAndOffer_withdrawn :
    let s := withEntry { resident 300 with lendable := false } (lending .offerPending)
    s.fonts.outbound.mode = .offerPending ∧ ∃ e ∈ s.fonts.entry s.fonts.outbound.font, e.lendable = false := by
  decide +kernel

/-- An offer heard while a FONT WANTED waits, in a store with no room, of 2 and of 253 blocks, against metrics of another size,
for a font that is not asked for; and another station's offers that match the pending one in part. -/
theorem witness_OfferHeard_grounds :
    let w := want 300 .asking (some 50)
    let s := wanting w ready
    let asked := { s with
      line := { s.line with queue := [(sendingOf .fontWanted .inbound .sending).desc], nextAge := 1 } }
    let small := { s with fonts := { s.fonts with size := 2 } }
    let part := wanting w (withEntry { resident 300 with state := .metrics, present := 2, blocks := [0, 1] } ready)
    let p := lending .offerPending
    (asked.line.holds (fun d => d.owner == .inbound) = true ∧ asked.hears .fontOffer from9 = true ∧
      asked.station.takesPart = true ∧ asked.fonts.want 300 = some w ∧ asked.fonts.outbound.mode = .idle ∧
      (asked.fonts.allocate 300 252 true).isSome = true) ∧
      (small.fonts.want 300 = some w ∧ small.fonts.allocate 300 3 true = none ∧ small.fonts.outbound.mode = .idle) ∧
      (2 < 3 ∧ 252 < 253 ∧ s.fonts.outbound.mode ≠ .offerPending) ∧
      (∃ e ∈ part.fonts.entry 300, e.total ≠ 4) ∧
      (wanting (want 300 .loading none) ready).fonts.want 300 = some (want 300 .loading none) ∧
      ready.fonts.want 300 = none ∧
      (p.fonts.outbound.mode = .offerPending ∧ p.fonts.outbound.asker ≠ p.station.number ∧
        p.fonts.outbound.font ≠ 301 ∧ p.fonts.outbound.asker ≠ 18) := by
  decide +kernel

/-- The bands' edges; a flash of band 0 with a run of band 3 behind it, and the end of the move to that band. -/
theorem witness_WarmUpStandbyTurret_inside :
    let big : Run := { font := 101, size := 96, chars := [(66, 100)] }
    let l := { setLine with runs := setLine.runs ++ [big] }
    let r := { record l with exposing := true }
    let last := { exposure .runs with flash := some flash, char := 1 }
    let waits := { exposure .runs with char := 2 }
    let s := fun e turret => { exposing e with
      queue := [r], imaging := { (exposing e).imaging with turret := turret } }
    ([10, 23, 24, 47, 48, 95, 96, 288].map bandOf = [0, 0, 1, 1, 2, 2, 3, 3]) ∧
      ((s last (.standing 0)).exposingRecord = some r ∧ (s last (.standing 0)).imaging.exposure = some last ∧
        last.flash.isSome = true ∧ nextPosition l.runs last.run (last.char + 1) = some (1, 0) ∧
        l.runs[1]? = some big ∧ (0 : Nat) ≠ bandOf big.size) ∧
      ((s waits (.moving 0 3 0)).imaging.exposure = some waits ∧ waits.stage = .runs ∧ waits.flash = none ∧
        nextPosition l.runs waits.run waits.char = some (1, 0) ∧ big.chars[0]? = some (66, 100) ∧
        (s waits (.moving 0 3 0)).imaging.turret = .moving 0 (bandOf big.size) 0) := by
  decide +kernel

/-- The last flash, and the background pass, of a record without a cut. -/
theorem witness_FlashesAndCut_end :
    let l := { setLine with cutAfter := false }
    let r := { record l with exposing := true }
    let last := { exposure .runs with flash := some flash, char := 1 }
    let field : Background := { start := 0, stop := 3360, height := 200, intensity := 3, mask := setLine.runs }
    let pass := { exposure .background with field := some field }
    let s := fun e => { exposing e with queue := [r] }
    ((s last).exposingRecord = some r ∧ (s last).imaging.exposure = some last ∧ r.line.cutAfter = false ∧
      last.flash.isSome = true ∧ nextPosition l.runs last.run (last.char + 1) = none) ∧
      ((s pass).exposingRecord = some r ∧ (s pass).imaging.exposure = some pass ∧ pass.field.isSome = true) ∧
      (r.attached = true ∧ ((s last).queue.map QueueRecord.name).Nodup ∧ (s last).composer.waiting = none ∧
        (s last).composer.todo = [] ∧ (s last).galleys.find r.line.galley = some galley) := by
  decide +kernel

/-- The last stroke of a forward move, of a record with characters in reverse and of one that is not. -/
theorem witness_FilmMoves_inside :
    let r := { record setLine with exposing := true }
    let back := { record { setLine with reverse := true } with exposing := true }
    let s := moving .forward 40 (.stroke 40) (exposing (exposure .move))
    let t := { s with queue := [back] }
    (s.transport.move = some { kind := .forward, left := 40, phase := .stroke 40, ending := false } ∧
      s.exposingRecord = some r ∧ s.imaging.exposure = some (exposure .move) ∧ r.line.reverse = false ∧
      (∃ run ∈ r.line.runs.head?, run.chars.head? = some (114, 0) ∧ s.imaging.turret = .standing (bandOf run.size))) ∧
      (t.exposingRecord = some back ∧ back.line.reverse = true ∧ (∃ run ∈ back.line.runs, run.size = 20) ∧
        (∀ run ∈ back.line.runs, run.size ≤ 20) ∧ t.imaging.turret = .standing (bandOf 20)) := by
  decide +kernel

/-- A word that fits an empty line and one that fits behind the waiting space, and a word carried with hyphenation off, into a
queue of 31 and of 30. -/
theorem witness_LineAndParagraphEnds_word :
    let of := fun u c n => { before u with composer := c, queue := List.replicate n (record setLine) }
    let alone := { running with word := { Word.empty with boxes := isWord } }
    let behind := { alone with line := lineOf [rain], space := some glue }
    let off := { behind with params := { running.params with measure := 400, hyphenation := false } }
    ((of 0x9800 alone 31).taking .endLine = true ∧ (of 0x9800 alone 31).workingGalley.isSome = true ∧
      (∀ g ∈ (of 0x9800 alone 31).workingGalley, g.mode = .both) ∧ (of 0x9800 alone 31).queue.length < 32 ∧
      alone.word.boxes ≠ [] ∧ alone.line.items = [] ∧ boxesWidth isWord ≤ alone.params.available) ∧
      ((of 0x9C00 behind 31).taking .endPara = true ∧ behind.line.items ≠ [] ∧
        behind.testBase + boxesWidth isWord ≤ behind.params.available ∧
        behind.line.chars + boxesChars isWord ≤ 160 ∧ (fontsOf (behind.line.boxes ++ isWord)).length ≤ 8) ∧
      ((of 0x9800 off 30).taking .endLine = true ∧ (of 0x9800 off 30).queue.length < 31 ∧ off.line.boxes ≠ [] ∧
        off.params.available < off.testBase + boxesWidth isWord ∧ off.params.hyphenation = false ∧
        boxesWidth isWord ≤ off.params.deferredMeasure.getD off.params.measure) := by
  decide +kernel

/-- A word wider than an empty line and than a line with words, one past the character limit and one past the font limit; a
hyphen break with a point that fits, and one without. -/
theorem witness_BreaksAndRuns_closed :
    let wide := fun n => List.replicate n (box 97 94)
    let fonts := fun n => (List.range n).map fun i => Box.char 97 (101 + i) 20 9
    let c := { running with line := lineOf [rain, isWord], space := some glue, word := { Word.empty with boxes := tenants } }
    let at' := fun m => { c with params := { c.params with measure := m, firstLine := false } }
    let forced := { running with params := { running.params with measure := 100 }, word := { Word.empty with boxes := tenants } }
    let u : Hyphenation := ⟨[], 0⟩
    (forced.word.boxes ≠ [] ∧ forced.line.items = [] ∧ forced.params.available < boxesWidth tenants) ∧
      (c.line.items ≠ [] ∧ (at' 880).params.available < (at' 880).testBase + boxesWidth tenants) ∧
      160 < c.line.chars + boxesChars (wide 160) ∧ 8 < (fontsOf (c.line.boxes ++ fonts 9)).length ∧
      (c.line.chars + boxesChars tenants ≤ 160 ∧ (fontsOf (c.line.boxes ++ tenants)).length ≤ 8 ∧
        c.params.hyphenation = true ∧ c.params.ladderCount < c.params.ladderLimit ∧ u.points tenants [] = [2]) ∧
      ((at' 880).params.available < (at' 880).testBase + boxesWidth tenants) ∧
      ((at' 880).word.boxes[2 - 1]?.any Box.isHyphen = false ∧
        (at' 880).word.boxes.take 2 = [box 116 63] ++ .char 101 101 20 91 :: [] ∧
        (at' 880).testBase + boxesWidth (tenants.take 2) +
            characterWidth (((ready.fonts.metricsOf 101).bind fun m => m.width 45).getD 21) 0 20 ≤
          (at' 880).params.available ∧
        c.line.chars + boxesChars (tenants.take 2) + 1 ≤ 160) ∧
      ((at' 640).params.available < (at' 640).testBase + boxesWidth (tenants.take 2)) := by
  decide +kernel

/-- Cores of 24 and of 25 letters without an entry and without a soft hyphen. -/
theorem witness_HyphenReply_long :
    let word := fun n => List.replicate n (box 97 60)
    (foldedCore (word 24) = some (List.replicate 24 97) ∧ 5 ≤ (List.replicate 24 97).length ∧
      (List.replicate 24 97).length ≤ 24) ∧
      (foldedCore (word 25) = some (List.replicate 25 97) ∧ 24 < (List.replicate 25 97).length) := by
  decide +kernel

/-- A FONT WANTED of an earlier service in flight, not withdrawn and withdrawn; a channel that loads, and an empty list. -/
theorem witness_EntryTakenIntoService_earlier :
    let f := sendingOf .fontWanted .inbound .sending
    let s := inFlight f (wanting (want 300 .waiting none) ready)
    let gone := inFlight { f with withdrawn := true } (wanting (want 300 .waiting none) ready)
    (s.line.flight = some f ∧ f.withdrawn = false ∧ s.fonts.inbound.mode = .idle ∧ s.fonts.inService = none ∧
      s.fonts.nextWaiting = some (want 300 .waiting none) ∧ s.fonts.cartridgeSource 300 = none ∧
      s.line.holds (fun d => d.owner == .inbound) = true) ∧
      gone.line.flight = some { f with withdrawn := true } ∧ (loadingFrom .cartLoad).fonts.inbound.mode ≠ .idle ∧
      (loadingFrom .cartLoad).fonts.inService ≠ none ∧ ready.fonts.nextWaiting = none := by
  decide +kernel

/-- A font that holds its metrics, a full transmit queue, and a station that only listens. -/
theorem witness_EntryTakenIntoService_line :
    let report := fun n => { (sendingOf .galleyReport (.report ⟨2, n⟩) .sending).desc with age := n }
    let s := wanting (want 300 .waiting none)
      (withEntry { resident 300 with state := .metrics, present := 2, blocks := [0, 1] } ready)
    let full := { s with line := { s.line with queue := (List.range 16).map report, nextAge := 16 } }
    ((s.fonts.entry 300).isSome = true ∧ s.fonts.nextWaiting = some (want 300 .waiting none)) ∧
      (full.fonts.inbound.mode = .idle ∧ full.fonts.inService = none ∧
        full.line.holds (fun d => d.owner == .inbound) = false ∧ full.fonts.cartridgeSource 300 = none ∧
        16 ≤ full.line.count) ∧
      { s with station := { s.station with number := 31 } }.station.takesPart = false := by
  decide +kernel

/-- A given-up entry for a font of the cartridge, and the directory's entry at the removal, LOADING and METRICS. -/
theorem witness_CartridgeInAndOut_removed :
    let c : CatalogEntry := { font := 300, total := 3, lendable := true }
    let given := wanting (want 300 .unavailable (some 10000)) ready
    let reading := { given with fonts := { given.fonts with slot := .reading, catalogTimer := some 0 } }
    let s := loadingFrom .cartLoad
    let part := withEntry { loadingEntry with state := .metrics, present := 2, metrics := some metrics } s
    (reading.fonts.slot = .reading ∧ (∃ w ∈ reading.fonts.wants, w.state = .unavailable ∧ w.font = c.font)) ∧
      (s.fonts.inbound.mode = .cartLoad ∧ s.fonts.directory[0]? = some loadingEntry ∧
        loadingEntry.font = s.fonts.inbound.font ∧ loadingEntry.state = .loading) ∧
      (part.fonts.inbound.mode = .cartLoad ∧
        (∃ e ∈ part.fonts.directory[0]?, e.font = part.fonts.inbound.font ∧ e.state = .metrics)) ∧
      (∃ e ∈ s.fonts.directory[23]?, e.state ≠ .loading ∧ e.state ≠ .metrics) := by
  decide +kernel

/-- The pin counts agree in a station with a record of font 101, and its step gives a next state. -/
theorem witness_PinsAndEviction_step :
    let s := withEntry { resident 101 with pins := 1 } (queued (record setLine))
    State.PinsSound s ∧ s.dueEvent.isSome = true := by
  refine ⟨⟨by decide +kernel, fun font h => ?_, by decide +kernel⟩, by decide +kernel⟩
  have hf : font = 101 := by
    by_contra hn
    have none : (withEntry { resident 101 with pins := 1 } (queued (record setLine))).references font = 0 := by
      simp [State.references, queued, record, setLine, withEntry, holding, ready, State.reset, hn, Composer.rest,
        Composer.fontsInUse, Outbound.rest, LineBuild.empty, Word.empty]
    omega
  subst hf
  decide +kernel

/-- A take from the asker before the offer is made. -/
theorem witness_TakeHeard_pending :
    (lending .offerPending).hears .fontTake ⟨17, 0⟩ = true ∧
      (Header.mk 17 0).sender = (lending .offerPending).fonts.outbound.asker ∧
      (lending .offerPending).fonts.outbound.mode = .offerPending := by
  decide +kernel

/-- A movement of 0, and a movement backwards at section depth 0, which is clamped. -/
theorem witness_ExposureBegins_still :
    let still := { setLine with back := 240 }
    let back := { setLine with back := 480 }
    let s := fun l => queued (record l)
    ((s still).exposureNext = some (record still) ∧ (s still).mayExpose (record still) = true ∧
      still.movement = 0 ∧ (∀ q ∈ (s still).queue, q.exposing = false) ∧
      ((s still).queue.map QueueRecord.name).Nodup ∧ still.reverse = false ∧
      (∃ run ∈ still.runs.head?, run.chars.head? = some (114, 0) ∧
        (s still).imaging.turret = .standing (bandOf run.size))) ∧
      ((s back).exposureNext = some (record back) ∧ (s back).mayExpose (record back) = true ∧ back.movement < 0 ∧
        (s back).transport.depth = 0 ∧ back.movement < -((s back).transport.depth : Int) ∧
        back.flags.reverseClamped = false) ∧
      (setLine.needsExposure = true ∧ (s still).composer.waiting = none ∧ (s still).composer.todo = [] ∧
        0 < setLine.movement ∧ ∃ g ∈ (s still).galleys.find setLine.galley, g.cancelPending = false) := by
  decide +kernel

/-- A galley with a cancel pending whose record is at its last flash, its background pass and its knife stroke. -/
theorem witness_FlashesAndCut_cancel :
    let g := { galley with cancelPending := true }
    let l := { setLine with cutAfter := false }
    let last := { exposure .runs with flash := some flash, char := 1 }
    let field : Background := { start := 0, stop := 3360, height := 200, intensity := 3, mask := setLine.runs }
    let pass := { exposure .background with field := some field }
    let s := fun e l => { exposing e with
      queue := [{ record l with exposing := true }], galleys := { (exposing e).galleys with table := [g] } }
    let knife := moving .leadOut 0 .knife (s (exposure .cut) setLine)
    ((s last l).exposingRecord = some { record l with exposing := true } ∧ (s last l).imaging.exposure = some last ∧
      (s last l).galleys.find l.galley = some g ∧ g.cancelPending = true ∧
      ((s last l).galleys.table.map Galley.id).Nodup ∧ (s last l).composer.waiting = none ∧
      (s last l).composer.todo = [] ∧ last.flash.isSome = true ∧
      nextPosition l.runs last.run (last.char + 1) = none ∧ (s last l).station.takesPart = true ∧
      l.galley.poster < 32 ∧ (s last l).line.count ≤ 4 ∧ (s last l).galleys.table.length ≤ 4) ∧
      ((s pass l).imaging.exposure = some pass ∧ pass.field.isSome = true) ∧
      (knife.exposingRecord = some { record setLine with exposing := true } ∧
        knife.galleys.find setLine.galley = some g ∧
        ∃ m ∈ knife.transport.move, m.phase = .knife ∧ m.ending = false) := by
  decide +kernel

/-- A reverse motion inside an exposure, and records with no character: BLANK and of fixed spaces, with a cut and without. -/
theorem witness_FilmMoves_plain :
    let blank := { setLine with kind := .blank, runs := [] }
    let fixed := { setLine with runs := [{ font := 101, size := 20, chars := [] }], cutAfter := false }
    let s := fun l => { moving .reverse 40 .reversing (exposing (exposure .move)) with
      queue := [{ record l with exposing := true }] }
    ((s blank).transport.move = some { kind := .reverse, left := 40, phase := .reversing, ending := false } ∧
      (s blank).exposingRecord = some { record blank with exposing := true } ∧
      (s blank).imaging.exposure = some (exposure .move)) ∧
      (blank.runs = [] ∧ blank.cutAfter = true) ∧
      ((s fixed).exposingRecord = some { record fixed with exposing := true } ∧ fixed.reverse = false ∧
        (∀ run ∈ fixed.runs, run.chars = []) ∧ fixed.cutAfter = false ∧
        ((s fixed).queue.map QueueRecord.name).Nodup ∧ (s fixed).composer.waiting = none ∧
        (s fixed).composer.todo = []) := by
  decide +kernel

/-- A record at the walk of a station at rest, with too little film, with a full take-up, and with film for it. -/
theorem witness_Cassettes_test :
    let s := fun state remaining held => { queued (record setLine) with
      transport := { ready.transport with state := state, remaining := remaining, takeUpHeld := held } }
    let warming := { s .idle 1679 0 with imaging := State.reset.imaging }
    let halted := { s .idle 864000 2590321 with station := { ready.station with mode := .halted } }
    (warming.markNotNeeded = warming ∧ warming.departure.isNone = true ∧ warming.composer.todo = [] ∧
      warming.exposureNext = some (record setLine) ∧ warming.galleys.find setLine.galley = some galley ∧
      galley.state = .composing ∧ (warming.galleys.table.map Galley.id).Nodup ∧ warming.imaging.state = .warming ∧
      warming.station.mode = .running ∧ warming.transport.state = .idle ∧
      warming.transport.remaining < setLine.movement.toNat + 1440) ∧
      (halted.hears .stationRelease to5 = true ∧ halted.station.mode = .halted ∧ halted.imaging.state ≠ .exposing ∧
        halted.markNotNeeded = halted ∧ halted.departure.isNone = true ∧
        setLine.movement.toNat + 1440 ≤ halted.transport.remaining ∧
        2592000 < halted.transport.takeUpHeld + setLine.movement.toNat + (if setLine.cutAfter then 1440 else 0)) ∧
      ((s .noCassette 0 0).markNotNeeded = s .noCassette 0 0 ∧ (s .noCassette 0 0).departure.isNone = true ∧
        (s .noCassette 0 0).transport.state = .noCassette ∧ (s .noCassette 0 0).transport.takeUpPresent = true ∧
        setLine.movement.toNat + 1440 ≤ 864000) := by
  decide +kernel

/-- A galley SUSPENDED for FILM at a station without a take-up, and at one without a supply, each about to get it. -/
theorem witness_Cassettes_restored :
    let g := { galley with state := .suspended, suspension := some .film }
    let s := fun supply takeUp => { queued (record setLine) with
      galleys := { (holding g).galleys with table := [g] }
      transport := { ready.transport with state := .noCassette, supplyPresent := supply, takeUpPresent := takeUp } }
    ((s true false).markNotNeeded = s true false ∧ (s true false).departure.isNone = true ∧
      (s true false).composer.todo = [] ∧ (s true false).exposureNext = some (record setLine) ∧
      (s true false).galleys.find setLine.galley = some g ∧ g.compositionEnded = false ∧
      ((s true false).galleys.table.map Galley.id).Nodup ∧ (s true false).imaging.state ≠ .exposing ∧
      (s true false).station.mode = .running ∧ (s true false).transport.state = .noCassette ∧
      (s true false).transport.supplyPresent = true ∧
      setLine.movement.toNat + 1440 ≤ (s true false).transport.remaining ∧ setLine.movement.toNat + 1440 ≤ 2592000) ∧
      ((s false true).markNotNeeded = s false true ∧ (s false true).departure.isNone = true ∧
        (s false true).exposureNext = some (record setLine) ∧ (s false true).transport.takeUpPresent = true) := by
  decide +kernel

/-- A release and a BLANK record at a station without film, and a removal at a record being exposed. -/
theorem witness_Cassettes_noFilm :
    let without := fun (s : State) => { s with transport := { s.transport with state := .filmOut, remaining := 1000 } }
    let halted := without { queued (record setLine) with station := { ready.station with mode := .halted } }
    let blank := without (before 0x9800)
    let e := exposing (exposure .runs)
    (halted.transport.state = .filmOut ∧ halted.exposureNext = some (record setLine) ∧
      halted.galleys.find setLine.galley = some galley ∧ halted.hears .stationRelease to5 = true ∧
      halted.station.mode = .halted ∧ (halted.galleys.table.map Galley.id).Nodup) ∧
      (blank.taking .endLine = true ∧ (∃ g ∈ blank.workingGalley, g.state = .composing ∧ g.mode = .both) ∧
        blank.composer.word.boxes = [] ∧ blank.composer.line.items = [] ∧ blank.queue = [] ∧
        blank.station.mode = .running ∧ (blank.galleys.table.map Galley.id).Nodup) ∧
      (e.imaging.state = .exposing ∧ e.imaging.exposure.isSome = true ∧ e.transport.supplyPresent = true ∧
        (∃ r ∈ e.exposingRecord, r.attached = true ∧ r.exposed = false ∧ r.line.needsExposure = true ∧
          e.galleys.find r.line.galley = some galley) ∧
        galley.state = .composing ∧ galley.cancelPending = false) := by
  decide +kernel

/-- The twelfth row of a record's band, whose name no other record has. -/
theorem witness_Rasterizing_mark :
    (∃ r ∈ (writing 11).queue.find? QueueRecord.rasterizing, r.attached = true) ∧
      ((writing 11).queue.map QueueRecord.name).Nodup ∧ (writing 11).composer.waiting = none ∧
      (writing 11).composer.todo = [] := by
  decide +kernel

/-! ## Commands run, one step each -/

/-- The state a command leaves, if it gives a next state. -/
def after (i : Instr) (s : State) : Option State :=
  match exec i s with
  | .next t => some t
  | _ => none

/-- The worked galley of the chapter Setting Codes: SIZE 36, MEASURE 900, LEAD 200, ADVANCE 144, BACK 600. -/
theorem test_parameters_of_the_short_galley :
    (after (.size 36) (before 0x8424)).map (fun t => t.composer.params.size) = some 36 ∧
      (after (.measure 900) (before 0x8B84)).map (fun t => t.composer.params.measure) = some 14400 ∧
      (after (.lead 200) (before 0x8CC8)).map (fun t => t.composer.params.leading) = some 1000 ∧
      (after (.advance 144) (before 0xC090)).map (fun t => t.composer.params.pendingAdvance) = some 720 ∧
      (after (.back 600) (before 0xC658)).map (fun t => t.composer.params.pendingBack) = some 3000 ∧
      (after (.measure 100) (inLine 0x8864)).map (fun t => t.composer.params.deferredMeasure) =
        some (some 2000) := by
  decide +kernel

/-- END LINE on an empty line closes a BLANK record and leaves the first line item yes; END PARA likewise. -/
theorem test_blank_line :
    (after .endLine (before 0x9800)).map (fun t => (t.queue.map fun r => r.line.kind, t.composer.params.firstLine)) =
      some ([.blank], true) := by
  decide +kernel

/-- A character of 22 units at size 20 is a box of 69 minims. -/
theorem test_character_set :
    (after (.characterUnit 65) (withEntry (resident 101) { before 0x0041 with
        composer := { running with params := Params.start 101 } })).map (fun t => t.composer.word.boxes) =
      some [.char 65 101 20 69] := by
  decide +kernel

/-- Twelve rows: the twelfth ends the rasterizing and counts a line proofed. -/
theorem test_last_row_of_a_band :
    (after .rowWritten (writing 11)).map
        (fun t => (t.proofer.raster, t.proofer.ring.length, t.galleys.table.map fun g => g.counters.proofed)) =
      some (none, 1, [1]) := by
  decide +kernel

/-- The worked trips: the eighth leaves the transport JAMMED and the galley SUSPENDED for the jam. -/
theorem test_eighth_trip :
    let s := moving .forward 240 (.stroke 40) (exposing (exposure .move))
    (after (.strokeTrip [true, true, true]) { s with transport := { s.transport with trips := 7 } }).map
        (fun t => (t.transport.state, t.galleys.table.map fun g => g.suspension)) =
      some (.jammed, [some .jam]) := by
  decide +kernel

/-- A stroke of 40 changes the four counters together. -/
theorem test_stroke_counters :
    (after (.strokeCompleted (List.replicate 8 false)) (moving .forward 240 (.stroke 40) ready)).map
        (fun t => (t.transport.remaining, t.transport.drawn, t.transport.depth, t.transport.takeUpHeld)) =
      some (863960, 40, 40, 40) := by
  decide +kernel

/-- The worked claim race at station 4: another station's claim settles the entry. -/
theorem test_other_claim_settles :
    (after (.galleyClaim from9 id9) (watched (watching .claimQueued))).map
        (fun t => t.galleys.watch.map WatchEntry.state) = some [.settled] := by
  decide +kernel

/-- An accepted galley: its record is WAITING and an ACCEPTED report is queued for its poster. -/
theorem test_galley_accepted :
    (after (.galleyClaim own id9) (watched (watching .claimSent))).map
        (fun t => (t.galleys.table.map Galley.state, t.line.queue.any fun d => d.kind == .galleyReport && d.dest == 2)) =
      some ([.waiting], true) := by
  decide +kernel

/-- R48: the space behind "rain is" has the glue 50, 38, 88 of the worked case. -/
theorem test_space_glue :
    (after (.characterUnit 32) (withEntry (resident 101) (inLine 0x0020))).map (fun t => t.composer.space) =
      some (some glue) := by
  decide +kernel

/-- R89: END GALLEY of a SUSPENDED galley whose record needs no walk: the record leaves at once and the galley is DONE. -/
theorem test_suspended_galley_done :
    let g := { galley with state := .suspended, mode := .proof, firstLine := 5,
                           segments := [0xD800 :: List.replicate 31 0x0041] }
    let s := { holding g with composer := { running with line := lineOf [rain] } }
    (after .endGalley s).map (fun t => (t.galleys.table.length, t.queue.length)) = some (0, 0) := by
  decide +kernel

/-- The station with the FONT WANTED of a DEFERRED font 300 still in flight, and font 301 waiting. -/
def earlierAsk : State :=
  let f := sendingOf .fontWanted .inbound .sending
  inFlight { f with desc := { f.desc with body := [1, 44] } }
    { ready with
      fonts := { ready.fonts with wants := [want 300 .deferred (some 10000), want 301 .waiting none] } }

/-- R105, R107, R116: a FONT WANTED left by a DEFERRED entry does not hold back the next entry, which the cartridge serves. -/
theorem test_cartridge_behind_an_earlier_ask :
    let c : CatalogEntry := { font := 301, total := 3, lendable := true }
    (after .inboundTakesEntry
        { earlierAsk with fonts := { earlierAsk.fonts with slot := .present, catalog := [c] } }).map
        (fun t => (t.fonts.inbound.mode, t.fonts.wants.map Want.state, t.line.flight.isSome)) =
      some (.cartLoad, [.deferred, .loading], true) := by
  decide +kernel

/-- R105, R171: nor an entry for the line, which is ASKING at once; its FONT WANTED is queued when the earlier has left. -/
theorem test_ask_behind_an_earlier_ask :
    let taken := after .inboundTakesEntry earlierAsk
    taken.map (fun t => (t.fonts.wants.map Want.state, t.line.queue.length)) = some ([.deferred, .asking], 0) ∧
      (taken.bind (after .frameLeftLine)).map
          (fun t => (t.line.queue.map Descriptor.body, t.fonts.wants.map Want.timer)) =
        some ([[1, 45]], [some 10000, none]) := by
  decide +kernel

/-- R104: the withdrawn FONT WANTED of a replaced entry, while in flight, holds the channel; removed at its loss it does not. -/
theorem test_withdrawn_ask_holds_the_channel :
    let f := { sendingOf .fontWanted .inbound .arbitrating with withdrawn := true }
    let s := inFlight f (wanting (want 301 .waiting none) ready)
    (after .inboundTakesEntry s).map (fun t => t.fonts.wants.map Want.state) = some [.waiting] ∧
      ((after (.endOfArbitration 0) s).bind (after .inboundTakesEntry)).map (fun t => t.fonts.wants.map Want.state) =
        some [.asking] := by
  decide +kernel

/-- R105: the first block wanted is 2 for a font that holds its metrics, also where its allocation fails. -/
theorem test_first_block_wanted :
    let part := { resident 300 with state := .metrics, present := 2, blocks := [0, 1] }
    let s := wanting (want 300 .waiting none) (withEntry part ready)
    let c : CatalogEntry := { font := 300, total := 3, lendable := true }
    (after .inboundTakesEntry
        { s with fonts := { s.fonts with slot := .present, catalog := [c], size := 2 } }).map
        (fun t => t.fonts.wants.map fun w => (w.state, w.firstBlock)) =
      some [(.deferred, 2)] := by
  decide +kernel

/-- R172: a report that lost arbitration beside a younger one of its galley gives it its place and age. -/
theorem test_lost_report :
    let f := sendingOf .galleyReport (.report id9) .arbitrating
    let s := inFlight f { ready with line := { ready.line with queue := [{ f.desc with body := [1], age := 7 }] } }
    (after (.endOfArbitration 0) s).map (fun t => t.line.queue) = some [{ f.desc with body := [1] }] := by
  decide +kernel

/-- R67: the reply for a letters-only word of 25 letters has no rule points (log entry 38); 24 letters have them. -/
theorem test_long_word :
    reply "tenantstenantstenantstena" = [] ∧ reply "tenantstenantstenantsten" ≠ [] := by
  decide +kernel

/-- R130: with film for the lead-out only, the controller's READY takes the transport to FILM_OUT and the galley is
SUSPENDED for FILM. -/
theorem test_film_out :
    let s := { queued (record setLine) with
      imaging := State.reset.imaging, transport := { ready.transport with remaining := 1679 } }
    (after .warmUpTimer s).map (fun t => (t.transport.state, t.galleys.table.map Galley.suspension)) =
      some (.filmOut, [some .film]) := by
  decide +kernel

/-- R10, R19: a halt suspends a galley with cancel pending and reports nothing of it. -/
theorem test_halt_with_cancel_pending :
    let s := exposing (exposure .runs)
    (after (.stationHalt to5) { s with
        galleys := { s.galleys with table := [{ galley with cancelPending := true }] } }).map
        (fun t => (t.galleys.table.map Galley.suspension, t.line.queue)) = some ([some .halt], []) := by
  decide +kernel

/-- R18: a cancel that waited is carried out behind the last flash: no galley, no record. -/
theorem test_cancel_behind_the_last_flash :
    let e := { exposure .runs with flash := some flash, char := 1 }
    let s := exposing e
    (after .flashDone { s with
        queue := [{ record { setLine with cutAfter := false } with exposing := true }]
        galleys := { s.galleys with table := [{ galley with cancelPending := true }] } }).map
        (fun t => (t.galleys.table.length, t.queue.length)) = some (0, 0) := by
  decide +kernel

end Sys2Proof.Tests
end

section
/-! The galley unit's proofs (R20, R21): the frame at the door of a block, the watch list's removal of an entry, and
the answer to a proof request. -/

namespace Sys2Proof.Machine

variable {s : State} {id : GalleyId} {h : Header}

/-! ## Heard frames -/

/-- A frame that is heard is handed to its block. -/
theorem State.onFrame_of_hears {kind : FrameKind} (heard : s.hears kind h = true) (block : State → State) :
    s.onFrame kind h block = block s.frameEnded := by
  unfold State.onFrame
  rw [if_pos heard]

/-- A block that leaves the state behind the frame alone: it makes no difference whether the frame is heard. -/
theorem State.onFrame_of_ignored {kind : FrameKind} {block : State → State}
    (ignored : block s.frameEnded = s.frameEnded) : s.onFrame kind h block = s.frameEnded := by
  unfold State.onFrame
  rw [ignored, ite_self]

/-- On a line whose idle count is 0 the end of a frame changes nothing. -/
theorem State.frameEnded_of_idleBits (idle : s.line.idleBits = 0) : s.frameEnded = s := by
  unfold State.frameEnded
  rw [← idle]

/-! ## The watch list (R4, R20) -/

/-- A galley id that has no watch entry has none to remove. -/
theorem State.dropWatch_of_none (unwatched : s.galleys.findWatch id = none) : s.dropWatch id = s := by
  unfold State.dropWatch
  rw [unwatched]

/-- The line without the claim of a galley: one that waits is gone, one in flight is marked (R174). -/
theorem Line.withdraw_claim (l : Line) (id : GalleyId) :
    (l.withdraw fun d => d.owner = .claim id) =
      { l with
        queue := l.queue.filter fun d => d.owner != .claim id
        flight := l.flight.map fun f => if f.desc.owner = .claim id then { f with withdrawn := true } else f } := by
  unfold Line.withdraw
  simp only [decide_eq_true_eq]
  rfl

/-- The removal of a watch entry reaches the line only for a claim that is queued, and the galley unit only for the entry. -/
theorem State.dropWatch_of_some {w : WatchEntry} (watched : s.galleys.findWatch id = some w) :
    s.dropWatch id =
      { s with
        line := if w.state = .claimQueued then s.line.withdraw (fun d => d.owner = .claim id) else s.line
        galleys := s.galleys.removeWatch id } := by
  unfold State.dropWatch
  rw [watched]
  dsimp only
  split <;> rfl

@[simp] theorem GalleyUnit.findWatch_removeWatch (gu : GalleyUnit) (id : GalleyId) :
    (gu.removeWatch id).findWatch id = none := by
  unfold GalleyUnit.findWatch GalleyUnit.removeWatch
  simp

/-- Behind the removal the galley id has no watch entry. -/
@[simp] theorem State.findWatch_dropWatch (s : State) (id : GalleyId) :
    (s.dropWatch id).galleys.findWatch id = none := by
  cases watched : s.galleys.findWatch id with
  | none => rw [State.dropWatch_of_none watched, watched]
  | some w => rw [State.dropWatch_of_some watched, GalleyUnit.findWatch_removeWatch]

/-- The removal of a watch entry leaves the line's idle count alone. -/
@[simp] theorem State.dropWatch_idleBits (s : State) (id : GalleyId) :
    (s.dropWatch id).line.idleBits = s.line.idleBits := by
  cases watched : s.galleys.findWatch id with
  | none => rw [State.dropWatch_of_none watched]
  | some w =>
    rw [State.dropWatch_of_some watched]
    dsimp only
    split <;> rfl

/-! ## Claims and cancels at the watch list (R4, R5, R20) -/

theorem exec_galleyClaim (h : Header) (id : GalleyId) (s : State) :
    exec (.galleyClaim h id) s = execGalleyClaim h id s := rfl

theorem exec_galleyCancel (h : Header) (id : GalleyId) (s : State) :
    exec (.galleyCancel h id) s = execGalleyCancel h id s := rfl

/-- A claim for a galley id without a watch entry is a frame that ends, heard or not. -/
theorem exec_galleyClaim_of_unwatched (h : Header) (unwatched : s.galleys.findWatch id = none) :
    exec (.galleyClaim h id) s = .next s.frameEnded := by
  rw [exec_galleyClaim]
  unfold execGalleyClaim
  rw [State.onFrame_of_ignored]
  rw [State.frameEnded_galleys, unwatched]

/-- A cancel heard for a galley that is not held is the watch list's alone (R20). -/
theorem exec_galleyCancel_of_unheld (heard : s.hears .galleyCancel h = true) (unheld : s.galleys.find id = none) :
    exec (.galleyCancel h id) s = .next (s.frameEnded.dropWatch id) := by
  rw [exec_galleyCancel]
  unfold execGalleyCancel
  rw [State.onFrame_of_hears heard, State.frameEnded_galleys, unheld]

/-- Behind a cancel that reached the watch list, the station's own claim finds no entry and an idle count of 0 already. -/
theorem exec_galleyClaim_after_dropWatch (h : Header) (s : State) (id : GalleyId) :
    exec (.galleyClaim h id) (s.frameEnded.dropWatch id) = .next (s.frameEnded.dropWatch id) := by
  have idle : (s.frameEnded.dropWatch id).line.idleBits = 0 := by
    rw [State.dropWatch_idleBits, State.frameEnded_line]
  rw [exec_galleyClaim_of_unwatched h (State.findWatch_dropWatch _ id), State.frameEnded_of_idleBits idle]

/-- Settles O15: the cancel is `State.dropWatch` behind the frame's end, and the later claim meets no entry. -/
theorem cancelOfWatchedGalley : Obligations.CancelOfWatchedGalley := by
  intro h id s heard unheld
  have cancelled := exec_galleyCancel_of_unheld heard unheld
  constructor
  · intro w watched
    refine ⟨s.frameEnded.dropWatch id, cancelled, ?_, State.findWatch_dropWatch _ id,
      fun h' _ => exec_galleyClaim_after_dropWatch h' s id⟩
    have watched' : s.frameEnded.galleys.findWatch id = some w := watched
    rw [State.dropWatch_of_some watched', Line.withdraw_claim]
    rfl
  · intro unwatched
    have unwatched' : s.frameEnded.galleys.findWatch id = none := unwatched
    rw [cancelled, State.dropWatch_of_none unwatched']
    rfl

/-! ## Proof requests (R21) -/

theorem exec_proofWanted (h : Header) (id : GalleyId) (first last : Nat) (s : State) :
    exec (.proofWanted h id first last) s = execProofWanted h id first last s := rfl

/-- A proof request heard is answered behind the frame's end. -/
theorem exec_proofWanted_of_hears (heard : s.hears .proofWanted h = true) (id : GalleyId) (first last : Nat) :
    exec (.proofWanted h id first last) s = .next (s.frameEnded.hearProofWanted id first last) := by
  rw [exec_proofWanted]
  unfold execProofWanted
  rw [State.onFrame_of_hears heard]

/-- A WAITING galley's proof request changes its record alone. -/
theorem State.hearProofWanted_of_waiting {g : Galley} (held : s.galleys.find id = some g)
    (waiting : g.state = .waiting) (first last : Nat) :
    s.hearProofWanted id first last =
      { s with galleys := s.galleys.update id fun g => g.grantProof first last } := by
  unfold State.hearProofWanted
  rw [held]
  dsimp only
  rw [if_pos waiting]
  rfl

/-- A report of a held galley carries the counters of its record (R22). -/
theorem State.report_of_find {g : Galley} (held : s.galleys.find id = some g) (event : ReportEvent) (reason : Nat) :
    s.report id event reason = s.sendReport id event reason g.counters := by
  unfold State.report
  rw [held]

/-- Any other proof request is answered by one report: with the galley's counters, or 0 for a galley not held. -/
theorem State.hearProofWanted_of_not_waiting
    (refused : ∀ g, s.galleys.find id = some g → g.state ≠ .waiting) (first last : Nat) :
    s.hearProofWanted id first last =
      s.sendReport id .proofRefused 0 (((s.galleys.find id).map Galley.counters).getD Counters.zero) := by
  unfold State.hearProofWanted
  cases held : s.galleys.find id with
  | none => rfl
  | some g =>
    dsimp only
    rw [if_neg (refused g held), State.report_of_find held]
    rfl

/-- A poster byte that a destination field can hold is the destination. -/
theorem posterField_of_lt {poster : Nat} (addressable : poster < 32) :
    posterField poster = BitVec.ofNat 5 poster := by
  unfold posterField
  rw [if_pos addressable]

/-- Settles O17: granted or refused, as the galley is WAITING or not. -/
theorem proofRequested : Obligations.ProofRequested := by
  intro h id first last s heard addressable
  rw [exec_proofWanted_of_hears heard]
  constructor
  · intro g held waiting
    rw [State.hearProofWanted_of_waiting (s := s.frameEnded) held waiting]
    rfl
  · intro refused
    rw [State.hearProofWanted_of_not_waiting (s := s.frameEnded) refused]
    unfold State.sendReport
    rw [posterField_of_lt addressable]
    rfl

end Sys2Proof.Machine
end

section
/-! The proofs of Composition and Justification (R60): a line set by quad is a line at its natural width, and the quad
chooses its offset alone. -/

namespace Sys2Proof.Machine

variable {l : LineBuild} {width : Nat}

/-! ## The setting at the natural width (R59, R60) -/

@[simp] theorem setNatural_glues (l : LineBuild) (offset : Nat) :
    (setNatural l offset).glues = l.glues.map fun g => (g.nominal : Int) := rfl

@[simp] theorem setNatural_gaps (l : LineBuild) (offset : Nat) : (setNatural l offset).gaps = [] := rfl

@[simp] theorem setNatural_flags (l : LineBuild) (offset : Nat) : (setNatural l offset).flags = Flags.none := rfl

@[simp] theorem setNatural_setWidth (l : LineBuild) (offset : Nat) :
    (setNatural l offset).setWidth = l.natural := rfl

/-- Whatever the quad, the line is set at its natural width: the quad has a say in the offset only. -/
theorem setByQuad_eq_setNatural (l : LineBuild) (width : Nat) (quad : Quad) :
    setByQuad l width quad = setNatural l (setByQuad l width quad).quadOffset := by
  cases quad <;> rfl

/-! ## The quad offset (R60) -/

@[simp] theorem setByQuad_left_quadOffset (l : LineBuild) (width : Nat) :
    (setByQuad l width .left).quadOffset = 0 := rfl

@[simp] theorem setByQuad_justify_quadOffset (l : LineBuild) (width : Nat) :
    (setByQuad l width .justify).quadOffset = 0 := rfl

@[simp] theorem setByQuad_right_quadOffset (l : LineBuild) (width : Nat) :
    (setByQuad l width .right).quadOffset = width - l.natural := rfl

@[simp] theorem setByQuad_center_quadOffset (l : LineBuild) (width : Nat) :
    (setByQuad l width .center).quadOffset = (width - l.natural) / 2 := rfl

/-- A line that runs past its measure stands at the left edge in every quad: the model's slack is a natural number, cut
off at 0. -/
theorem setByQuad_quadOffset_of_lt_natural (pastMeasure : width < l.natural) (quad : Quad) :
    (setByQuad l width quad).quadOffset = 0 := by
  have noSlack : width - l.natural = 0 := Nat.sub_eq_zero_of_le pastMeasure.le
  cases quad with
  | left => rw [setByQuad_left_quadOffset]
  | justify => rw [setByQuad_justify_quadOffset]
  | right => rw [setByQuad_right_quadOffset, noSlack]
  | center => rw [setByQuad_center_quadOffset, noSlack]

/-- Settles O30: everything but the offset is the natural setting's; the offset is read off the quad, and where the line
fits, the model's slack is the manual's S. -/
theorem lineSetByQuad : Obligations.LineSetByQuad := by
  rintro l width quad slack rfl
  have natural := setByQuad_eq_setNatural l width quad
  refine ⟨?glues, ?gaps, ?setWidth, ?loose, ?tight, fun negative => ?past, fun fits => ⟨?left, ?right, ?center⟩⟩
  case glues => rw [natural, setNatural_glues]
  case gaps => rw [natural, setNatural_gaps]
  case setWidth => rw [natural, setNatural_setWidth]
  case loose => rw [natural, setNatural_flags]; rfl
  case tight => rw [natural, setNatural_flags]; rfl
  case past => exact setByQuad_quadOffset_of_lt_natural (by omega) quad
  case left =>
    rintro rfl
    exact setByQuad_left_quadOffset l width
  case right =>
    rintro rfl
    rw [setByQuad_right_quadOffset]
    omega
  case center =>
    rintro rfl
    rw [setByQuad_center_quadOffset]
    omega

end Sys2Proof.Machine
end

section
/-! The proofs of the exception dictionary (R75, R79, R80): the oldest entry of a list, what the age count leaves of an
entry, and a heard word that takes the place of the oldest heard entry. -/

namespace Sys2Proof.Machine

/-! ## The head of an ordered list -/

section Order
variable {α : Type} {before : α → α → Bool} {x : α}

theorem head?_insertBy_of_first {ys : List α} (first : ∀ y ∈ ys, before x y = true) :
    (insertBy before x ys).head? = some x := by
  cases ys with
  | nil => rfl
  | cons y rest =>
    unfold insertBy
    rw [if_pos (first y List.mem_cons_self), List.head?_cons]

theorem head?_insertBy_of_not_before {ys : List α} {y : α} (head : ys.head? = some x) (behind : before y x = false) :
    (insertBy before y ys).head? = some x := by
  cases ys with
  | nil => cases head
  | cons z rest =>
    obtain rfl : z = x := Option.some.inj head
    unfold insertBy
    rw [if_neg (by simp [behind]), List.head?_cons]

theorem forall_mem_insertBy {p : α → Prop} {y : α} {ys : List α} (here : p y) (there : ∀ z ∈ ys, p z) :
    ∀ z ∈ insertBy before y ys, p z := by
  induction ys with
  | nil => simpa [insertBy] using here
  | cons w rest ih =>
    obtain ⟨head, tail⟩ := List.forall_mem_cons.mp there
    unfold insertBy
    split
    · exact List.forall_mem_cons.mpr ⟨here, there⟩
    · exact List.forall_mem_cons.mpr ⟨head, ih tail⟩

/-- The member in front keeps its place while members that are not before it are inserted. -/
theorem head?_foldl_insertBy_of_head {xs : List α} (behind : ∀ y ∈ xs, before y x = false) :
    ∀ {acc : List α}, acc.head? = some x →
      (xs.foldl (fun acc y => insertBy before y acc) acc).head? = some x := by
  induction xs with
  | nil => exact id
  | cons y rest ih =>
    obtain ⟨head, tail⟩ := List.forall_mem_cons.mp behind
    exact fun front => ih tail (head?_insertBy_of_not_before front head)

/-- A member that is before every other comes to the front, whatever was inserted ahead of it. -/
theorem head?_foldl_insertBy_of_mem {xs : List α} (mem : x ∈ xs) (first : ∀ y ∈ xs, y ≠ x → before x y = true)
    (behind : ∀ y ∈ xs, before y x = false) :
    ∀ {acc : List α}, (∀ y ∈ acc, before x y = true) →
      (xs.foldl (fun acc y => insertBy before y acc) acc).head? = some x := by
  induction xs with
  | nil => cases mem
  | cons y rest ih =>
    obtain ⟨firstHead, firstTail⟩ := List.forall_mem_cons.mp first
    obtain ⟨-, behindTail⟩ := List.forall_mem_cons.mp behind
    intro acc passed
    by_cases same : y = x
    · subst same
      exact head?_foldl_insertBy_of_head behindTail (head?_insertBy_of_first passed)
    · have later : x ∈ rest := (List.mem_cons.mp mem).resolve_left (Ne.symm same)
      exact ih later firstTail behindTail (forall_mem_insertBy (firstHead same) passed)

theorem head?_orderBy_of_least {xs : List α} (mem : x ∈ xs) (first : ∀ y ∈ xs, y ≠ x → before x y = true)
    (behind : ∀ y ∈ xs, before y x = false) : (orderBy before xs).head? = some x :=
  head?_foldl_insertBy_of_mem mem first behind (by simp)

end Order

/-! ## The oldest entry (R80) -/

theorem oldestOf_of_least {entries : List DictEntry} {old : DictEntry} (mem : old ∈ entries)
    (older : ∀ e ∈ entries, e ≠ old → old.stamp < e.stamp) : oldestOf entries = some old := by
  refine head?_orderBy_of_least mem (fun e he ne => decide_eq_true (older e he ne)) fun e he => ?_
  rw [decide_eq_false_iff_not]
  by_cases same : e = old
  · rw [same]; exact lt_irrefl _
  · exact (older e he same).asymm

section Dictionary
variable {u : Hyphenation} {old k : DictEntry} {word letters points : List Nat} {never : Bool} {origin : Origin}

theorem Hyphenation.oldestHeard_of_least (mem : old ∈ u.entries) (heard : old.origin ≠ .here)
    (older : ∀ e ∈ u.entries, e.origin ≠ .here → e ≠ old → old.stamp < e.stamp) : u.oldestHeard = some old := by
  refine oldestOf_of_least (by simp [mem, heard]) fun e he ne => ?_
  obtain ⟨he, heardToo⟩ := List.mem_filter.mp he
  exact older e he (of_decide_eq_true heardToo) ne

theorem Hyphenation.oldestHeard_of_all_here (taught : ∀ e ∈ u.entries, e.origin = .here) : u.oldestHeard = none := by
  have unheard : u.entries.filter (fun e => e.origin ≠ .here) = [] := by simpa using taught
  unfold Hyphenation.oldestHeard
  rw [unheard]
  rfl

/-! ## The entry of a word -/

theorem Hyphenation.find_eq_none_iff : u.find word = none ↔ ∀ e ∈ u.entries, e.word ≠ word := by
  simp [Hyphenation.find]

/-- Where no two entries are for one word, an entry is the one found for its word. -/
theorem Hyphenation.find_word_of_mem (distinct : (u.entries.map DictEntry.word).Nodup) (mem : k ∈ u.entries) :
    u.find k.word = some k := by
  cases found : u.find k.word with
  | none => exact absurd rfl (Hyphenation.find_eq_none_iff.mp found k mem)
  | some e =>
    have sameWord : e.word = k.word := by simpa using List.find?_some found
    rw [List.inj_on_of_nodup_map distinct (List.mem_of_find?_eq_some found) mem sameWord]

/-! ## The removal of an entry -/

theorem Hyphenation.length_remove (mem : old ∈ u.entries) : (u.remove old).entries.length + 1 = u.entries.length :=
  List.length_erase_add_one mem

theorem Hyphenation.find_remove_of_none (absent : u.find word = none) : (u.remove old).find word = none := by
  rw [Hyphenation.find_eq_none_iff] at absent ⊢
  exact fun e he => absent e (List.mem_of_mem_erase he)

theorem Hyphenation.find_remove_self (distinct : (u.entries.map DictEntry.word).Nodup) (mem : old ∈ u.entries) :
    (u.remove old).find old.word = none := by
  rw [Hyphenation.find_eq_none_iff]
  intro e he sameWord
  obtain ⟨ne, he⟩ := (distinct.of_map.mem_erase_iff).mp he
  exact ne (List.inj_on_of_nodup_map distinct he mem sameWord)

theorem Hyphenation.find_remove_of_ne (distinct : (u.entries.map DictEntry.word).Nodup) (mem : k ∈ u.entries)
    (ne : k ≠ old) : (u.remove old).find k.word = some k :=
  Hyphenation.find_word_of_mem (distinct.sublist (List.erase_sublist.map _)) ((List.mem_erase_of_ne ne).mpr mem)

/-! ## The age count (R75) -/

/-- An entry with another stamp: all that the age count ever changes of one. -/
def DictEntry.restamped (stampOf : Nat → Nat) (e : DictEntry) : DictEntry := { e with stamp := stampOf e.stamp }

/-- The age count's advance restamps the entries, with their old stamps where it does not pass its bound, and changes
nothing else of them. -/
theorem Hyphenation.exists_entries_advanceAge (u : Hyphenation) :
    ∃ stampOf, u.advanceAge.entries = u.entries.map (DictEntry.restamped stampOf) := by
  unfold Hyphenation.advanceAge
  split
  · exact ⟨id, (List.map_id _).symm⟩
  · exact ⟨rankIn (u.entries.map DictEntry.stamp), rfl⟩

theorem Hyphenation.length_advanceAge (u : Hyphenation) : u.advanceAge.entries.length = u.entries.length := by
  obtain ⟨stampOf, entries⟩ := u.exists_entries_advanceAge
  rw [entries, List.length_map]

theorem Hyphenation.exists_find_advanceAge (u : Hyphenation) (word : List Nat) :
    ∃ stampOf, u.advanceAge.find word = (u.find word).map (DictEntry.restamped stampOf) := by
  obtain ⟨stampOf, entries⟩ := u.exists_entries_advanceAge
  refine ⟨stampOf, ?_⟩
  unfold Hyphenation.find
  rw [entries, List.find?_map]
  rfl

/-! ## The insertion of an entry (R75) -/

theorem Hyphenation.length_insert (u : Hyphenation) (word : List Nat) (never : Bool) (points : List Nat)
    (origin : Origin) : (u.insert word never points origin).entries.length = u.entries.length + 1 := by
  unfold Hyphenation.insert
  rw [Hyphenation.length_advanceAge, List.length_append, List.length_singleton]

theorem Hyphenation.exists_find_insert_self (absent : u.find word = none) :
    ∃ stamp, (u.insert word never points origin).find word = some ⟨word, never, points, origin, stamp⟩ := by
  obtain ⟨stampOf, found⟩ := Hyphenation.exists_find_advanceAge
    { u with entries := u.entries ++ [⟨word, never, points, origin, u.ageCount⟩] } word
  refine ⟨stampOf u.ageCount, found.trans ?_⟩
  unfold Hyphenation.find at absent ⊢
  rw [List.find?_append, absent]
  simp [DictEntry.restamped]

theorem Hyphenation.exists_find_insert_of_ne (ne : word ≠ letters) :
    ∃ stampOf, (u.insert letters never points origin).find word =
      (u.find word).map (DictEntry.restamped stampOf) := by
  obtain ⟨stampOf, found⟩ := Hyphenation.exists_find_advanceAge
    { u with entries := u.entries ++ [⟨letters, never, points, origin, u.ageCount⟩] } word
  refine ⟨stampOf, found.trans ?_⟩
  unfold Hyphenation.find
  rw [List.find?_append]
  simp [ne.symm]

/-! ## A heard word that finds the dictionary full (R80) -/

theorem Hyphenation.learnHeard_of_full (absent : u.find letters = none) (full : u.entries.length = 400)
    (station : Nat) :
    u.learnHeard letters never points station =
      (u.oldestHeard.map fun e => (u.remove e).insert letters never points (.heard station)).getD u := by
  unfold Hyphenation.learnHeard
  rw [absent]
  dsimp only
  rw [if_neg (by simp [full, Config.dictionaryCapacity])]
  cases u.oldestHeard <;> rfl

end Dictionary

/-! ## WORD LEARNED (R78) -/

theorem exec_wordLearned (h : Header) (body : List Byte) (s : State) :
    exec (.wordLearned h body) s = execWordLearned h body s := rfl

/-- A valid word heard from another station changes the line's idle count and the dictionary alone. -/
theorem exec_wordLearned_of_readWord {h : Header} {body : List Byte} {s : State} {never : Bool}
    {letters points : List Nat} (heard : s.hears .wordLearned h = true)
    (valid : readWord body = some (never, letters, points)) (other : h.sender ≠ s.station.number) :
    exec (.wordLearned h body) s =
      .next { s with
        line := { s.line with idleBits := 0 }
        hyphenation := s.hyphenation.learnHeard letters never points h.sender } := by
  have notOwn : ¬ s.frameEnded.isOwn h = true := by simpa [State.isOwn] using other
  rw [exec_wordLearned]
  unfold execWordLearned State.hearWord
  rw [State.onFrame_of_hears heard, if_neg notOwn, valid]
  rfl

/-- Settles O35: in a full dictionary the word is inserted behind the removal of the oldest heard entry, if there is one. -/
theorem heardWordInAFullDictionary : Obligations.HeardWordInAFullDictionary := by
  intro h body s never letters points heard valid other full absent distinct
  have learned := exec_wordLearned_of_readWord heard valid other
  rw [Hyphenation.learnHeard_of_full absent full] at learned
  constructor
  · intro old mem oldHeard older
    rw [Hyphenation.oldestHeard_of_least mem oldHeard older] at learned
    obtain ⟨stamp, entered⟩ := Hyphenation.exists_find_insert_self (never := never) (points := points)
      (origin := .heard h.sender) (Hyphenation.find_remove_of_none (old := old) absent)
    have earlier : ∀ k ∈ s.hyphenation.entries, ∃ stampOf,
        ((s.hyphenation.remove old).insert letters never points (.heard h.sender)).find k.word =
          ((s.hyphenation.remove old).find k.word).map (DictEntry.restamped stampOf) :=
      fun k hk => Hyphenation.exists_find_insert_of_ne (Hyphenation.find_eq_none_iff.mp absent k hk)
    refine ⟨_, _, learned, ?length, ?removed, entered, rfl, rfl, rfl, fun k hk ne => ?kept⟩
    case length =>
      have oneLess := Hyphenation.length_remove mem
      exact (Hyphenation.length_insert ..).trans (by omega)
    case removed =>
      obtain ⟨stampOf, found⟩ := earlier old mem
      rw [Hyphenation.find_remove_self distinct mem] at found
      exact found
    case kept =>
      obtain ⟨stampOf, found⟩ := earlier k hk
      rw [Hyphenation.find_remove_of_ne distinct hk ne] at found
      exact ⟨k.restamped stampOf, found, rfl, rfl, rfl⟩
  · intro taught
    rw [Hyphenation.oldestHeard_of_all_here taught] at learned
    exact learned

end Sys2Proof.Machine
end

section
/-! The rules of the transmit queue, the want list and the store that bound their lengths: no offer, return or demand takes a
list past its capacity (R102, R171, R173). -/

namespace Sys2Proof.Machine

/-! ## Ordered lists -/

theorem length_insertBy {α : Type} (before : α → α → Bool) (x : α) (xs : List α) :
    (insertBy before x xs).length = xs.length + 1 := by
  induction xs with
  | nil => rfl
  | cons y rest ih =>
    unfold insertBy
    split
    · rfl
    · rw [List.length_cons, ih, List.length_cons]

theorem mem_insertBy {α : Type} {before : α → α → Bool} {x y : α} {xs : List α} :
    y ∈ insertBy before x xs ↔ y = x ∨ y ∈ xs := by
  induction xs with
  | nil => simp [insertBy]
  | cons z rest ih =>
    unfold insertBy
    split
    · simp
    · rw [List.mem_cons, ih, List.mem_cons, or_left_comm]

/-! ## The transmit queue (R171 to R174) -/

theorem Line.waitingReport_mem {l : Line} {owner : FrameOwner} {d : Descriptor} (h : l.waitingReport owner = some d) :
    d ∈ l.queue ∧ d.owner = owner := by
  unfold Line.waitingReport at h
  split at h
  · simpa using List.mem_of_getLast? h
  · cases h

theorem Line.displaceable_mem {l : Line} {cls : Nat} {d : Descriptor} (h : l.displaceable cls = some d) :
    d ∈ l.queue ∧ d.kind.isReport = true ∧ cls < d.kind.cls := by
  simpa [and_assoc] using List.mem_of_getLast? (show _ = some d from h)

theorem Line.enqueue_queue_length (l : Line) (d : Descriptor) : (l.enqueue d).queue.length = l.queue.length + 1 :=
  length_insertBy ..

/-- The descriptors in the queue are those that wait and the one in flight. -/
theorem Line.count_mono {l m : Line} (waiting : m.queue.length ≤ l.queue.length)
    (flight : m.flight.isSome = l.flight.isSome) : m.count ≤ l.count := by
  unfold Line.count
  rw [flight]
  omega

/-- An offer never takes the transmit queue past its capacity. -/
theorem Line.offer_count_le {l : Line} (takesPart : Bool) (kind : FrameKind) (dest : BitVec 5) (body : List Byte)
    (owner : FrameOwner) (h : l.count ≤ Config.transmitCapacity) :
    (l.offer takesPart kind dest body owner).1.count ≤ Config.transmitCapacity := by
  unfold Line.offer
  split
  · exact h
  dsimp only
  split
  · exact le_trans (Line.count_mono (l := l) (by simp) rfl) h
  split
  · rename_i room
    unfold Line.count at room ⊢
    rw [Line.enqueue_queue_length]
    show l.queue.length + 1 + (if l.flight.isSome then 1 else 0) ≤ _
    omega
  split
  · rename_i lost found
    obtain ⟨mem, -, -⟩ := Line.displaceable_mem found
    have freed := List.length_erase_add_one mem
    refine le_trans (Line.count_mono (l := l) ?_ rfl) h
    rw [Line.enqueue_queue_length]
    exact freed.le
  · exact h

theorem Line.withdraw_count_le (l : Line) (p : Descriptor → Bool) : (l.withdraw p).count ≤ l.count :=
  Line.count_mono (List.length_filter_le ..) (by simp [Line.withdraw])

theorem Line.returned_length (l : Line) (d : Descriptor) : (l.returned d).length ≤ l.queue.length + 1 := by
  unfold Line.returned
  split
  · rename_i younger found
    have freed := List.length_erase_add_one (Line.waitingReport_mem found).1
    rw [length_insertBy]
    omega
  · rw [length_insertBy]

theorem Line.lose_count_le {l : Line} {f : Flight} (flying : l.flight = some f) : (l.lose f).count ≤ l.count := by
  have back := l.returned_length f.desc
  unfold Line.lose Line.count
  rw [flying]
  dsimp only
  split
  · simp
  · simpa using back

theorem Line.contend_count (l : Line) (station : Nat) (free : l.flight = none) : (l.contend station).count = l.count := by
  unfold Line.contend Line.count
  split
  · rfl
  · rename_i d rest waiting
    simp [waiting, free]

/-! ## The want list (R102 to R104) -/

theorem FontStore.recount_wants_length (fs : FontStore) (f : Nat → Nat) :
    (fs.recount f).wants.length = fs.wants.length := by
  unfold FontStore.recount
  dsimp only
  split <;> simp [FontStore.restartDeferred]

theorem FontStore.advanceUse_wants (fs : FontStore) : fs.advanceUse.wants = fs.wants := by
  unfold FontStore.advanceUse
  split <;> rfl

theorem FontStore.stampUse_wants (fs : FontStore) (fonts : List Nat) : (fs.stampUse fonts).wants = fs.wants := by
  unfold FontStore.stampUse
  split
  · rfl
  · rw [FontStore.advanceUse_wants]

theorem FontStore.updateWant_wants_length (fs : FontStore) (font : Nat) (f : Want → Want) :
    (fs.updateWant font f).wants.length = fs.wants.length := List.length_map ..

theorem FontStore.removeWant_wants_length_le (fs : FontStore) (font : Nat) :
    (fs.removeWant font).wants.length ≤ fs.wants.length := List.length_filter_le ..

theorem FontStore.removeWant_wants_length_lt {fs : FontStore} {w : Want} (mem : w ∈ fs.wants) :
    (fs.removeWant w.font).wants.length < fs.wants.length :=
  List.length_filter_lt_length_iff_exists.mpr ⟨w, mem, by simp⟩

theorem FontStore.replaceable_mem {fs : FontStore} {w : Want} (h : fs.replaceable = some w) :
    w ∈ fs.wants ∧ w.demand = false ∧ w.state ≠ .loading := by
  simpa using List.mem_of_getLast? (show _ = some w from h)

theorem FontStore.prefetch_wants_length_le {fs : FontStore} (font : Nat)
    (h : fs.wants.length ≤ Config.wantCapacity) : (fs.prefetch font).wants.length ≤ Config.wantCapacity := by
  unfold FontStore.prefetch
  split
  · exact h
  split
  · simpa [FontStore.addWant] using ‹_ < _›
  · exact h

end Sys2Proof.Machine
end

section
/-! What an event leaves sound: the three invariants of every step (capacities, the memory's canonical form, the film
counters) carried through the operations that the blocks share, each stated once. -/

namespace Sys2Proof.Machine

variable {s t u : State}

/-! ## The lists that settling and the walks may lengthen -/

/-- The three lists that may grow behind an event, within their capacities. -/
structure State.Fits (s : State) : Prop where
  queue : s.queue.length ≤ Config.queueCapacity
  transmit : s.line.count ≤ Config.transmitCapacity
  wants : s.fonts.wants.length ≤ Config.wantCapacity

/-- Operations that leave the queue's length and the want list's length alone, and offer at most frames to the line. -/
theorem State.Fits.of_le (h : s.Fits) (queue : t.queue.length ≤ s.queue.length)
    (transmit : t.line.count ≤ Config.transmitCapacity) (wants : t.fonts.wants.length ≤ s.fonts.wants.length) : t.Fits :=
  ⟨queue.trans h.queue, transmit, wants.trans h.wants⟩

theorem State.Fits.foldl {α : Type} {f : State → α → State} (step : ∀ s a, State.Fits s → State.Fits (f s a))
    (xs : List α) (h : s.Fits) : (xs.foldl f s).Fits := by
  induction xs generalizing s with
  | nil => exact h
  | cons a xs ih => exact ih (step s a h)

theorem State.Fits.mapComposer (h : s.Fits) (f : Composer → Composer) : (s.mapComposer f).Fits :=
  ⟨h.queue, h.transmit, h.wants⟩

theorem State.Fits.mapGalleys (h : s.Fits) (f : GalleyUnit → GalleyUnit) : (s.mapGalleys f).Fits :=
  ⟨h.queue, h.transmit, h.wants⟩

theorem State.Fits.recount (h : s.Fits) : s.recount.Fits :=
  ⟨h.queue, h.transmit, (FontStore.recount_wants_length ..).trans_le h.wants⟩

theorem State.Fits.mapWants (h : s.Fits) {f : FontStore → FontStore}
    (wants : (f s.fonts).wants.length ≤ s.fonts.wants.length) : (s.mapFonts f).Fits :=
  ⟨h.queue, h.transmit, wants.trans h.wants⟩

theorem State.Fits.withdraw (h : s.Fits) (p : Descriptor → Bool) : (s.mapLine fun l => l.withdraw p).Fits :=
  ⟨h.queue, (s.line.withdraw_count_le p).trans h.transmit, h.wants⟩

theorem State.Fits.send (h : s.Fits) (kind : FrameKind) (dest : BitVec 5) (body : List Byte) (owner : FrameOwner) :
    (s.send kind dest body owner).Fits :=
  ⟨h.queue, Line.offer_count_le _ _ _ _ _ h.transmit, h.wants⟩

/-! ## Galleys held and ended -/

theorem State.Fits.report (h : s.Fits) (id : GalleyId) (event : ReportEvent) (reason : Nat) :
    (s.report id event reason).Fits := by
  unfold State.report
  split
  · exact h.send ..
  · exact h

theorem grantCredit_count_le (takesPart : Bool) (head : Option GalleyId) {b : GalleyUnit × Line} (id : GalleyId)
    (h : b.2.count ≤ Config.transmitCapacity) :
    (grantCredit takesPart head b id).2.count ≤ Config.transmitCapacity := by
  unfold grantCredit
  split
  · exact h
  dsimp only
  split
  · exact Line.offer_count_le _ _ _ _ _ h
  · exact h

theorem State.Fits.evaluateCredit (h : s.Fits) : s.evaluateCredit.Fits := by
  have fold : ∀ (ids : List GalleyId) (b : GalleyUnit × Line), b.2.count ≤ Config.transmitCapacity →
      (ids.foldl (grantCredit s.station.takesPart (s.galleys.head s.composer.galley)) b).2.count ≤
        Config.transmitCapacity := by
    intro ids
    induction ids with
    | nil => exact fun _ h => h
    | cons id ids ih => exact fun b h => ih _ (grantCredit_count_le _ _ id h)
  exact ⟨h.queue, fold _ _ h.transmit, h.wants⟩

theorem State.Fits.removeGalley (h : s.Fits) (id : GalleyId) : (s.removeGalley id).Fits :=
  (h.mapGalleys _).evaluateCredit

theorem State.Fits.finishGalley (h : s.Fits) (id : GalleyId) : (s.finishGalley id).Fits :=
  (h.report ..).removeGalley id

theorem State.Fits.enterDraining (h : s.Fits) (id : GalleyId) : (s.enterDraining id).Fits := by
  unfold State.enterDraining
  dsimp only
  split
  · exact (h.mapGalleys _).evaluateCredit
  · exact (h.mapGalleys _).evaluateCredit.finishGalley id

theorem State.Fits.releaseComposer (h : s.Fits) : s.releaseComposer.Fits :=
  State.Fits.recount ⟨h.queue, h.transmit, h.wants⟩

theorem State.Fits.freeComposer (h : s.Fits) (id : GalleyId) : (s.freeComposer id).Fits := by
  unfold State.freeComposer
  split
  · exact h.releaseComposer
  · exact h

theorem State.Fits.checkDone (h : s.Fits) (id : GalleyId) : (s.checkDone id).Fits := by
  unfold State.checkDone
  split
  · exact h
  split
  · exact h
  split
  · exact (h.freeComposer id).finishGalley id
  · exact h

theorem State.Fits.suspend (h : s.Fits) (id : GalleyId) (why : Suspension) : (s.suspend id why).Fits := by
  unfold State.suspend
  split
  · exact h
  split
  · dsimp only
    split
    · exact h.mapGalleys _
    · exact (h.mapGalleys _).report ..
  · exact h

theorem State.Fits.resume (h : s.Fits) (id : GalleyId) : (s.resume id).Fits := by
  unfold State.resume
  split
  · exact h
  split
  · dsimp only
    split
    · exact (h.report ..).enterDraining id
    split
    · exact ((h.report ..).mapGalleys _).mapComposer _
    · exact (h.report ..).mapGalleys _
  · exact h

theorem State.Fits.resumeAll (h : s.Fits) (p : Suspension → Bool) : (s.resumeAll p).Fits :=
  State.Fits.foldl (fun _ id h => h.resume id) _ h

theorem State.Fits.consumeUnit (h : s.Fits) : s.consumeUnit.Fits := by
  unfold State.consumeUnit
  split
  · exact h
  split
  · exact h
  split
  · exact h.mapGalleys _
  · exact (h.mapGalleys _).evaluateCredit

theorem State.Fits.askNext (h : s.Fits) : s.askNext.Fits := by
  unfold State.askNext
  split
  · exact h
  split
  · exact State.Fits.evaluateCredit ⟨h.queue, h.transmit, h.wants⟩
  · exact h

/-! ## The queue and settling (R63, R83, R84) -/

/-- A record is appended where there is room for it (R83). -/
theorem State.Fits.appendRecord (h : s.Fits) (room : s.queue.length < Config.queueCapacity) (r : SetLine) :
    (s.appendRecord r).Fits := by
  unfold State.appendRecord
  dsimp only
  have appended : ∀ record gu, State.Fits
      { s with queue := s.queue ++ [record], galleys := gu, fonts := s.fonts.stampUse r.fonts } := fun _ _ =>
    ⟨by simpa using room, h.transmit, (congrArg _ (s.fonts.stampUse_wants r.fonts)).trans_le h.wants⟩
  split
  · exact (appended _ _).suspend ..
  · exact appended _ _

theorem State.Fits.takeWaiting (h : s.Fits) : s.takeWaiting.Fits := by
  unfold State.takeWaiting
  split
  · split
    · rename_i room
      exact ((h.appendRecord room.2 _).mapComposer _).recount
    · exact h
  · exact h

theorem markExposure_length (queue : List QueueRecord) : (markExposure queue).length = queue.length := by
  induction queue with
  | nil => rfl
  | cons r rest ih =>
    unfold markExposure
    split
    · split
      · rfl
      · simp [ih]
    · simp [ih]

theorem markProof_length (queue : List QueueRecord) : (markProof queue).length = queue.length := by
  induction queue with
  | nil => rfl
  | cons r rest ih =>
    unfold markProof
    split
    · split
      · rfl
      · simp [ih]
    · simp [ih]

theorem State.Fits.markNotNeeded (h : s.Fits) : s.markNotNeeded.Fits :=
  ⟨((markProof_length _).trans (markExposure_length _)).trans_le h.queue, h.transmit, h.wants⟩

/-- The queue shortened, and the composer's waiting record appended. -/
theorem State.Fits.leave (h : s.Fits) {queue : List QueueRecord} (shorter : queue.length ≤ s.queue.length) :
    (State.takeWaiting (State.recount { s with queue := queue })).Fits :=
  (State.Fits.recount (s := { s with queue := queue }) ⟨shorter.trans h.queue, h.transmit, h.wants⟩).takeWaiting

theorem State.Fits.departure (h : s.Fits) (left : s.departure = some t) : t.Fits := by
  unfold State.departure at left
  split at left
  · obtain rfl := Option.some.inj left
    exact h.leave (List.length_eraseIdx_le ..)
  · split at left
    · rename_i r rest queue
      split at left
      · obtain rfl := Option.some.inj left
        exact (h.leave (by simp [queue])).checkDone _
      · cases left
    · cases left

theorem State.Fits.finishComposition (h : s.Fits) (id : GalleyId) : (s.finishComposition id).Fits := by
  unfold State.finishComposition
  dsimp only
  split
  · exact h.releaseComposer
  split
  · exact (h.releaseComposer.mapGalleys _).evaluateCredit
  · exact h.releaseComposer.enterDraining _

theorem State.Fits.perform (h : s.Fits) (g : Galley) (task : Task) (rest : List Task) : (s.perform g task rest).Fits := by
  have todo := h.mapComposer fun c => { c with todo := rest }
  cases task with
  | offer r =>
    unfold State.perform
    dsimp only
    split
    · rename_i room
      exact todo.appendRecord room r
    · exact todo.mapComposer _
  | finish => exact todo.finishComposition _
  | ask => exact todo.askNext
  | test | space | begin | close | closeLast | closeCut => exact ⟨todo.queue, todo.transmit, todo.wants⟩

theorem State.Fits.composerTask (h : s.Fits) (done : s.composerTask = some t) : t.Fits := by
  unfold State.composerTask at done
  split at done
  · obtain rfl := Option.some.inj done
    exact (h.perform ..).recount
  · cases done

theorem State.Fits.settleStep (h : s.Fits) (done : s.settleStep = some t) : t.Fits := by
  unfold State.settleStep at done
  dsimp only at done
  split at done
  · obtain rfl := Option.some.inj done
    exact h.markNotNeeded.departure ‹_›
  · exact h.markNotNeeded.composerTask done

theorem State.Fits.settle (h : s.Fits) : s.settle.Fits := by
  unfold State.settle
  generalize s.settleFuel = fuel
  induction fuel generalizing s with
  | zero => exact h.markNotNeeded
  | succ fuel ih =>
    unfold State.settleFor
    split
    · exact ih (h.settleStep ‹_›)
    · exact h.markNotNeeded

theorem State.Fits.dropRecords (h : s.Fits) (id : GalleyId) : (s.dropRecords id).Fits := by
  have shorter : (removeRecords id s.queue).length ≤ s.queue.length :=
    (List.length_filter_le ..).trans (List.length_map ..).le
  unfold State.dropRecords
  dsimp only
  split
  · exact h.leave shorter
  · exact State.Fits.recount ⟨shorter.trans h.queue, h.transmit, h.wants⟩

theorem State.Fits.abort (h : s.Fits) (id : GalleyId) (why : AbortReason) : (s.abort id why).Fits := by
  unfold State.abort
  split
  · exact h
  · exact (((h.freeComposer id).dropRecords id).send ..).removeGalley id

theorem State.Fits.applyCancel (h : s.Fits) (id : GalleyId) : (s.applyCancel id).Fits := by
  unfold State.applyCancel
  split
  · split
    · exact h.abort ..
    · exact h
  · exact h

/-! ## Demands and the examination (R102 to R104, R129, R130) -/

theorem State.Fits.suspendForFonts (h : s.Fits) : s.suspendForFonts.Fits := by
  unfold State.suspendForFonts
  split
  · exact h
  dsimp only
  split
  · exact h.suspend ..
  · exact h

theorem State.Fits.suspendForFont (h : s.Fits) (font : Nat) : (s.suspendForFont font).Fits := by
  unfold State.suspendForFont
  split
  · split
    · exact h.suspendForFonts
    · exact h
  · exact h

/-- A want entry that is replaced leaves room for another. -/
theorem State.Fits.dropWant (h : s.Fits) {w : Want} (mem : w ∈ s.fonts.wants) :
    (s.dropWant w).Fits ∧ (s.dropWant w).fonts.wants.length < Config.wantCapacity := by
  have fewer := (FontStore.removeWant_wants_length_lt mem).trans_le h.wants
  unfold State.dropWant
  dsimp only
  split
  · exact ⟨⟨h.queue, (s.line.withdraw_count_le _).trans h.transmit, fewer.le⟩, fewer⟩
  · exact ⟨⟨h.queue, h.transmit, fewer.le⟩, fewer⟩

theorem State.Fits.addWant (h : s.Fits) (room : s.fonts.wants.length < Config.wantCapacity) (font : Nat) (demand : Bool) :
    (s.mapFonts fun fs => fs.addWant font demand).Fits :=
  ⟨h.queue, h.transmit, by simpa [FontStore.addWant] using room⟩

theorem State.Fits.demandOnce (h : s.Fits) (party : Party) (font : Nat) : (s.demandOnce party font).Fits := by
  unfold State.demandOnce
  split
  · dsimp only
    have set := h.mapWants (f := fun fs => fs.updateWant font Want.demanded) (FontStore.updateWant_wants_length ..).le
    split
    · exact set.suspendForFont font
    · exact set
  split
  · exact h.addWant ‹_› ..
  split
  · rename_i found
    obtain ⟨mem, -⟩ := FontStore.replaceable_mem found
    obtain ⟨dropped, room⟩ := h.dropWant mem
    exact dropped.addWant room ..
  split
  · exact h
  · exact ⟨h.queue, h.transmit, h.wants⟩

theorem State.Fits.demandAgain (h : s.Fits) (d : Party × Nat) : (s.demandAgain d).Fits := by
  unfold State.demandAgain
  dsimp only
  split
  · exact h.mapWants le_rfl
  split
  · exact (h.demandOnce ..).mapWants le_rfl
  · exact h.demandOnce ..

theorem State.Fits.wantRemoved (h : s.Fits) : s.wantRemoved.Fits :=
  State.Fits.foldl (fun _ d h => h.demandAgain d) _ h

theorem State.Fits.raiseDemand (h : s.Fits) (party : Party) (font : Nat) : (s.raiseDemand party font).Fits := by
  unfold State.raiseDemand
  dsimp only
  split
  · exact (h.demandOnce ..).wantRemoved
  · exact h.demandOnce ..

theorem State.Fits.filmCheck (h : s.Fits) : s.filmCheck.Fits := by
  unfold State.filmCheck
  split
  · exact h
  split
  · exact h.suspend ..
  · exact h

theorem State.Fits.nextArrived (h : s.Fits) : s.nextArrived.Fits := by
  unfold State.nextArrived
  split
  · exact h
  · exact (State.Fits.foldl (fun _ f h => h.raiseDemand .exposure f) _ h).suspendForFonts.filmCheck

theorem State.Fits.filmTest (h : s.Fits) : s.filmTest.Fits := by
  have changed : ∀ f, (s.mapTransport f).Fits := fun _ => ⟨h.queue, h.transmit, h.wants⟩
  unfold State.filmTest
  split
  · exact h
  split
  · split
    · exact (changed _).suspend ..
    split
    · exact (changed _).suspend ..
    · exact h
  · exact h

theorem State.Fits.examine (h : s.Fits) (old : Option (GalleyId × Nat)) : (s.examine old).Fits := by
  have arrived : (if s.exposureNextName = old then s else s.nextArrived).Fits := by
    split
    · exact h
    · exact h.nextArrived
  have tested := arrived.filmTest
  exact ⟨tested.queue, tested.transmit, tested.wants⟩

theorem State.Fits.event {f : State → State} (h : (f s).Fits) : (s.event f).Fits := h.settle.examine _

/-! ## Steadiness: what keeps the three invariants -/

/-- From `s` to `t` the capacities and the memory's canonical form are kept. -/
structure State.Housed (s t : State) : Prop where
  capacities : s.WithinCapacities → t.WithinCapacities
  memory : s.MemoryCanonical → t.MemoryCanonical

theorem State.Housed.refl (s : State) : State.Housed s s := ⟨id, id⟩

theorem State.Housed.trans (h : State.Housed s t) (k : State.Housed t u) : State.Housed s u :=
  ⟨k.capacities ∘ h.capacities, k.memory ∘ h.memory⟩

/-- From `s` to `t` the agreement of the film counters is kept as well. -/
structure State.Steady (s t : State) : Prop extends State.Housed s t where
  film : s.FilmSound → t.FilmSound

theorem State.Steady.refl (s : State) : State.Steady s s := ⟨.refl s, id⟩

theorem State.Steady.trans (h : State.Steady s t) (k : State.Steady t u) : State.Steady s u :=
  ⟨h.toHoused.trans k.toHoused, k.film ∘ h.film⟩

theorem State.Steady.foldl {α : Type} {f : State → α → State} (step : ∀ s a, State.Steady s (f s a)) (xs : List α)
    (s : State) : State.Steady s (xs.foldl f s) := by
  induction xs generalizing s with
  | nil => exact .refl s
  | cons a xs ih => exact (step s a).trans (ih _)

/-- A command that acts under a condition alone. -/
theorem State.Steady.ite {c : Prop} [Decidable c] (h : c → State.Steady s t) : State.Steady s (if c then t else s) := by
  split
  · exact h ‹_›
  · exact .refl s

theorem State.WithinCapacities.fits (h : s.WithinCapacities) : s.Fits := ⟨h.queue, h.transmit, h.wants⟩

/-- The film counters agree where transport and exposure are as they were. -/
theorem State.FilmSound.of_eq (h : s.FilmSound) (transport : t.transport = s.transport)
    (exposure : t.imaging.exposure = s.imaging.exposure) : t.FilmSound := by
  obtain ⟨length, drawn, held, possible, stage⟩ := h
  refine ⟨?_, ?_, ?_, ?_, ?_⟩
  case refine_5 => unfold State.stageSound at stage ⊢; rwa [transport, exposure]
  all_goals rwa [transport]

/-- An IDLE transport has no move in progress. -/
theorem Transport.move_eq_none_of_not_inMotion {t : Transport} (possible : t.movePossible = true)
    (rest : t.inMotion = false) : t.move = none := by
  unfold Transport.movePossible at possible
  split at possible
  · assumption
  · simp [rest] at possible

/-- A transport at rest may change its state for another: no move in progress depends on it. -/
theorem State.FilmSound.of_state (h : s.FilmSound) (rest : s.transport.inMotion = false) {st : TransportState}
    (transport : t.transport = { s.transport with state := st })
    (exposure : t.imaging.exposure = s.imaging.exposure) : t.FilmSound := by
  have still := Transport.move_eq_none_of_not_inMotion h.possible rest
  obtain ⟨length, drawn, held, possible, stage⟩ := h
  refine ⟨?_, ?_, ?_, ?_, ?_⟩
  case refine_4 => rw [transport]; simp [Transport.movePossible, still]
  case refine_5 =>
    unfold State.stageSound Transport.leadOutKept Transport.stillToMove at stage ⊢
    rwa [transport, exposure]
  all_goals rwa [transport]

/-- What follows from an event keeps the invariants, where the lists that it may lengthen stay within their capacities. -/
theorem State.FollowUp.steady (k : State.FollowUp s t) (fits : s.Fits → t.Fits) : State.Steady s t where
  capacities h :=
    { watch := by rw [k.watch]; exact h.watch
      table := by simpa using k.held.length_le.trans (by simpa using h.table)
      queue := (fits h.fits).queue
      dictionary := by rw [k.hyphenation]; exact h.dictionary
      directory := by simpa using (congrArg List.length k.contents).trans (by simpa using h.directory)
      wants := (fits h.fits).wants
      catalog := by rw [k.catalog]; exact h.catalog
      transmit := (fits h.fits).transmit
      ring := by rw [k.ring, k.raster]; exact h.ring }
  memory h := by unfold State.MemoryCanonical; rw [k.memory]; exact h
  film h := by
    have exposure : t.imaging.exposure = s.imaging.exposure := by
      rw [k.imaging]
      unfold Imaging.watch
      split <;> rfl
    rcases k.transport with same | ⟨idle, out | full⟩
    · exact h.of_eq same exposure
    · exact h.of_state (by simp [Transport.inMotion, idle]) out exposure
    · exact h.of_state (by simp [Transport.inMotion, idle]) full exposure

theorem State.DemandKept.steady (k : State.DemandKept s t) (fits : s.Fits → t.Fits) : State.Steady s t where
  capacities h :=
    { watch := by rw [k.watch]; exact h.watch
      table := by simpa using k.held.length_le.trans (by simpa using h.table)
      queue := (fits h.fits).queue
      dictionary := by rw [k.hyphenation]; exact h.dictionary
      directory := by simpa using (congrArg List.length k.contents).trans (by simpa using h.directory)
      wants := (fits h.fits).wants
      catalog := by rw [k.catalog]; exact h.catalog
      transmit := (fits h.fits).transmit
      ring := by rw [k.proofer]; exact h.ring }
  memory h := by unfold State.MemoryCanonical; rw [k.memory]; exact h
  film h := h.of_eq k.transport (by rw [k.imaging])

theorem State.MachineryKept.steady (k : State.MachineryKept s t) (fits : s.Fits → t.Fits) : State.Steady s t :=
  k.demandKept.steady fits

/-- An event keeps the invariants where its own effect does. -/
theorem State.Steady.event {f : State → State} (h : State.Steady s (f s)) : State.Steady s (s.event f) :=
  h.trans ((s.event_followUp f).steady State.Fits.event)

theorem State.Steady.settle (s : State) : State.Steady s s.settle := s.settle_kept.steady State.Fits.settle

theorem State.Steady.applyCancel (s : State) (id : GalleyId) : State.Steady s (s.applyCancel id) :=
  (s.applyCancel_kept id).steady fun h => h.applyCancel id

theorem State.Steady.suspend (s : State) (id : GalleyId) (why : Suspension) : State.Steady s (s.suspend id why) :=
  (s.suspend_kept id why).steady fun h => h.suspend id why

end Sys2Proof.Machine
end

section
/-! Every command keeps every list within its capacity, the block store's memory canonical and the film counters in
agreement: the blocks' changes first, then the commands that do not move the film. -/

namespace Sys2Proof.Machine

variable {s t u : State}

/-! ## A block replaced -/

/-- The bounds of the font store's lists and its memory's form carried from `a` to `b`. -/
structure FontStore.Housed (a b : FontStore) : Prop where
  memory : Memory.wf a.memory → Memory.wf b.memory
  directory : b.directory.length = a.directory.length
  wants : a.wants.length ≤ Config.wantCapacity → b.wants.length ≤ Config.wantCapacity
  catalog : a.catalog.length ≤ Config.catalogCapacity → b.catalog.length ≤ Config.catalogCapacity

theorem FontStore.Housed.refl (a : FontStore) : FontStore.Housed a a := ⟨id, rfl, id, id⟩

theorem FontStore.Housed.trans {a b c : FontStore} (h : FontStore.Housed a b) (k : FontStore.Housed b c) :
    FontStore.Housed a c :=
  ⟨k.memory ∘ h.memory, k.directory.trans h.directory, k.wants ∘ h.wants, k.catalog ∘ h.catalog⟩

theorem State.Steady.withFonts {fs : FontStore} (h : FontStore.Housed s.fonts fs) :
    State.Steady s { s with fonts := fs } where
  capacities k :=
    { k with
      directory := h.directory.trans k.directory
      wants := h.wants k.wants
      catalog := h.catalog k.catalog }
  memory k := h.memory k
  film k := k.of_eq rfl rfl

theorem State.Steady.withLine {l : Line} (h : s.line.count ≤ Config.transmitCapacity → l.count ≤ Config.transmitCapacity) :
    State.Steady s { s with line := l } where
  capacities k := { k with transmit := h k.transmit }
  memory := id
  film k := k.of_eq rfl rfl

theorem State.Steady.withGalleys {gu : GalleyUnit}
    (watch : s.galleys.watch.length ≤ Config.watchCapacity → gu.watch.length ≤ Config.watchCapacity)
    (table : s.galleys.table.length ≤ Config.tableCapacity → gu.table.length ≤ Config.tableCapacity) :
    State.Steady s { s with galleys := gu } where
  capacities k := { k with watch := watch k.watch, table := table k.table }
  memory := id
  film k := k.of_eq rfl rfl

theorem State.Steady.withComposer {c : Composer} {gu : GalleyUnit}
    (watch : s.galleys.watch.length ≤ Config.watchCapacity → gu.watch.length ≤ Config.watchCapacity)
    (table : s.galleys.table.length ≤ Config.tableCapacity → gu.table.length ≤ Config.tableCapacity) :
    State.Steady s { s with composer := c, galleys := gu } where
  capacities k := { k with watch := watch k.watch, table := table k.table }
  memory := id
  film k := k.of_eq rfl rfl

theorem State.Steady.withHyphenation {hy : Hyphenation}
    (h : s.hyphenation.entries.length ≤ Config.dictionaryCapacity → hy.entries.length ≤ Config.dictionaryCapacity) :
    State.Steady s { s with hyphenation := hy } where
  capacities k := { k with dictionary := h k.dictionary }
  memory := id
  film k := k.of_eq rfl rfl

theorem State.Steady.withQueue {queue : List QueueRecord} (h : queue.length = s.queue.length) :
    State.Steady s { s with queue := queue } where
  capacities k := { k with queue := h.trans_le k.queue }
  memory := id
  film k := k.of_eq rfl rfl

/-- The rows in the ring with those still to be written stay within it (R154, R155). -/
def Proofer.Fits (p : Proofer) : Prop :=
  match p.raster with
  | some r => r.rows < Config.bandRows ∧ p.ring.length + (Config.bandRows - r.rows) ≤ Config.ringRows
  | none => p.ring.length ≤ Config.ringRows

theorem State.Steady.withProofer {p : Proofer} (h : s.proofer.Fits → p.Fits) :
    State.Steady s { s with proofer := p } where
  capacities k := { k with ring := h k.ring }
  memory := id
  film k := k.of_eq rfl rfl

theorem State.Steady.withImaging {i : Imaging} (h : i.exposure = s.imaging.exposure) :
    State.Steady s { s with imaging := i } where
  capacities k := { k with }
  memory := id
  film k := k.of_eq rfl h

/-- A galley record changed, or no record changed. -/
theorem State.Steady.updateGalley (s : State) (id : GalleyId) (f : Galley → Galley) :
    State.Steady s { s with galleys := s.galleys.update id f } :=
  .withGalleys (fun h => h) fun h => (List.length_map ..).trans_le h

theorem State.Steady.mapComposer (s : State) (f : Composer → Composer) : State.Steady s (s.mapComposer f) :=
  (s.mapComposer_kept f).steady fun h => h.mapComposer f

theorem State.Steady.recount (s : State) : State.Steady s s.recount := s.recount_kept.steady State.Fits.recount

theorem State.Steady.send (s : State) (kind : FrameKind) (dest : BitVec 5) (body : List Byte) (owner : FrameOwner) :
    State.Steady s (s.send kind dest body owner) :=
  (s.send_kept ..).steady fun h => h.send ..

theorem State.Steady.report (s : State) (id : GalleyId) (event : ReportEvent) (reason : Nat) :
    State.Steady s (s.report id event reason) :=
  (s.report_kept ..).steady fun h => h.report ..

theorem State.Steady.evaluateCredit (s : State) : State.Steady s s.evaluateCredit :=
  s.evaluateCredit_kept.steady State.Fits.evaluateCredit

theorem State.Steady.consumeUnit (s : State) : State.Steady s s.consumeUnit :=
  s.consumeUnit_kept.steady State.Fits.consumeUnit

theorem State.Steady.askNext (s : State) : State.Steady s s.askNext := s.askNext_kept.steady State.Fits.askNext

theorem State.Steady.releaseComposer (s : State) : State.Steady s s.releaseComposer :=
  s.releaseComposer_kept.steady State.Fits.releaseComposer

theorem State.Steady.resumeAll (s : State) (p : Suspension → Bool) : State.Steady s (s.resumeAll p) :=
  (s.resumeAll_kept p).steady fun h => h.resumeAll p

theorem State.Steady.abort (s : State) (id : GalleyId) (why : AbortReason) : State.Steady s (s.abort id why) :=
  (s.abort_kept id why).steady fun h => h.abort id why

theorem State.Steady.raiseDemand (s : State) (party : Party) (font : Nat) : State.Steady s (s.raiseDemand party font) :=
  (s.raiseDemand_demandKept party font).steady fun h => h.raiseDemand party font

theorem State.Steady.withdraw (s : State) (p : Descriptor → Bool) :
    State.Steady s (s.mapLine fun l => l.withdraw p) :=
  .withLine fun h => (s.line.withdraw_count_le p).trans h

/-! ## The results of commands -/

/-- A command's result is a next state that keeps the invariants. -/
def Result.SteadyFrom (s : State) : Result → Prop
  | .next t => State.Steady s t
  | _ => True

/-- A frame read to its end, heard or not. -/
theorem State.Steady.onFrame (kind : FrameKind) (h : Header) {block : State → State}
    (steady : ∀ s, State.Steady s (block s)) : State.Steady s (s.onFrame kind h block) := by
  have ended : State.Steady s s.frameEnded := .withLine id
  unfold State.onFrame
  split
  · exact ended.trans (steady _)
  · exact ended

/-! ## The setting units -/

theorem State.Steady.takeUnit (s : State) (i : Instr) (f : Composer → Composer) : State.Steady s (s.takeUnit i f) :=
  .ite fun _ => ((State.Steady.consumeUnit s).trans (.mapComposer _ f)).trans (.askNext _)

theorem State.Steady.work (s : State) (tasks : List Task) : State.Steady s (s.work tasks) :=
  (State.Steady.mapComposer s fun c => { c with todo := tasks }).event

theorem State.Steady.takeTasks (s : State) (i : Instr) (tasks : List Task) : State.Steady s (s.takeTasks i tasks) :=
  .ite fun _ => (State.Steady.consumeUnit s).trans (.work _ tasks)

theorem State.Steady.setCharacter (s : State) (code font : Nat) (substituted : Bool) :
    State.Steady s (s.setCharacter code font substituted) := by
  have consumed := State.Steady.consumeUnit s
  unfold State.setCharacter
  dsimp only
  split
  · exact (consumed.trans (.mapComposer ..)).trans (.askNext _)
  split
  · exact consumed.trans (.work ..)
  · exact ((consumed.trans (.mapComposer ..)).trans (.recount _)).trans (.askNext _)

theorem State.Steady.holdComposer (s : State) (id : GalleyId) (font : Nat) : State.Steady s (s.holdComposer id font) :=
  (State.Steady.suspend s id _).trans (.mapComposer ..)

theorem State.Steady.waitForFont (s : State) (font : Nat) : State.Steady s (s.waitForFont font) :=
  (State.Steady.raiseDemand s .composer font).trans (.mapComposer ..)

theorem State.Steady.applyPolicy {g : Galley} {font : Nat} (stays : s.applyPolicy g font = .stay t) :
    State.Steady s t := by
  unfold State.applyPolicy at stays
  split at stays
  · cases stays
    exact .holdComposer ..
  split at stays
  · cases stays
  split at stays
  · cases stays
    exact (State.Steady.raiseDemand ..).trans (.holdComposer ..)
  · cases stays
    exact .waitForFont ..

theorem State.Steady.checkFont (s : State) (g : Galley) (code : Nat) : State.Steady s (s.checkFont g code) := by
  unfold State.checkFont
  dsimp only
  split
  · exact .setCharacter ..
  split
  · have raised := State.Steady.raiseDemand s .composer s.composer.params.font
    split
    · exact raised.trans (.setCharacter ..)
    · exact raised.trans (.applyPolicy ‹_›)
  · exact .waitForFont ..

theorem State.Steady.takeCharacter (s : State) (g : Galley) (code : Nat) : State.Steady s (s.takeCharacter g code) := by
  have consumed := State.Steady.consumeUnit s
  unfold State.takeCharacter
  split
  · exact (consumed.trans (.mapComposer _ fun c =>
      { c with params := { c.params with learn := c.params.learn.map fun w => w.take code } })).trans (.askNext _)
  split
  · exact consumed.trans (.work ..)
  · exact .checkFont ..

theorem execCharacterUnit_steady (code : Nat) (s : State) : (execCharacterUnit code s).SteadyFrom s := by
  unfold execCharacterUnit
  split
  · exact .ite fun _ => .takeCharacter ..
  · exact .refl s

/-! ## The dictionary (R75, R76, R79, R80) -/

theorem Hyphenation.length_replace (u : Hyphenation) (word : List Nat) (never : Bool) (points : List Nat)
    (origin : Origin) : (u.replace word never points origin).entries.length = u.entries.length := by
  unfold Hyphenation.replace
  rw [Hyphenation.length_advanceAge, List.length_map]

theorem oldestOf_mem {entries : List DictEntry} {e : DictEntry} (h : oldestOf entries = some e) : e ∈ entries := by
  have ordered : ∀ xs acc : List DictEntry,
      e ∈ xs.foldl (fun acc x => insertBy (fun a b : DictEntry => a.stamp < b.stamp) x acc) acc → e ∈ xs ∨ e ∈ acc := by
    intro xs
    induction xs with
    | nil => exact fun acc h => .inr h
    | cons x xs ih =>
      intro acc h
      rcases ih _ h with h | h
      · exact .inl (List.mem_cons_of_mem _ h)
      · rcases mem_insertBy.mp h with rfl | h
        · exact .inl List.mem_cons_self
        · exact .inr h
  exact (ordered entries [] (List.mem_of_mem_head? h)).resolve_right List.not_mem_nil

theorem Hyphenation.oldestHeard_mem {u : Hyphenation} {e : DictEntry} (h : u.oldestHeard = some e) : e ∈ u.entries :=
  (List.mem_filter.mp (oldestOf_mem h)).1

theorem Hyphenation.oldestLocal_mem {u : Hyphenation} {e : DictEntry} (h : u.oldestLocal = some e) : e ∈ u.entries :=
  (List.mem_filter.mp (oldestOf_mem h)).1

/-- An entry that takes another's place leaves the dictionary as long as it was. -/
theorem Hyphenation.length_insert_remove {u : Hyphenation} {e : DictEntry} (mem : e ∈ u.entries) (word : List Nat)
    (never : Bool) (points : List Nat) (origin : Origin) :
    ((u.remove e).insert word never points origin).entries.length = u.entries.length :=
  (Hyphenation.length_insert ..).trans (Hyphenation.length_remove mem)

/-- A word taught at the station never takes the dictionary past its capacity. -/
theorem Hyphenation.length_learnLocal_le {u : Hyphenation} (word : List Nat) (never : Bool) (points : List Nat)
    (h : u.entries.length ≤ Config.dictionaryCapacity) :
    (u.learnLocal word never points).entries.length ≤ Config.dictionaryCapacity := by
  unfold Hyphenation.learnLocal
  split
  · rwa [Hyphenation.length_replace]
  split
  · rw [Hyphenation.length_insert]
    omega
  split
  · rwa [Hyphenation.length_insert_remove (Hyphenation.oldestHeard_mem ‹_›)]
  split
  · rwa [Hyphenation.length_insert_remove (Hyphenation.oldestLocal_mem ‹_›)]
  · exact h

/-- A heard word never takes the dictionary past its capacity. -/
theorem Hyphenation.length_learnHeard_le {u : Hyphenation} (word : List Nat) (never : Bool) (points : List Nat)
    (station : Nat) (h : u.entries.length ≤ Config.dictionaryCapacity) :
    (u.learnHeard word never points station).entries.length ≤ Config.dictionaryCapacity := by
  unfold Hyphenation.learnHeard
  split
  · split
    · exact h
    · rwa [Hyphenation.length_replace]
  split
  · rw [Hyphenation.length_insert]
    omega
  split
  · rwa [Hyphenation.length_insert_remove (Hyphenation.oldestHeard_mem ‹_›)]
  · exact h

theorem execEndLearn_steady (s : State) : (execEndLearn s).SteadyFrom s := by
  refine .ite fun _ => ?_
  have consumed := State.Steady.consumeUnit s
  have closed : State.Steady s.consumeUnit s.consumeUnit.closeLearn := by
    unfold State.closeLearn
    dsimp only
    have open_ := State.Steady.mapComposer s.consumeUnit fun c => { c with params := { c.params with learn := none } }
    split
    · exact (open_.trans (.withHyphenation (Hyphenation.length_learnLocal_le _ _ _))).trans (.send ..)
    · exact open_
  exact (consumed.trans closed).trans (.askNext _)

theorem execEndGalley_steady (s : State) : (execEndGalley s).SteadyFrom s := by
  unfold execEndGalley
  split
  · exact .ite fun _ => ((State.Steady.updateGalley s _ _).trans (.consumeUnit _)).trans (.work ..)
  · exact .refl s

theorem execWordLearned_steady (h : Header) (body : List Byte) (s : State) :
    (execWordLearned h body s).SteadyFrom s := by
  refine .onFrame _ _ fun s => ?_
  unfold State.hearWord
  split
  · exact .refl s
  split
  · exact .withHyphenation (Hyphenation.length_learnHeard_le _ _ _ _)
  · exact .refl s

/-! ## The line interface -/

theorem execContentionOpportunity_steady (other : Bool) (s : State) :
    (execContentionOpportunity other s).SteadyFrom s := by
  unfold execContentionOpportunity
  split
  · exact .refl s
  · rename_i busy
    have free : s.line.flight = none := by simpa using busy
    refine .withLine fun h => ?_
    dsimp only
    split
    · exact (Line.contend_count _ _ (by exact free)).trans_le h
    split <;> exact h

/-! ## The galley unit -/

theorem State.Steady.dropWatch (s : State) (id : GalleyId) : State.Steady s (s.dropWatch id) := by
  unfold State.dropWatch
  split
  · exact .refl s
  · dsimp only
    have removed : ∀ s : State, State.Steady s (s.mapGalleys fun gu => gu.removeWatch id) := fun _ =>
      .withGalleys (List.length_filter_le ..).trans (fun h => h)
    split
    · exact (State.Steady.withdraw ..).trans (removed _)
    · exact removed s

theorem State.Steady.settleWatch (s : State) (id : GalleyId) : State.Steady s (s.settleWatch id) :=
  .withGalleys (fun h => (List.length_map ..).trans_le h) (fun h => h)

theorem State.Steady.hearPosting (s : State) (p : Posting) : State.Steady s (s.hearPosting p) := by
  unfold State.hearPosting
  split
  · refine .ite fun may => .withGalleys (fun _ => ?_) id
    obtain ⟨-, taken⟩ := may
    have room : s.galleys.watch.length < Config.watchCapacity := by
      simp only [State.canTake, Bool.and_eq_true, decide_eq_true_eq] at taken
      tauto
    simpa using room
  · exact .refl s

theorem execClaimDelayExpiry_steady (id : GalleyId) (s : State) : (execClaimDelayExpiry id s).SteadyFrom s := by
  unfold execClaimDelayExpiry
  split
  · split
    · have offered : State.Steady s (s.send .galleyClaim 0 (claimBody id) (.claim id)) := .send ..
      exact offered.trans (.withGalleys (fun h => (List.length_map ..).trans_le h) (fun h => h))
    · exact .refl s
  · exact .refl s

theorem FontStore.Housed.prefetch (fs : FontStore) (font : Nat) : FontStore.Housed fs (fs.prefetch font) where
  memory h := by unfold FontStore.prefetch; split_ifs <;> exact h
  directory := by unfold FontStore.prefetch; split_ifs <;> rfl
  wants h := FontStore.prefetch_wants_length_le font h
  catalog h := by unfold FontStore.prefetch; split_ifs <;> exact h

theorem FontStore.Housed.foldl {f : FontStore → Nat → FontStore} (step : ∀ fs n, FontStore.Housed fs (f fs n))
    (xs : List Nat) (fs : FontStore) : FontStore.Housed fs (xs.foldl f fs) := by
  induction xs generalizing fs with
  | nil => exact .refl fs
  | cons n xs ih => exact (step fs n).trans (ih _)

theorem State.Steady.hearOwnClaim (s : State) (w : WatchEntry) : State.Steady s (s.hearOwnClaim w) := by
  refine .ite fun may => ?_
  obtain ⟨-, room⟩ := may
  have held : State.Steady s (s.mapGalleys fun gu =>
      { gu.removeWatch w.id with table := gu.table ++ [w.record gu.claimCount], claimCount := gu.claimCount + 1 }) :=
    .withGalleys (List.length_filter_le ..).trans fun _ => by simpa using room
  exact ((held.trans (.report ..)).trans (.evaluateCredit _)).trans (.withFonts (.foldl .prefetch _ _))

theorem State.Steady.hearOtherClaim (s : State) (w : WatchEntry) : State.Steady s (s.hearOtherClaim w) := by
  unfold State.hearOtherClaim
  dsimp only
  split
  · exact (State.Steady.withdraw ..).trans (.settleWatch ..)
  · exact .settleWatch ..

theorem execGalleyClaim_steady (h : Header) (id : GalleyId) (s : State) : (execGalleyClaim h id s).SteadyFrom s := by
  refine .onFrame _ _ fun s => ?_
  split
  · exact .refl s
  split
  · exact .hearOwnClaim ..
  · exact .hearOtherClaim ..

theorem execGalleyCancel_steady (h : Header) (id : GalleyId) (s : State) : (execGalleyCancel h id s).SteadyFrom s := by
  refine .onFrame _ _ fun s => ?_
  split
  · split
    · exact .refl s
    split
    · unfold State.pendCancel
      dsimp only
      split
      · exact ((State.Steady.updateGalley s _ _).trans (.releaseComposer _)).trans (.evaluateCredit _)
      · exact .updateGalley ..
    · exact (State.Steady.abort ..).event
  · exact .dropWatch ..

theorem execTextSegment_steady (h : Header) (id : GalleyId) (number : Nat) (units : List CodeWord) (s : State) :
    (execTextSegment h id number units s).SteadyFrom s := by
  refine .onFrame _ _ fun s => ?_
  unfold State.hearSegment
  split
  · exact .refl s
  split
  · exact .refl s
  split
  · have stored := State.Steady.updateGalley s id fun g =>
      { g with segments := g.segments ++ [units], nextSegment := g.nextSegment + 1 }
    unfold State.storeSegment
    dsimp only
    split
    · exact stored.trans (.withComposer (fun h => h) fun h => h)
    · exact stored
  · exact (State.Steady.abort ..).event

theorem execTextTimeout_steady (s : State) : (execTextTimeout s).SteadyFrom s := by
  unfold execTextTimeout
  split
  · refine State.Steady.event ?_
    unfold State.abortUnlessCancelled
    split
    · split
      · exact .refl s
      · exact .abort ..
    · exact .refl s
  · exact .refl s

theorem execProofWanted_steady (h : Header) (id : GalleyId) (first last : Nat) (s : State) :
    (execProofWanted h id first last s).SteadyFrom s := by
  refine .onFrame _ _ fun s => ?_
  unfold State.hearProofWanted
  split
  · split
    · exact .updateGalley ..
    · exact .report ..
  · exact .send ..

theorem execComposerTakesHead_steady (s : State) : (execComposerTakesHead s).SteadyFrom s := by
  unfold execComposerTakesHead
  split
  · split
    · split
      · rename_i g _
        have taken : State.Steady s
            { s with
              composer := Composer.start g
              galleys := s.galleys.update g.id fun g => { g with state := .composing } } :=
          (State.Steady.mapComposer s fun _ => Composer.start g).trans (.updateGalley ..)
        exact ((taken.trans (.report ..)).trans (.evaluateCredit _)).trans (.askNext _)
      · exact .refl s
    · exact .refl s
  · exact .refl s

end Sys2Proof.Machine
end

section
/-! Every command of the font store, of its two channels and of the proof controller keeps the capacities, the memory's
canonical form and the film counters. -/

namespace Sys2Proof.Machine

variable {s t u : State}

/-! ## The font store's operations -/

/-- A change that reaches neither the memory nor the directory nor the catalog, and adds no want entry. -/
theorem FontStore.Housed.of_same {a b : FontStore} (memory : b.memory = a.memory)
    (directory : b.directory.length = a.directory.length) (wants : b.wants.length ≤ a.wants.length)
    (catalog : b.catalog = a.catalog) : FontStore.Housed a b :=
  ⟨fun h => memory ▸ h, directory, wants.trans, fun h => catalog ▸ h⟩

theorem FontStore.Housed.updateWant (fs : FontStore) (font : Nat) (f : Want → Want) :
    FontStore.Housed fs (fs.updateWant font f) :=
  .of_same rfl rfl (fs.updateWant_wants_length font f).le rfl

theorem FontStore.Housed.updateEntry (fs : FontStore) (font : Nat) (f : DirEntry → DirEntry) :
    FontStore.Housed fs (fs.updateEntry font f) :=
  .of_same rfl (List.length_map ..) le_rfl rfl

theorem FontStore.Housed.withInbound (fs : FontStore) (i : Inbound) : FontStore.Housed fs { fs with inbound := i } :=
  .of_same rfl rfl le_rfl rfl

theorem FontStore.Housed.restartDeferred (fs : FontStore) : FontStore.Housed fs fs.restartDeferred :=
  .of_same rfl rfl (List.length_map ..).le rfl

theorem FontStore.Housed.endAttempt (fs : FontStore) (font : Nat) : FontStore.Housed fs (fs.endAttempt font) :=
  .of_same rfl (List.length_map ..) (List.length_map ..).le rfl

theorem FontStore.Housed.storeBlock (fs : FontStore) (font : Nat) (data : List Byte) :
    FontStore.Housed fs (fs.storeBlock font data) where
  memory h := FontStore.storeBlock_wf h font data
  directory := by unfold FontStore.storeBlock; split <;> simp [FontStore.updateEntry]
  wants h := by unfold FontStore.storeBlock; split <;> exact h
  catalog h := by unfold FontStore.storeBlock; split <;> exact h

theorem FontStore.Housed.of_kept {a b : FontStore} (h : FontStore.Kept a b) (wants : b.wants.length ≤ a.wants.length) :
    FontStore.Housed a b :=
  .of_same h.memory (by simpa using congrArg List.length h.contents) wants h.catalog

theorem FontStore.Housed.stampUse (fs : FontStore) (fonts : List Nat) : FontStore.Housed fs (fs.stampUse fonts) :=
  .of_kept (fs.stampUse_kept fonts) (by rw [FontStore.stampUse_wants])

theorem FontStore.Housed.advanceUse (fs : FontStore) : FontStore.Housed fs fs.advanceUse :=
  .of_kept fs.advanceUse_kept (by rw [FontStore.advanceUse_wants])

theorem FontStore.Housed.evict (fs : FontStore) (index : Nat) : FontStore.Housed fs (fs.evict index) :=
  .of_same rfl (List.length_set ..) le_rfl rfl

theorem FontStore.Housed.makeRoom {k : Nat} {entryNeeded : Bool} {candidates : List Nat} {fs made : FontStore}
    (h : FontStore.makeRoom k entryNeeded candidates fs = some made) : FontStore.Housed fs made := by
  induction candidates generalizing fs with
  | nil =>
    unfold FontStore.makeRoom at h
    split at h <;> cases h
    exact .refl _
  | cons index rest ih =>
    unfold FontStore.makeRoom at h
    split at h
    · cases h
      exact .refl _
    · exact (FontStore.Housed.evict ..).trans (ih h)

theorem FontStore.Housed.allocateNew (fs : FontStore) (font total : Nat) (lendable : Bool) :
    FontStore.Housed fs (fs.allocateNew font total lendable) := by
  unfold FontStore.allocateNew
  split
  · refine FontStore.Housed.trans ?_ (.advanceUse _)
    exact .of_same rfl (List.length_set ..) le_rfl rfl
  · exact .refl fs

theorem FontStore.Housed.allocate {fs made : FontStore} {font total : Nat} {lendable : Bool}
    (h : fs.allocate font total lendable = some made) : FontStore.Housed fs made := by
  unfold FontStore.allocate at h
  split at h
  all_goals
    obtain ⟨roomy, evicted, rfl⟩ := Option.map_eq_some_iff.mp h
    have room := FontStore.Housed.makeRoom evicted
    dsimp only
    split
  · exact room.trans (.allocateNew ..)
  · exact (room.trans (.allocateNew ..)).trans (.restartDeferred _)
  · exact room.trans (.updateEntry ..)
  · exact (room.trans (.updateEntry ..)).trans (.restartDeferred _)

/-! ## What a font's coming or being given up brings about -/

theorem State.Steady.composerGivenUp (s : State) (font : Nat) : State.Steady s (s.composerGivenUp font) := by
  unfold State.composerGivenUp
  split
  · split
    · exact .refl s
    split
    · exact .holdComposer ..
    split
    · exact .mapComposer ..
    · exact .applyPolicy ‹_›
  · exact .refl s

theorem State.Steady.suspendForFont (s : State) (font : Nat) : State.Steady s (s.suspendForFont font) :=
  (s.suspendForFont_kept font).steady fun h => h.suspendForFont font

theorem State.Steady.giveUp (s : State) (font : Nat) : State.Steady s (s.giveUp font) :=
  ((State.Steady.withFonts (.updateWant s.fonts font Want.givenUp)).trans (.composerGivenUp _ font)).trans
    (.suspendForFont _ font)

theorem State.Steady.countFailure (s : State) (font : Nat) : State.Steady s (s.countFailure font) := by
  have failed : State.Steady s (s.mapFonts fun fs => fs.updateWant font Want.failed) :=
    .withFonts (.updateWant ..)
  unfold State.countFailure
  dsimp only
  split
  · exact failed.trans (.giveUp ..)
  · exact failed

theorem State.Steady.endLineAttempt (s : State) (font : Nat) : State.Steady s (s.endLineAttempt font) :=
  (State.Steady.withFonts ((FontStore.Housed.endAttempt s.fonts font).trans (.withInbound _ _))).trans
    (.countFailure _ font)

theorem State.Steady.fontArrived (s : State) (font : Nat) : State.Steady s (s.fontArrived font) := by
  unfold State.fontArrived
  dsimp only
  split
  · exact (State.Steady.mapComposer ..).trans (.resumeAll ..)
  · exact .resumeAll ..

theorem State.Steady.wantRemoved (s : State) : State.Steady s s.wantRemoved :=
  s.wantRemoved_demandKept.steady State.Fits.wantRemoved

theorem State.Steady.blockStored (s : State) (font : Nat) (data : List Byte) :
    State.Steady s (s.blockStored font data) := by
  have stored : State.Steady s (s.mapFonts fun fs => fs.storeBlock font data) := .withFonts (.storeBlock ..)
  unfold State.blockStored
  dsimp only
  split
  · exact stored
  split
  · refine ((stored.trans ?_).trans (.fontArrived ..)).trans (.wantRemoved _)
    exact .withFonts (.of_same rfl rfl (FontStore.removeWant_wants_length_le ..) rfl)
  split
  · exact stored.trans (.fontArrived ..)
  · exact stored

/-! ## The two channels -/

theorem State.Steady.mapInbound (s : State) (f : Inbound → Inbound) : State.Steady s (s.mapInbound f) :=
  .withFonts (.withInbound ..)

theorem State.Steady.mapOutbound (s : State) (f : Outbound → Outbound) : State.Steady s (s.mapOutbound f) :=
  .withFonts (.of_same rfl rfl le_rfl rfl)

theorem State.Steady.releaseLoan (s : State) : State.Steady s s.releaseLoan :=
  ((State.Steady.withdraw s Descriptor.isLoanOffer).trans (.mapOutbound _ fun _ => Outbound.rest)).trans (.recount _)

theorem State.Steady.queueLoanFrame (s : State) : State.Steady s s.queueLoanFrame := by
  unfold State.queueLoanFrame
  split
  · exact .mapOutbound ..
  rename_i kind dest body _
  split
  · exact .mapOutbound ..
  have offered : State.Steady s (s.send kind dest body .outbound) := .send ..
  dsimp only
  split
  · exact offered.trans (.mapOutbound ..)
  split
  · exact offered.trans (.releaseLoan _)
  · exact offered.trans (.mapOutbound ..)

theorem State.Steady.offerDueFrame (s : State) : State.Steady s s.offerDueFrame := .ite fun _ => .queueLoanFrame s

theorem State.Steady.blockLeft (s : State) : State.Steady s s.blockLeft := by
  unfold State.blockLeft
  dsimp only
  split
  · split
    · split
      · exact (State.Steady.mapOutbound ..).trans (.queueLoanFrame _)
      · exact .releaseLoan s
    · exact .releaseLoan s
  · exact .refl s

theorem State.Steady.queueAsk (s : State) (font : Nat) : State.Steady s (s.queueAsk font) := by
  have offered : State.Steady s (s.send .fontWanted 0 (fontWantedBody font) .inbound) := .send ..
  have asked := offered.trans (.mapInbound _ fun i => { i with askDue := false })
  unfold State.queueAsk
  dsimp only
  split
  · exact asked
  · exact asked.trans (.withFonts ((FontStore.Housed.updateWant ..).trans (.withInbound ..)))

theorem State.Steady.askLine (s : State) (w : Want) : State.Steady s (s.askLine w) := by
  have served : State.Steady s (s.mapFonts fun fs =>
      { (fs.serve w.font).updateWant w.font fun w => { w with state := .asking, timer := none } with
        inbound := { Inbound.rest with askDue := true } }) :=
    .withFonts (((FontStore.Housed.updateWant ..).trans (.updateWant ..)).trans (.withInbound ..))
  unfold State.askLine
  dsimp only
  split
  · exact served
  · exact served.trans (.queueAsk ..)

theorem State.Steady.defer (s : State) (font : Nat) : State.Steady s (s.defer font) :=
  .withFonts ((FontStore.Housed.updateWant ..).trans (.withInbound ..))

theorem State.Steady.loadCartridge (s : State) (w : Want) (c : CatalogEntry) : State.Steady s (s.loadCartridge w c) := by
  have served : State.Steady s (s.mapFonts fun fs => fs.serve w.font) := .withFonts (.updateWant ..)
  unfold State.loadCartridge
  dsimp only
  split
  · exact served.trans (.defer ..)
  · exact served.trans
      (.withFonts (((FontStore.Housed.allocate ‹_›).trans (.updateWant ..)).trans (.withInbound ..)))

theorem State.Steady.queueTake (s : State) : State.Steady s s.queueTake := by
  have offered : State.Steady s (s.send .fontTake 0
      (fontTakeBody s.fonts.inbound.font s.fonts.inbound.lender s.fonts.inbound.next) .inbound) := .send ..
  have taken := offered.trans (.mapInbound _ fun i => { i with takeDue := false })
  unfold State.queueTake
  dsimp only
  split
  · exact taken
  · exact taken.trans (.endLineAttempt ..)

theorem State.Steady.takeOffer (s : State) (w : Want) (lender total : Nat) :
    State.Steady s (s.takeOffer w lender total) := by
  unfold State.takeOffer
  split
  · exact .defer ..
  · have loading := State.Steady.withFonts (s := s)
      (((FontStore.Housed.allocate ‹_›).trans (.updateWant _ w.font fun w => { w with state := .loading, timer := none })).trans
        (.withInbound _ { Inbound.rest with
          mode := .lineLoad, font := w.font, lender := lender, next := w.firstBlock, total := total, takeDue := true }))
    dsimp only
    split
    · exact loading
    · exact loading.trans (.queueTake _)

theorem State.Steady.inboundLeft (s : State) (f : Flight) : State.Steady s (s.inboundLeft f) := by
  unfold State.inboundLeft
  split
  · exact .queueTake s
  split
  · unfold State.queueDueAsk
    split
    · exact .queueAsk ..
    · exact .mapInbound ..
  split
  · exact .refl s
  split
  · refine .withFonts ?_
    dsimp only
    split
    · split
      · exact .updateWant ..
      · exact .refl _
    · exact .refl _
  · exact .mapInbound ..

theorem State.Steady.ownerTold (s : State) (f : Flight) : State.Steady s (s.ownerTold f) := by
  unfold State.ownerTold
  split
  · split
    · exact .refl s
    · exact .withGalleys (fun h => (List.length_map ..).trans_le h) fun h => h
  · exact .evaluateCredit s
  · exact .inboundLeft ..
  · split
    · exact .refl s
    split
    · exact .mapOutbound ..
    · exact .blockLeft s
  · exact .refl s
  · exact .refl s

/-! ## Frames that leave the line or lose it -/

theorem execEndOfArbitration_steady (read : BitVec 7) (s : State) : (execEndOfArbitration read s).SteadyFrom s := by
  unfold execEndOfArbitration
  split
  · rename_i f flying
    split
    · split
      · have lost : State.Steady s (s.mapLine fun l => l.lose f) :=
          .withLine (Line.lose_count_le flying).trans
        dsimp only
        split
        · exact lost.trans (.offerDueFrame _)
        · exact lost
      · exact .withLine fun h => le_trans (Line.count_mono (l := s.line) le_rfl (by simp [flying])) h
    · exact .refl s
  · exact .refl s

theorem execFrameLeftLine_steady (s : State) : (execFrameLeftLine s).SteadyFrom s := by
  unfold execFrameLeftLine
  split
  · rename_i f flying
    split
    · have freed : State.Steady s (s.mapLine fun l => l.released s.station.arbitration f) :=
        .withLine fun h => le_trans (by simp [Line.count, Line.released, flying]) h
      dsimp only
      split
      · exact freed
      · exact (freed.trans (.ownerTold ..)).trans (.offerDueFrame _)
    · exact .refl s
  · exact .refl s

theorem execStuffingViolation_steady (bits : List Bool) (s : State) : (execStuffingViolation bits s).SteadyFrom s :=
  .ite fun _ => .withLine id

theorem execFrameDiscarded_steady (bits : List Bool) (inQuiet : Bool) (s : State) :
    (execFrameDiscarded bits inQuiet s).SteadyFrom s :=
  .ite fun _ => .withLine id

/-! ## The want list and the cartridge -/

theorem execInboundTakesEntry_steady (s : State) : (execInboundTakesEntry s).SteadyFrom s := by
  unfold execInboundTakesEntry
  split
  · exact .loadCartridge ..
  · exact .askLine ..
  · exact .refl s

theorem execRetryWait_steady (font : Nat) (s : State) : (execRetryWait font s).SteadyFrom s := by
  unfold execRetryWait
  split
  · exact .ite fun _ => .withFonts (.updateWant ..)
  · exact .refl s

theorem execDeferralLimit_steady (font : Nat) (s : State) : (execDeferralLimit font s).SteadyFrom s := by
  unfold execDeferralLimit
  split
  · exact .ite fun _ => .giveUp ..
  · exact .refl s

theorem execAskingWait_steady (s : State) : (execAskingWait s).SteadyFrom s := by
  unfold execAskingWait
  split
  · split
    · split
      · exact .withFonts ((FontStore.Housed.updateWant ..).trans (.withInbound ..))
      · exact .countFailure ..
    · exact .refl s
  · exact .refl s

theorem execCartridgeInsertion_steady (s : State) : (execCartridgeInsertion s).SteadyFrom s := by
  refine .withFonts ?_
  dsimp only
  split
  · exact .of_same rfl rfl le_rfl rfl
  · exact .refl _

/-- The catalog holds at most 16 fonts (R109). -/
theorem catalogOf_length_le (fonts : List CatalogEntry) : (catalogOf fonts).length ≤ Config.catalogCapacity :=
  List.length_take_le ..

theorem execCatalogRead_steady (fonts : List CatalogEntry) (s : State) : (execCatalogRead fonts s).SteadyFrom s := by
  refine .withFonts ?_
  dsimp only
  split
  · exact ⟨id, rfl, fun h => (List.length_map ..).trans_le h, fun _ => catalogOf_length_le fonts⟩
  · exact .refl _

theorem FontStore.Housed.abandonCartridge (fs : FontStore) : FontStore.Housed fs fs.abandonCartridge := by
  unfold FontStore.abandonCartridge
  split
  · exact ((FontStore.Housed.endAttempt ..).trans (.updateWant ..)).trans (.withInbound ..)
  · exact .refl fs

theorem execCartridgeRemoval_steady (s : State) : (execCartridgeRemoval s).SteadyFrom s := by
  refine .withFonts ?_
  dsimp only
  split
  · exact .refl _
  · exact .of_same rfl rfl le_rfl rfl
  · refine FontStore.Housed.trans ?_ (.abandonCartridge _)
    exact ⟨id, rfl, id, fun _ => Nat.zero_le _⟩

theorem execCartridgeBlockRead_steady (data : List Byte) (s : State) : (execCartridgeBlockRead data s).SteadyFrom s := by
  unfold execCartridgeBlockRead
  split
  · exact (State.Steady.mapInbound ..).trans (.blockStored ..)
  · exact .refl s

/-! ## Offers, takes and blocks -/

theorem execFontWanted_steady (h : Header) (font : Nat) (s : State) : (execFontWanted h font s).SteadyFrom s :=
  .onFrame _ _ fun _ => .ite fun _ => .mapOutbound ..

theorem execOfferDelay_steady (s : State) : (execOfferDelay s).SteadyFrom s := by
  unfold execOfferDelay
  dsimp only
  split
  · split
    · split
      · exact ((State.Steady.mapOutbound ..).trans (.recount _)).trans (.queueLoanFrame _)
      · exact .mapOutbound ..
    · exact .mapOutbound ..
  · exact .refl s

theorem execFontOffer_steady (h : Header) (font asker total : Nat) (s : State) :
    (execFontOffer h font asker total s).SteadyFrom s := by
  refine .onFrame _ _ fun s => ?_
  have heard : State.Steady s (s.hearOfferToSelf h font asker total) := by
    refine .ite fun _ => ?_
    split
    · exact .takeOffer ..
    · exact .refl s
  exact heard.trans (.ite fun _ => .mapOutbound ..)

theorem State.Steady.hearTake (s : State) (lender first : Nat) : State.Steady s (s.hearTake lender first) := by
  unfold State.hearTake
  dsimp only
  split
  · exact .mapOutbound ..
  · split
    · exact (State.Steady.mapOutbound ..).trans (.queueLoanFrame _)
    · exact .releaseLoan s
  · exact .refl s

theorem execFontTake_steady (h : Header) (font lender first : Nat) (s : State) :
    (execFontTake h font lender first s).SteadyFrom s :=
  .onFrame _ _ fun _ => .ite fun _ => .hearTake ..

theorem execTakeWait_steady (s : State) : (execTakeWait s).SteadyFrom s := .ite fun _ => .releaseLoan s

theorem State.Steady.hearBlock (s : State) (index : Nat) (data : List Byte) : State.Steady s (s.hearBlock index data) := by
  unfold State.hearBlock
  dsimp only
  split
  · exact .refl s
  split
  · exact (State.Steady.mapInbound ..).trans (.blockStored ..)
  · exact .endLineAttempt ..

theorem execFontBlock_steady (h : Header) (font index : Nat) (data : List Byte) (s : State) :
    (execFontBlock h font index data s).SteadyFrom s :=
  .onFrame _ _ fun _ => .ite fun _ => .hearBlock ..

theorem execStallTimer_steady (s : State) : (execStallTimer s).SteadyFrom s := .ite fun _ => .endLineAttempt ..

/-! ## The proof controller -/

theorem State.Steady.mapPrinter (s : State) (f : Printer → Printer) : State.Steady s (s.mapPrinter f) := .withProofer id

theorem State.Steady.startRaster (r : QueueRecord) (may : s.mayRasterize = true) :
    State.Steady s (s.startRaster r) := by
  have room : s.proofer.ring.length + Config.bandRows ≤ Config.ringRows := by
    simp only [State.mayRasterize, Bool.and_eq_true, decide_eq_true_eq] at may
    exact may.2
  exact (State.Steady.withQueue (List.length_map ..)).trans (.withProofer fun _ => ⟨Nat.succ_pos 11, room⟩)

theorem State.Steady.endRaster (s : State) (full : s.proofer.Fits → s.proofer.ring.length ≤ Config.ringRows) :
    State.Steady s s.endRaster := by
  have ended : State.Steady s (s.mapProofer fun p => { p with raster := none }) := .withProofer full
  unfold State.endRaster
  dsimp only
  split
  · exact ended
  · rename_i r _
    have stamped := ended.trans (.withFonts (.stampUse _ r.line.fonts))
    split
    · exact stamped.trans ((State.Steady.withQueue (List.length_map ..)).trans (.updateGalley ..))
    · exact stamped.trans (.withQueue (List.length_map ..))

theorem State.Steady.writeRow (s : State) : State.Steady s s.writeRow := by
  unfold State.writeRow
  split
  · exact .refl s
  · rename_i r rastering
    have grown : s.proofer.Fits → r.rows < Config.bandRows ∧
        s.proofer.ring.length + (Config.bandRows - r.rows) ≤ Config.ringRows := by
      intro h
      unfold Proofer.Fits at h
      rwa [rastering] at h
    dsimp only
    split
    · rename_i more
      refine .withProofer fun h => ⟨more, ?_⟩
      have := grown h
      simp only [List.length_append, List.length_singleton]
      omega
    · rename_i more
      -- The twelfth row: the ring may hold it, and no row is left to write.
      have last : ∀ {p : Proofer}, (s.proofer.Fits → p.ring.length ≤ Config.ringRows) →
          State.Steady s (State.endRaster { s with proofer := p }) := by
        intro p room
        have rowless : State.endRaster { s with proofer := p } =
            State.endRaster { s with proofer := { p with raster := none } } := rfl
        rw [rowless]
        exact (State.Steady.withProofer (p := { p with raster := none }) room).trans (.endRaster _ id)
      refine last fun h => ?_
      have := grown h
      simp only [List.length_append, List.length_singleton]
      omega

theorem Proofer.Fits.of_ring {p q : Proofer} (h : p.Fits) (raster : q.raster = p.raster)
    (ring : q.ring.length ≤ p.ring.length) : q.Fits := by
  unfold Proofer.Fits at h ⊢
  rw [raster]
  split <;> rename_i found <;> rw [found] at h
  · exact ⟨h.1, by have := h.2; omega⟩
  · exact ring.trans h

@[simp] theorem Proofer.beginRow_raster (p : Proofer) : p.beginRow.raster = p.raster := by
  unfold Proofer.beginRow
  split <;> rfl

@[simp] theorem Proofer.beginRow_ring (p : Proofer) : p.beginRow.ring = p.ring := by
  unfold Proofer.beginRow
  split <;> rfl

/-- A row printed leaves the rasterizing alone. -/
@[simp] theorem Proofer.endRow_raster (p : Proofer) : p.endRow.raster = p.raster := by
  unfold Proofer.endRow
  split
  · rfl
  · dsimp only
    rw [apply_ite Proofer.raster, apply_ite Proofer.raster, Proofer.beginRow_raster, ite_self, ite_self]

/-- A row printed leaves the ring, where it still stands there (R163, R166). -/
theorem Proofer.endRow_ring {p : Proofer} {r : PrintRow} (printing : p.printer.row = some r) :
    p.endRow.ring = if r.inRing then p.ring.tail else p.ring := by
  unfold Proofer.endRow
  rw [printing]
  dsimp only
  split
  · rw [apply_ite Proofer.ring, Proofer.beginRow_ring, ite_self]
  · rfl

theorem Proofer.Fits.endRow {p : Proofer} (h : p.Fits) : p.endRow.Fits := by
  cases printing : p.printer.row with
  | none => unfold Proofer.endRow; rwa [printing]
  | some r =>
    refine h.of_ring p.endRow_raster ?_
    rw [Proofer.endRow_ring printing]
    split <;> simp

theorem execRasterizeStart_steady (s : State) : (execRasterizeStart s).SteadyFrom s := by
  unfold execRasterizeStart
  split
  · exact .ite fun may => (State.Steady.startRaster _ may).event
  · exact .refl s

theorem execRowWritten_steady (s : State) : (execRowWritten s).SteadyFrom s :=
  .ite fun _ => (State.Steady.writeRow s).event

theorem execPrintStart_steady (s : State) : (execPrintStart s).SteadyFrom s := by
  refine .ite fun _ => State.Steady.event (.withProofer fun h => ?_)
  exact h.of_ring s.proofer.beginRow_raster (by rw [Proofer.beginRow_ring])

theorem execRowPrinted_steady (s : State) : (execRowPrinted s).SteadyFrom s :=
  .ite fun _ => State.Steady.event (.withProofer Proofer.Fits.endRow)

theorem execPaperOut_steady (s : State) : (execPaperOut s).SteadyFrom s := by
  unfold execPaperOut
  show State.Steady s _
  split
  · exact .refl s
  · exact (State.Steady.mapPrinter ..).event

theorem execAbandonmentTimer_steady (s : State) : (execAbandonmentTimer s).SteadyFrom s :=
  .ite fun _ => State.Steady.event <|
    ((State.Steady.mapPrinter ..).trans (.withQueue (List.length_map ..))).trans
      (.foldl (fun _ _ => .report ..) _ _)

end Sys2Proof.Machine
end

section
/-! Every command that moves the film keeps the film counters in agreement, with the lead-out in hand behind every move
(R130, R141, R145, R148, R149); and so every step keeps the three invariants. -/

namespace Sys2Proof.Machine

variable {s t u : State}

/-! ## Stage and mechanism, stage by stage (R132 to R137) -/

theorem State.stageSound_of_none (h : s.imaging.exposure = none) : s.stageSound = true := by
  unfold State.stageSound
  rw [h]

theorem State.stageSound_move {e : Exposure} (h : s.imaging.exposure = some e) (stage : e.stage = .move) :
    s.stageSound = true ↔ (e.flash = none ∧ e.field = none) ∧ s.transport.leadOutKept = true := by
  simp [State.stageSound, h, stage]

theorem State.stageSound_exposing {e : Exposure} (h : s.imaging.exposure = some e)
    (stage : e.stage = .background ∨ e.stage = .runs) :
    s.stageSound = true ↔ s.transport.move = none ∧ s.transport.leadOutKept = true := by
  rcases stage with stage | stage <;> simp [State.stageSound, h, stage]

theorem State.stageSound_cut {e : Exposure} (h : s.imaging.exposure = some e) (stage : e.stage = .cut) :
    s.stageSound = true ↔
      (e.flash = none ∧ e.field = none) ∧ ∀ m, s.transport.move = some m → m.kind = .leadOut ∧ m.phase ≠ .reversing := by
  unfold State.stageSound
  rw [h]
  dsimp only
  rw [stage]
  cases s.transport.move <;> simp

/-- The counters of the film alone, without the move in progress (R141). -/
structure Transport.CountersAgree (t : Transport) : Prop where
  length : t.remaining + t.drawn = t.supplyLength
  drawn : t.depth ≤ t.drawn
  held : t.depth ≤ t.takeUpHeld

theorem State.FilmSound.counters (h : s.FilmSound) : s.transport.CountersAgree := ⟨h.length, h.drawn, h.held⟩

theorem State.FilmSound.of_counters (h : s.transport.CountersAgree) (possible : s.transport.movePossible = true)
    (stage : s.stageSound = true) : s.FilmSound :=
  ⟨h.length, h.drawn, h.held, possible, stage⟩

theorem Transport.movePossible_of_none {t : Transport} (h : t.move = none) : t.movePossible = true := by
  unfold Transport.movePossible
  rw [h]

theorem Transport.leadOutKept_of_none {t : Transport} (h : t.move = none) :
    t.leadOutKept = true ↔ Config.leadOut ≤ t.remaining := by
  simp [Transport.leadOutKept, Transport.stillToMove, h]

/-- Nothing moves the film, and the supply holds the lead-out. -/
structure State.FilmReady (s : State) : Prop where
  counters : s.transport.CountersAgree
  still : s.transport.move = none
  lead : Config.leadOut ≤ s.transport.remaining

theorem State.FilmReady.mapExposure (h : s.FilmReady) (f : Exposure → Exposure) : (s.mapExposure f).FilmReady :=
  ⟨h.counters, h.still, h.lead⟩

/-! ## What the exposure sequence does to the rest -/

theorem State.Housed.withFilm (s : State) (i : Imaging) (tr : Transport) :
    State.Housed s { s with imaging := i, transport := tr } :=
  ⟨fun k => { k with }, id⟩

theorem State.leaveExposing_housed (s : State) : State.Housed s s.leaveExposing :=
  ⟨fun k => { k with queue := (List.length_map ..).trans_le k.queue }, id⟩

theorem State.FilmSound.leaveExposing (h : s.transport.CountersAgree) (possible : s.transport.movePossible = true) :
    s.leaveExposing.FilmSound :=
  .of_counters h possible (State.stageSound_of_none rfl)

/-- An exposure that ends in order leaves the counters to the transport, and the controller without an exposure (R138). -/
theorem State.endExposure_housed (s : State) : State.Housed s s.endExposure := by
  unfold State.endExposure
  split
  · exact s.leaveExposing_housed
  rename_i r _
  have marked : ∀ s : State, State.Housed s
      (((s.mapFonts fun fs => fs.stampUse r.line.fonts).leaveExposing.settle).applyCancel r.line.galley) := fun s =>
    (((State.Steady.withFonts (.stampUse s.fonts r.line.fonts)).toHoused.trans (State.leaveExposing_housed _)).trans
      (State.Steady.settle _).toHoused).trans (State.Steady.applyCancel ..).toHoused
  dsimp only
  split
  · exact ((State.Steady.withQueue (List.length_map ..)).trans (.updateGalley ..)).toHoused.trans (marked _)
  · exact marked s

theorem State.endExposure_film (h : s.transport.CountersAgree) (possible : s.transport.movePossible = true) :
    s.endExposure.FilmSound := by
  unfold State.endExposure
  split
  · exact .leaveExposing h possible
  rename_i r _
  have left : ∀ s : State, s.transport.CountersAgree → s.transport.movePossible = true → State.FilmSound
      (((s.mapFonts fun fs => fs.stampUse r.line.fonts).leaveExposing.settle).applyCancel r.line.galley) :=
    fun s h possible => (State.Steady.applyCancel ..).film ((State.Steady.settle _).film (.leaveExposing h possible))
  dsimp only
  split
  · exact left _ h possible
  · exact left s h possible

theorem State.stopExposure_housed (s : State) (why : Suspension) : State.Housed s (s.stopExposure why) := by
  unfold State.stopExposure
  split
  · dsimp only
    split
    · exact ((s.leaveExposing_housed.trans (State.Steady.suspend ..).toHoused).trans
        (State.Steady.settle _).toHoused).trans (State.Steady.applyCancel ..).toHoused
    · exact (s.leaveExposing_housed.trans (State.Steady.settle _).toHoused).trans
        (State.Steady.applyCancel ..).toHoused
  · exact s.leaveExposing_housed
  · exact .refl s

/-- An exposure that is stopped leaves none, whatever its stage was (R136). -/
theorem State.stopExposure_film (h : s.transport.CountersAgree) (possible : s.transport.movePossible = true)
    (why : Suspension) : (s.stopExposure why).FilmSound := by
  have left : s.leaveExposing.FilmSound := .leaveExposing h possible
  unfold State.stopExposure
  split
  · dsimp only
    refine (State.Steady.applyCancel ..).film ((State.Steady.settle _).film ?_)
    split
    · exact (State.Steady.suspend ..).film left
    · exact left
  · exact left
  · rename_i none
    exact .of_counters h possible (State.stageSound_of_none none)

/-! ## The stages of an exposure (R132 to R137) -/

theorem Transport.ask_cases (t : Transport) (kind : MoveKind) (n : Nat) :
    t.ask kind n = t ∨
      ∃ st, (st = .cutting ∨ st = .moving) ∧
        t.ask kind n =
          { t with
            state := st
            move := some
              { kind := kind, left := n, phase := if kind = .reverse then .reversing else nextStroke n, ending := false } } := by
  unfold Transport.ask
  split
  · refine .inr ⟨_, ?_, rfl⟩
    split
    · exact .inl rfl
    · exact .inr rfl
  · exact .inl rfl

theorem Transport.CountersAgree.ask {t : Transport} (h : t.CountersAgree) (kind : MoveKind) (n : Nat) :
    (t.ask kind n).CountersAgree := by
  rcases t.ask_cases kind n with same | ⟨st, -, asked⟩
  · rwa [same]
  · rw [asked]
    exact ⟨h.length, h.drawn, h.held⟩

/-- A move asked for can be carried out where the supply, or for a reverse the section, reaches so far. -/
theorem Transport.ask_movePossible {t : Transport} (still : t.move = none) {kind : MoveKind} {n : Nat}
    (forward : kind ≠ .reverse → n ≤ t.remaining) (reverse : kind = .reverse → n ≤ t.depth) :
    (t.ask kind n).movePossible = true := by
  rcases t.ask_cases kind n with same | ⟨st, moving, asked⟩
  · rw [same, Transport.movePossible_of_none still]
  · rw [asked]
    have inMotion : ∀ m, Transport.inMotion { t with state := st, move := m } = true := by
      rcases moving with rfl | rfl <;> exact fun _ => rfl
    unfold Transport.movePossible
    dsimp only
    rw [inMotion]
    by_cases back : kind = .reverse
    · simp [back, reverse back]
    · simp [back, nextStroke, forward back]

theorem State.enterCut_housed (s : State) (r : SetLine) : State.Housed s (s.enterCut r) := by
  have entered := State.Housed.withFilm s
    { s.imaging with exposure := s.imaging.exposure.map fun e => { e with stage := .cut, flash := none, field := none } }
  unfold State.enterCut
  dsimp only
  split
  · exact entered (s.transport.ask .leadOut Config.leadOut)
  · exact (entered s.transport).trans (State.endExposure_housed _)

theorem State.FilmReady.enterCut (h : s.FilmReady) (r : SetLine) : (s.enterCut r).FilmSound := by
  unfold State.enterCut
  dsimp only
  split
  · refine .of_counters (h.counters.ask ..) (Transport.ask_movePossible h.still (fun _ => h.lead) (by simp)) ?_
    cases exposing : s.imaging.exposure with
    | none => exact State.stageSound_of_none (by simp [exposing])
    | some e =>
      refine (State.stageSound_cut (e := { e with stage := .cut, flash := none, field := none }) (by simp [exposing])
        rfl).mpr ⟨⟨rfl, rfl⟩, fun m cutting => ?_⟩
      rcases s.transport.ask_cases .leadOut Config.leadOut with same | ⟨st, -, asked⟩
      · have : s.transport.move = some m := same ▸ cutting
        simp [h.still] at this
      · have : (s.transport.ask .leadOut Config.leadOut).move = some m := cutting
        rw [asked] at this
        cases this
        exact ⟨rfl, by simp [nextStroke]⟩
  · exact State.endExposure_film h.counters (Transport.movePossible_of_none h.still)

/-- In the flashes and in the pass the film is at rest with the lead-out in hand. -/
theorem State.FilmReady.exposing (h : s.FilmReady) {i : Imaging}
    (stage : ∀ e, i.exposure = some e → e.stage = .background ∨ e.stage = .runs) :
    State.FilmSound { s with imaging := i } := by
  refine .of_counters h.counters (Transport.movePossible_of_none h.still) ?_
  cases exposing : i.exposure with
  | none => exact State.stageSound_of_none exposing
  | some e =>
    exact (State.stageSound_exposing (e := e) exposing (stage e exposing)).mpr
      ⟨h.still, (Transport.leadOutKept_of_none h.still).mpr h.lead⟩

theorem State.continueRuns_housed (s : State) (r : SetLine) (e : Exposure) : State.Housed s (s.continueRuns r e) := by
  unfold State.continueRuns
  split
  · exact s.enterCut_housed r
  split
  · exact s.enterCut_housed r
  dsimp only
  split
  · split
    · exact .withFilm ..
    · exact .withFilm ..
  · exact .withFilm ..

theorem State.FilmReady.continueRuns (h : s.FilmReady) (r : SetLine) (e : Exposure) :
    (s.continueRuns r e).FilmSound := by
  unfold State.continueRuns
  split
  · exact h.enterCut r
  split
  · exact h.enterCut r
  dsimp only
  split
  · split
    all_goals
      refine h.exposing fun e exposing => .inr ?_
      simp only [State.mapExposure_imaging, Option.map_map, Option.map_eq_some_iff] at exposing
      obtain ⟨e, -, rfl⟩ := exposing
      rfl
  · refine h.exposing fun e exposing => .inr ?_
    simp only [State.mapExposure_imaging, Option.map_eq_some_iff] at exposing
    obtain ⟨e, -, rfl⟩ := exposing
    rfl

theorem State.continueBackground_housed (s : State) (r : SetLine) : State.Housed s (s.continueBackground r) := by
  unfold State.continueBackground
  dsimp only
  split <;> exact .withFilm ..

theorem State.FilmReady.continueBackground (h : s.FilmReady) (r : SetLine) : (s.continueBackground r).FilmSound := by
  unfold State.continueBackground
  dsimp only
  split
  all_goals
    refine h.exposing fun e exposing => .inl ?_
    simp only [State.mapExposure_imaging, Option.map_map, Option.map_eq_some_iff] at exposing
    obtain ⟨e, -, rfl⟩ := exposing
    rfl

theorem State.enterBackground_housed (s : State) : State.Housed s s.enterBackground := by
  unfold State.enterBackground
  split
  · split
    · exact s.continueBackground_housed _
    · exact s.continueRuns_housed ..
  · exact .refl s

/-- Behind a move that is over an exposure goes on, the lead-out being in hand wherever there is one. -/
theorem State.FilmSound.enterBackground (h : s.FilmSound) (still : s.transport.move = none)
    (lead : s.imaging.exposure ≠ none → Config.leadOut ≤ s.transport.remaining) : s.enterBackground.FilmSound := by
  unfold State.enterBackground
  split
  · rename_i exposing
    have ready : s.FilmReady := ⟨h.counters, still, lead (by simp [exposing])⟩
    split
    · exact ready.continueBackground _
    · exact ready.continueRuns ..
  · exact h

/-! ## The turret, the pass and the flashes -/

theorem State.Steady.turretReady (s : State) : State.Steady s s.turretReady := by
  unfold State.turretReady
  split
  · rename_i r e _ exposing
    have ready : e.stage = .background ∨ e.stage = .runs → s.FilmSound → s.FilmReady := fun stage h => by
      obtain ⟨still, lead⟩ := (State.stageSound_exposing exposing stage).mp h.stage
      exact ⟨h.counters, still, (Transport.leadOutKept_of_none still).mp lead⟩
    split
    · split
      · exact ⟨s.continueBackground_housed _, fun h => (ready (.inl ‹_›) h).continueBackground _⟩
      · exact .refl s
    · split
      · exact ⟨s.continueRuns_housed .., fun h => (ready (.inr ‹_›) h).continueRuns ..⟩
      · exact .refl s
    · exact .refl s
  · exact .refl s

theorem execTurretMoveEnd_steady (s : State) : (execTurretMoveEnd s).SteadyFrom s := by
  unfold execTurretMoveEnd
  split
  · exact .refl s
  · refine State.Steady.event (State.Steady.trans ?_ (.turretReady _))
    exact .withImaging rfl

/-- Inside a flash or a pass the film is at rest with the lead-out in hand. -/
theorem State.FilmSound.ready_of_exposing (h : s.FilmSound) {e : Exposure} (exposing : s.imaging.exposure = some e)
    (under : e.flash ≠ none ∨ e.field ≠ none) : s.FilmReady := by
  have stage : e.stage = .background ∨ e.stage = .runs := by
    cases stage : e.stage with
    | background => exact .inl rfl
    | runs => exact .inr rfl
    | move =>
      obtain ⟨⟨noFlash, noField⟩, -⟩ := (State.stageSound_move exposing stage).mp h.stage
      exact absurd under (by simp [noFlash, noField])
    | cut =>
      obtain ⟨⟨noFlash, noField⟩, -⟩ := (State.stageSound_cut exposing stage).mp h.stage
      exact absurd under (by simp [noFlash, noField])
  obtain ⟨still, lead⟩ := (State.stageSound_exposing exposing stage).mp h.stage
  exact ⟨h.counters, still, (Transport.leadOutKept_of_none still).mp lead⟩

theorem execBackgroundPass_steady (s : State) : (execBackgroundPass s).SteadyFrom s := by
  unfold execBackgroundPass
  split
  · rename_i e r exposing _
    refine .ite fun passing => State.Steady.event
      ⟨(State.Housed.withFilm s _ s.transport).trans (State.enterCut_housed _ _), fun h => ?_⟩
    have ready := h.ready_of_exposing exposing (.inr (Option.isSome_iff_ne_none.mp passing))
    exact (ready.mapExposure _).enterCut _
  · exact .refl s

theorem execFlashDone_steady (s : State) : (execFlashDone s).SteadyFrom s := by
  unfold execFlashDone
  split
  · rename_i e r exposing _
    refine .ite fun flashing => State.Steady.event
      ⟨(State.Housed.withFilm s _ s.transport).trans (State.continueRuns_housed _ _ _), fun h => ?_⟩
    have ready := h.ready_of_exposing exposing (.inl (Option.isSome_iff_ne_none.mp flashing))
    exact (ready.mapExposure _).continueRuns _ _
  · exact .refl s

/-! ## The start of an exposure (R131, R132) -/

theorem State.enterMove_housed (s : State) (m : Movement) : State.Housed s (s.enterMove m) := by
  cases m <;> (unfold State.enterMove; dsimp only; split) <;>
    first
      | exact .withFilm ..
      | exact s.enterBackground_housed

/-- A stage MOVE that has just begun: the movement lies within the supply with the lead-out behind it, or within the
section. -/
theorem State.FilmSound.enterMove {e : Exposure} (counters : s.transport.CountersAgree) (still : s.transport.move = none)
    (exposing : s.imaging.exposure = some e) (stage : e.stage = .move) (dark : e.flash = none ∧ e.field = none)
    {m : Movement} (forward : ∀ n, m = .forward n → n + Config.leadOut ≤ s.transport.remaining)
    (reverse : ∀ n, m = .reverse n → n ≤ s.transport.depth) (lead : Config.leadOut ≤ s.transport.remaining) :
    (s.enterMove m).FilmSound := by
  have begun : s.enterBackground.FilmSound := by
    refine State.FilmSound.enterBackground ?_ still fun _ => lead
    exact .of_counters counters (Transport.movePossible_of_none still)
      ((State.stageSound_move exposing stage).mpr ⟨dark, (Transport.leadOutKept_of_none still).mpr lead⟩)
  have asked : ∀ (kind : MoveKind) (n : Nat), (kind ≠ .reverse → n + Config.leadOut ≤ s.transport.remaining) →
      (kind = .reverse → n ≤ s.transport.depth) → (s.mapTransport fun t => t.ask kind n).FilmSound := by
    intro kind n forward reverse
    refine .of_counters (counters.ask kind n)
      (Transport.ask_movePossible still (fun k => (Nat.le_add_right ..).trans (forward k)) reverse) ?_
    refine (State.stageSound_move (s := s.mapTransport _) exposing stage).mpr ⟨dark, ?_⟩
    show (s.transport.ask kind n).leadOutKept = true
    rcases s.transport.ask_cases kind n with same | ⟨st, -, moved⟩
    · rw [same, Transport.leadOutKept_of_none still]
      exact lead
    · rw [moved]
      by_cases back : kind = .reverse
      · simpa [Transport.leadOutKept, Transport.stillToMove, back] using lead
      · simpa [Transport.leadOutKept, Transport.stillToMove, back, nextStroke] using forward back
  unfold State.enterMove
  cases m with
  | forward n =>
    dsimp only
    split
    · exact asked .forward n (fun _ => forward n rfl) nofun
    · exact begun
  | reverse n =>
    dsimp only
    split
    · exact asked .reverse n (fun k => absurd rfl k) fun _ => reverse n rfl
    · exact begun

theorem State.Steady.startExposure {r : QueueRecord} (may : s.mayExpose r = true) :
    State.Steady s (s.startExposure r) := by
  simp only [State.mayExpose, Bool.and_eq_true, beq_iff_eq, Transport.supplyServes, decide_eq_true_eq] at may
  obtain ⟨⟨⟨⟨-, idle⟩, supply⟩, -⟩, -⟩ := may
  unfold State.startExposure
  dsimp only
  constructor
  · exact ((State.Steady.withQueue (List.length_map ..)).trans (.updateGalley ..)).toHoused.trans
      ((State.Housed.withFilm _ _ _).trans (State.enterMove_housed _ _))
  · intro h
    have still := Transport.move_eq_none_of_not_inMotion h.possible (by simp [Transport.inMotion, idle])
    refine State.FilmSound.enterMove (e := ?e) ?counters ?still ?exposing ?stage ?dark (fun n forward => ?forward)
      (fun n reverse => ?reverse) ?lead
    case counters => exact h.counters
    case still => exact still
    case exposing => rfl
    case stage => rfl
    case dark => exact ⟨rfl, rfl⟩
    case lead => exact (Nat.le_add_left ..).trans supply
    case forward =>
      unfold SetLine.resolve at forward
      split at forward
      · cases forward
        exact supply
      · cases forward
    case reverse =>
      unfold SetLine.resolve at reverse
      split at reverse
      · cases reverse
      · cases reverse
        exact Nat.min_le_right ..

theorem execExposureStart_steady (s : State) : (execExposureStart s).SteadyFrom s := by
  unfold execExposureStart
  split
  · exact .ite fun may => (State.Steady.startExposure may).event
  · exact .refl s

/-! ## Strokes, reverses and the knife (R145 to R149, R152) -/

theorem Transport.CountersAgree.forward {t : Transport} (h : t.CountersAgree) {n : Nat} (supply : n ≤ t.remaining) :
    (t.forward n).CountersAgree := by
  obtain ⟨length, drawn, held⟩ := h
  refine ⟨?_, ?_, ?_⟩ <;> simp only [Transport.forward] <;> omega

theorem Transport.CountersAgree.reverse {t : Transport} (h : t.CountersAgree) {n : Nat} (section_ : n ≤ t.depth) :
    (t.reverse n).CountersAgree := by
  obtain ⟨length, drawn, held⟩ := h
  refine ⟨?_, ?_, ?_⟩ <;> simp only [Transport.reverse] <;> omega

/-- The stroke in progress lies within what is left of its move, and that within the supply. -/
theorem Transport.movePossible_stroke {t : Transport} {m : Move} {n : Nat} (h : t.movePossible = true)
    (moving : t.move = some m) (stroke : m.phase = .stroke n) :
    t.inMotion = true ∧ n ≤ m.left ∧ m.left ≤ t.remaining := by
  unfold Transport.movePossible at h
  rw [moving] at h
  dsimp only at h
  rw [stroke] at h
  simpa using h

theorem Transport.movePossible_reversing {t : Transport} {m : Move} (h : t.movePossible = true)
    (moving : t.move = some m) (reversing : m.phase = .reversing) : m.left ≤ t.depth := by
  unfold Transport.movePossible at h
  rw [moving] at h
  dsimp only at h
  rw [reversing] at h
  exact of_decide_eq_true (Bool.and_eq_true_iff.mp h).2

/-- A move in progress belongs to stage MOVE, with the lead-out in hand behind it, or is the lead-out or the knife of stage
CUT. -/
theorem State.FilmSound.stage_of_move (h : s.FilmSound) {m : Move} (moving : s.transport.move = some m) {e : Exposure}
    (exposing : s.imaging.exposure = some e) :
    (e.stage = .move ∧ (e.flash = none ∧ e.field = none) ∧ s.transport.stillToMove + Config.leadOut ≤ s.transport.remaining) ∨
      (e.stage = .cut ∧ (e.flash = none ∧ e.field = none) ∧ m.kind = .leadOut ∧ m.phase ≠ .reversing) := by
  cases stage : e.stage with
  | move =>
    obtain ⟨dark, lead⟩ := (State.stageSound_move exposing stage).mp h.stage
    exact .inl ⟨rfl, dark, of_decide_eq_true lead⟩
  | cut =>
    obtain ⟨dark, only⟩ := (State.stageSound_cut exposing stage).mp h.stage
    exact .inr ⟨rfl, dark, only m moving⟩
  | background =>
    have := ((State.stageSound_exposing exposing (.inl stage)).mp h.stage).1
    simp [moving] at this
  | runs =>
    have := ((State.stageSound_exposing exposing (.inr stage)).mp h.stage).1
    simp [moving] at this

/-- The move in progress goes on, or is over: `u` is the transport behind a stroke, a reverse, a trip or a hold-off. The counters
agree, the move that is left can be carried out, the lead-out is in hand behind it, and in stage CUT it is the lead-out's or
the knife's. -/
theorem State.FilmSound.moved (h : s.FilmSound) {m : Move} (moving : s.transport.move = some m) {u : Transport}
    (counters : u.CountersAgree) (possible : u.movePossible = true)
    (lead : s.transport.stillToMove + Config.leadOut ≤ s.transport.remaining → u.stillToMove + Config.leadOut ≤ u.remaining)
    (cut : m.kind = .leadOut → m.phase ≠ .reversing →
      ∀ k, u.move = some k → k.kind = .leadOut ∧ k.phase ≠ .reversing) :
    State.FilmSound { s with transport := u } := by
  refine .of_counters counters possible ?_
  cases exposing : s.imaging.exposure with
  | none => exact State.stageSound_of_none exposing
  | some e =>
    rcases h.stage_of_move moving exposing with ⟨stage, dark, kept⟩ | ⟨stage, dark, kind, phase⟩
    · exact (State.stageSound_move (s := { s with transport := u }) exposing stage).mpr ⟨dark, decide_eq_true (lead kept)⟩
    · exact (State.stageSound_cut (s := { s with transport := u }) exposing stage).mpr ⟨dark, cut kind phase⟩

/-- What a stroke has still to move, with the stroke's own length. -/
theorem Transport.stillToMove_stroke {t : Transport} {m : Move} {n : Nat} (moving : t.move = some m)
    (stroke : m.phase = .stroke n) : t.stillToMove = m.left := by
  simp [Transport.stillToMove, moving, stroke]

theorem Transport.stillToMove_of_none {t : Transport} (h : t.move = none) : t.stillToMove = 0 := by
  simp [Transport.stillToMove, h]

theorem State.Housed.mapTransport (s : State) (f : Transport → Transport) : State.Housed s (s.mapTransport f) :=
  .withFilm s s.imaging _

theorem State.strokeDone_housed (s : State) (m : Move) (n : Nat) : State.Housed s (s.strokeDone m n) := by
  unfold State.strokeDone
  dsimp only
  split
  · exact .withFilm ..
  split
  · exact .withFilm ..
  split
  · exact .withFilm ..
  · exact (State.Housed.mapTransport s fun t => Transport.atRest { t.forward n with trips := 0 }).trans
      (State.enterBackground_housed _)

/-- A completed stroke keeps the counters in agreement, and what follows it finds the lead-out in hand. -/
theorem State.FilmSound.strokeDone (h : s.FilmSound) {m : Move} {n : Nat} (moving : s.transport.move = some m)
    (stroke : m.phase = .stroke n) : (s.strokeDone m n).FilmSound := by
  obtain ⟨inMotion, within, supply⟩ := Transport.movePossible_stroke h.possible moving stroke
  have counters := h.counters.forward (within.trans supply)
  have still := Transport.stillToMove_stroke moving stroke
  have remaining : (s.transport.forward n).remaining = s.transport.remaining - n := rfl
  -- The transport with the move that is left behind the stroke: none, the rest of it, or the knife.
  have goes : ∀ (st : TransportState) (move : Option Move),
      (∀ k, move = some k → st = s.transport.state ∧ k.kind = m.kind ∧
        ((k.phase = .knife) ∨ (k.left = m.left - n ∧ k.phase = nextStroke (m.left - n)))) →
      State.FilmSound { s with transport := { s.transport.forward n with trips := 0, state := st, move := move } } := by
    intro st move rest
    refine h.moved moving ⟨counters.length, counters.drawn, counters.held⟩ ?_ ?_ fun kind _ k left => ?_
    · cases move with
      | none => rfl
      | some k =>
        obtain ⟨rfl, -, knife | ⟨left, phase⟩⟩ := rest k rfl
        · exact Bool.and_eq_true_iff.mpr ⟨inMotion, by simp [knife]⟩
        · refine Bool.and_eq_true_iff.mpr ⟨inMotion, ?_⟩
          dsimp only
          rw [phase]
          simp [nextStroke, left, remaining]
          omega
    · intro lead
      rw [still] at lead
      cases move with
      | none =>
        rw [Transport.stillToMove_of_none rfl]
        show 0 + Config.leadOut ≤ s.transport.remaining - n
        omega
      | some k =>
        obtain ⟨rfl, -, knife | ⟨left, phase⟩⟩ := rest k rfl
        · simp only [Transport.stillToMove, knife]
          show 0 + Config.leadOut ≤ s.transport.remaining - n
          omega
        · simp only [Transport.stillToMove, phase, nextStroke, left]
          show m.left - n + Config.leadOut ≤ s.transport.remaining - n
          omega
    · obtain ⟨-, sameKind, knife | ⟨-, phase⟩⟩ := rest k left
      · exact ⟨sameKind.trans kind, by simp [knife]⟩
      · exact ⟨sameKind.trans kind, by simp [phase, nextStroke]⟩
  unfold State.strokeDone
  dsimp only
  split
  · exact goes .idle none nofun
  split
  · refine goes s.transport.state (some { m with left := m.left - n, phase := nextStroke (m.left - n) }) fun k left => ?_
    cases left
    exact ⟨rfl, rfl, .inr ⟨rfl, rfl⟩⟩
  split
  · refine goes s.transport.state (some { m with left := 0, phase := .knife }) fun k left => ?_
    cases left
    exact ⟨rfl, rfl, .inl rfl⟩
  · rename_i notCut
    refine State.FilmSound.enterBackground (goes .idle none nofun) rfl fun exposing => ?_
    obtain ⟨e, exposing⟩ := Option.ne_none_iff_exists'.mp exposing
    rcases h.stage_of_move moving exposing with ⟨-, -, lead⟩ | ⟨-, -, kind, -⟩
    · rw [still] at lead
      show Config.leadOut ≤ s.transport.remaining - n
      omega
    · exact absurd kind notCut

theorem execStrokeCompleted_steady (samples : List Bool) (s : State) : (execStrokeCompleted samples s).SteadyFrom s := by
  unfold execStrokeCompleted
  split
  · split
    · exact .ite fun _ => State.Steady.event ⟨s.strokeDone_housed .., fun h => h.strokeDone ‹_› ‹_›⟩
    · exact .refl s
  · exact .refl s

theorem State.strokeTripped_housed (s : State) (m : Move) (n : Nat) : State.Housed s (s.strokeTripped m n) := by
  unfold State.strokeTripped
  dsimp only
  split
  · exact .withFilm ..
  split
  · exact .withFilm ..
  · exact (State.Housed.mapTransport s _).trans (State.stopExposure_housed ..)

/-- A trip changes no film counter: the stroke's length is still to be moved (R147). -/
theorem State.FilmSound.strokeTripped (h : s.FilmSound) {m : Move} {n : Nat} (moving : s.transport.move = some m)
    (stroke : m.phase = .stroke n) : (s.strokeTripped m n).FilmSound := by
  obtain ⟨inMotion, within, supply⟩ := Transport.movePossible_stroke h.possible moving stroke
  have still := Transport.stillToMove_stroke moving stroke
  obtain ⟨length, drawn, held⟩ := h.counters
  unfold State.strokeTripped
  dsimp only
  split
  · refine h.moved moving (u := s.transport.atRest) ⟨length, drawn, held⟩ rfl (fun lead => ?_) fun _ _ k left => ?_
    · exact le_trans (Nat.add_le_add_right (Nat.zero_le _) _) lead
    · cases left
  split
  · refine h.moved moving
      (u := { s.transport with trips := s.transport.trips + 1, move := some { m with phase := .holdOff Config.holdOff n } })
      ⟨length, drawn, held⟩ ?_ (fun lead => ?_) fun kind _ k left => ?_
    · exact Bool.and_eq_true_iff.mpr ⟨inMotion, by simpa using ⟨within, supply⟩⟩
    · rwa [still] at lead
    · cases left
      exact ⟨kind, by simp⟩
  · refine State.stopExposure_film ?_ rfl _
    exact ⟨length, drawn, held⟩

theorem execStrokeTrip_steady (samples : List Bool) (s : State) : (execStrokeTrip samples s).SteadyFrom s := by
  unfold execStrokeTrip
  split
  · split
    · exact .ite fun _ => State.Steady.event ⟨s.strokeTripped_housed .., fun h => h.strokeTripped ‹_› ‹_›⟩
    · exact .refl s
  · exact .refl s

theorem execHoldOff_steady (s : State) : (execHoldOff s).SteadyFrom s := by
  unfold execHoldOff
  split
  · rename_i m moving
    split
    · rename_i left n holding
      refine ⟨.mapTransport .., fun h => ?_⟩
      have possible := h.possible
      unfold Transport.movePossible at possible
      rw [moving] at possible
      dsimp only at possible
      rw [holding] at possible
      have still : s.transport.stillToMove = m.left := by simp [Transport.stillToMove, moving, holding]
      refine h.moved moving (u := { s.transport with move := some { m with phase := .stroke n } })
        ⟨h.length, h.drawn, h.held⟩ possible (fun lead => ?_) fun kind _ k left => ?_
      · rwa [still] at lead
      · cases left
        exact ⟨kind, by simp⟩
    · exact .refl s
  · exact .refl s

theorem State.reversed_housed (s : State) (m : Move) : State.Housed s (s.reversed m) := by
  unfold State.reversed
  dsimp only
  split
  · exact .withFilm ..
  · exact (State.Housed.mapTransport s _).trans (State.enterBackground_housed _)

/-- A reverse motion takes from drawn film, section and take-up what it returns to the supply (R141, R148). -/
theorem State.FilmSound.reversed (h : s.FilmSound) {m : Move} (moving : s.transport.move = some m)
    (reversing : m.phase = .reversing) : (s.reversed m).FilmSound := by
  have counters := h.counters.reverse (Transport.movePossible_reversing h.possible moving reversing)
  have returned : s.transport.remaining ≤ (s.transport.reverse m.left).remaining := Nat.le_add_right ..
  have still : s.transport.stillToMove = 0 := by simp [Transport.stillToMove, moving, reversing]
  have done : State.FilmSound { s with transport := (s.transport.reverse m.left).atRest } := by
    refine h.moved moving ⟨counters.length, counters.drawn, counters.held⟩ rfl (fun lead => ?_) fun _ _ k left => ?_
    · rw [still] at lead
      exact lead.trans returned
    · cases left
  unfold State.reversed
  dsimp only
  split
  · exact done
  · refine done.enterBackground rfl fun exposing => ?_
    obtain ⟨e, exposing⟩ := Option.ne_none_iff_exists'.mp exposing
    rcases h.stage_of_move moving exposing with ⟨-, -, lead⟩ | ⟨-, -, -, phase⟩
    · rw [still, Nat.zero_add] at lead
      exact lead.trans returned
    · exact absurd reversing phase

theorem execReverseDone_steady (s : State) : (execReverseDone s).SteadyFrom s := by
  unfold execReverseDone
  split
  · split
    · exact State.Steady.event ⟨s.reversed_housed _, fun h => h.reversed ‹_› ‹_›⟩
    · exact .refl s
  · exact .refl s

theorem State.Steady.knifed {m : Move} (moving : s.transport.move = some m) :
    State.Steady s (s.knifed m) := by
  unfold State.knifed
  dsimp only
  split
  · refine ⟨.mapTransport .., fun h => ?_⟩
    refine h.moved moving (u := { s.transport.atRest with depth := 0 })
      ⟨h.length, Nat.zero_le _, Nat.zero_le _⟩ rfl (fun lead => ?_) fun _ _ k left => ?_
    · exact le_trans (Nat.add_le_add_right (Nat.zero_le _) _) lead
    · cases left
  · refine ⟨(State.Housed.mapTransport s _).trans (State.endExposure_housed _), fun h => ?_⟩
    exact State.endExposure_film ⟨h.length, Nat.zero_le _, Nat.zero_le _⟩ rfl

theorem execKnifeDone_steady (s : State) : (execKnifeDone s).SteadyFrom s := by
  unfold execKnifeDone
  split
  · split
    · exact (State.Steady.knifed ‹_›).event
    · exact .refl s
  · exact .refl s

/-! ## The cassettes (R141 to R144, R151) -/

theorem supplyLengthOf_ge {code length : Nat} (h : supplyLengthOf code = some length) : Config.leadOut ≤ length := by
  unfold supplyLengthOf at h
  split at h <;> cases h <;> decide

/-- A cassette mounted while no move is in progress: counters that agree, and a supply no shorter than the lead-out wherever it
was none before. -/
theorem State.FilmSound.mounted (h : s.FilmSound) (still : s.transport.move = none) {u : Transport}
    (same : u.move = none) (counters : u.CountersAgree)
    (lead : Config.leadOut ≤ s.transport.remaining → Config.leadOut ≤ u.remaining) :
    State.FilmSound { s with transport := u } := by
  refine .of_counters counters (Transport.movePossible_of_none same) ?_
  have kept : s.transport.leadOutKept = true → u.leadOutKept = true := by
    rw [Transport.leadOutKept_of_none still, Transport.leadOutKept_of_none same]
    exact lead
  have stage := h.stage
  unfold State.stageSound at stage ⊢
  dsimp only
  rw [same]
  rw [still] at stage
  split at stage
  · rfl
  · split at stage <;> simp_all

theorem State.Steady.cassetteMounted (s : State) : State.Steady s s.cassetteMounted := by
  refine .ite fun may => State.Steady.trans ?_ (.resumeAll ..)
  have rest : s.transport.inMotion = false := by simp [Transport.inMotion, may.1]
  exact ⟨.mapTransport .., fun h => h.of_state rest rfl rfl⟩

theorem execSupplyInsertion_steady (lengthCode stockCode : Nat) (s : State) :
    (execSupplyInsertion lengthCode stockCode s).SteadyFrom s := by
  unfold execSupplyInsertion
  split
  · exact .refl s
  · rename_i rest
    split
    · rename_i n stock valid _
      refine State.Steady.event (State.Steady.trans ⟨.mapTransport .., fun h => ?_⟩ (.cassetteMounted _))
      have still := Transport.move_eq_none_of_not_inMotion h.possible (by simpa using rest)
      exact h.mounted still (u := s.transport.mountSupply n stock) still ⟨rfl, le_rfl, Nat.zero_le _⟩
        fun _ => supplyLengthOf_ge valid
    · exact .refl s

theorem execTakeUpInsertion_steady (s : State) : (execTakeUpInsertion s).SteadyFrom s := by
  unfold execTakeUpInsertion
  split
  · exact .refl s
  · rename_i rest
    refine State.Steady.event (State.Steady.trans ⟨.mapTransport .., fun h => ?_⟩ (.cassetteMounted _))
    have still := Transport.move_eq_none_of_not_inMotion h.possible (by simpa using rest)
    exact h.mounted still (u := s.transport.mountTakeUp) still ⟨h.length, Nat.zero_le _, le_rfl⟩ id

/-- A removal leaves no move in progress, and the counters in agreement (R151). -/
theorem Transport.dismounted_spec {t : Transport} (h : t.CountersAgree) (possible : t.movePossible = true) :
    t.dismounted.move = none ∧ t.dismounted.CountersAgree := by
  obtain ⟨length, drawn, held⟩ := h
  unfold Transport.dismounted
  split
  · rename_i jammed
    have still := Transport.move_eq_none_of_not_inMotion possible (by simp [Transport.inMotion, jammed])
    exact ⟨still, length, drawn, held⟩
  · dsimp only
    split
    · refine ⟨rfl, length, ?_, ?_⟩ <;> dsimp only <;> split
      · exact Nat.zero_le _
      · exact drawn
      · exact Nat.zero_le _
      · exact held
    · rename_i rest
      have still := Transport.move_eq_none_of_not_inMotion possible (by simpa using rest)
      exact ⟨still, length, drawn, held⟩

theorem State.Steady.dismount (s : State) {clear : Transport → Transport} (move : ∀ t, (clear t).move = t.move)
    (counters : ∀ t : Transport, t.CountersAgree → (clear t).CountersAgree) : State.Steady s (s.dismount clear) := by
  refine ⟨(State.Housed.mapTransport s _).trans (State.stopExposure_housed ..), fun h => ?_⟩
  obtain ⟨none, agree⟩ := Transport.dismounted_spec h.counters h.possible
  exact State.stopExposure_film (counters _ agree) (Transport.movePossible_of_none ((move _).trans none)) _

theorem execSupplyRemoval_steady (s : State) : (execSupplyRemoval s).SteadyFrom s :=
  .ite fun _ => State.Steady.event (.dismount s (fun _ => rfl) fun _ _ => ⟨rfl, le_rfl, Nat.zero_le _⟩)

theorem execTakeUpRemoval_steady (s : State) : (execTakeUpRemoval s).SteadyFrom s :=
  .ite fun _ => State.Steady.event (.dismount s (fun _ => rfl) fun _ h => ⟨h.length, h.drawn, h.held⟩)

end Sys2Proof.Machine
end

section
/-! The commands of the whole station, the passing of a millisecond, and the three invariants of every step. -/

namespace Sys2Proof.Machine

variable {s t u : State}

/-! ## Power-on, halt, release and reset (R152, R153, R177, R181 to R184) -/

/-- Only its cassettes move the transport's counters at power-on (R153). -/
theorem poweredTransport_spec (supply : Option (Nat × Nat)) (takeUp : Bool) :
    (poweredTransport supply takeUp).CountersAgree ∧ (poweredTransport supply takeUp).move = none := by
  unfold poweredTransport
  cases supply with
  | none => cases takeUp <;> exact ⟨⟨rfl, Nat.zero_le _, Nat.zero_le _⟩, rfl⟩
  | some codes =>
    dsimp only
    cases supplyLengthOf codes.1 <;> cases Stock.ofCode codes.2 <;> cases takeUp <;>
      exact ⟨⟨rfl, Nat.zero_le _, Nat.zero_le _⟩, rfl⟩

theorem execPowerOn_steady (p : PowerInputs) (s : State) : (execPowerOn p s).SteadyFrom s where
  capacities _ :=
    { watch := Nat.zero_le _
      table := Nat.zero_le _
      queue := Nat.zero_le _
      dictionary := Nat.zero_le _
      directory := List.length_replicate ..
      wants := Nat.zero_le _
      catalog := Nat.zero_le _
      transmit := Nat.zero_le _
      ring := Nat.zero_le _ }
  memory _ := Memory.wf_nil
  film _ := by
    obtain ⟨agree, still⟩ := poweredTransport_spec p.supply p.takeUp
    exact .of_counters agree (Transport.movePossible_of_none still) (State.stageSound_of_none rfl)

theorem execStationHalt_steady (h : Header) (s : State) : (execStationHalt h s).SteadyFrom s := by
  refine .onFrame _ _ fun s => .ite fun _ => ?_
  have halted : State.Steady s { s with station := { s.station with mode := .halted } } :=
    ⟨⟨fun k => { k with }, id⟩, fun k => k.of_eq rfl rfl⟩
  have settled : ∀ s : State, State.Steady s s.settleWatches := fun s =>
    (State.Steady.withdraw s _).trans (.withGalleys (fun h => (List.length_map ..).trans_le h) fun h => h)
  exact (halted.trans (settled _)).trans (.foldl (fun _ _ => .suspend ..) _ _)

theorem execStationRelease_steady (h : Header) (s : State) : (execStationRelease h s).SteadyFrom s := by
  refine .onFrame _ _ fun s => .ite fun _ => ?_
  have running : State.Steady s { s with station := { s.station with mode := .running } } :=
    ⟨⟨fun k => { k with }, id⟩, fun k => k.of_eq rfl rfl⟩
  have checked : ∀ s : State, State.Steady s s.filmCheck := fun s => s.filmCheck_kept.steady State.Fits.filmCheck
  exact ((running.trans (.resumeAll ..)).trans (checked _)).trans
    ((State.examine_followUp _ _).steady fun h => h.examine _)

theorem Line.stationReset_count_le (l : Line) : l.stationReset.count ≤ 1 := by
  unfold Line.stationReset Line.count
  dsimp only
  split
  · simp only [List.length_nil, Nat.zero_add]
    split
    · exact le_rfl
    · exact Nat.zero_le 1
  · simp

/-- A station reset lets the operation under way complete, and moves no film (R152). -/
theorem Transport.stationReset_spec {t : Transport} (h : t.CountersAgree) (possible : t.movePossible = true) :
    t.stationReset.CountersAgree ∧ t.stationReset.movePossible = true := by
  obtain ⟨length, drawn, held⟩ := h
  have ended : ∀ m, t.move = some m →
      Transport.movePossible { t with trips := 0, move := some { m with ending := true } } = true := by
    intro m moving
    unfold Transport.movePossible at possible ⊢
    rwa [moving] at possible
  unfold Transport.stationReset
  dsimp only
  split
  · exact ⟨⟨length, drawn, held⟩, rfl⟩
  · split
    · exact ⟨⟨length, drawn, held⟩, rfl⟩
    · exact ⟨⟨length, drawn, held⟩, ended _ ‹_›⟩
  · split
    · exact ⟨⟨length, drawn, held⟩, rfl⟩
    · exact ⟨⟨length, drawn, held⟩, ended _ ‹_›⟩
  · exact ⟨⟨length, drawn, held⟩, possible⟩

theorem Imaging.watch_exposure (i : Imaging) (next : Bool) : (i.watch next).exposure = i.exposure := by
  unfold Imaging.watch
  split <;> rfl

theorem State.Steady.stationReset (s : State) : State.Steady s s.stationReset where
  capacities h :=
    { watch := Nat.zero_le _
      table := Nat.zero_le _
      queue := Nat.zero_le _
      dictionary := h.dictionary
      directory := (List.length_map ..).trans h.directory
      wants := Nat.zero_le _
      catalog := h.catalog
      transmit := s.line.stationReset_count_le.trans (by decide)
      ring := Nat.zero_le _ }
  memory := id
  film h := by
    obtain ⟨agree, possible⟩ := Transport.stationReset_spec h.counters h.possible
    refine .of_counters agree possible (State.stageSound_of_none ?_)
    show s.imaging.stationReset.exposure = none
    unfold Imaging.stationReset
    dsimp only
    rw [Imaging.watch_exposure]
    split <;> rfl

theorem execStationReset_steady (h : Header) (s : State) : (execStationReset h s).SteadyFrom s :=
  .onFrame _ _ fun s => .stationReset s

/-! ## The millisecond (R180) -/

theorem Transport.tick_spec (t : Transport) :
    t.tick.movePossible = t.movePossible ∧ t.tick.leadOutKept = t.leadOutKept := by
  cases moving : t.move with
  | none => simp [Transport.tick, Transport.movePossible, Transport.leadOutKept, Transport.stillToMove, moving]
  | some m =>
    cases phase : m.phase <;>
      simp [Transport.tick, Transport.movePossible, Transport.leadOutKept, Transport.stillToMove, MovePhase.tick,
        Transport.inMotion, moving, phase]

/-- A millisecond changes no counter of the film, and no stage (R180). -/
theorem State.stageSound_tick (s : State) : s.tick.stageSound = s.stageSound := by
  obtain ⟨-, lead⟩ := s.transport.tick_spec
  have move : s.transport.tick.move = s.transport.move.map fun m => { m with phase := m.phase.tick } := rfl
  cases exposing : s.imaging.exposure with
  | none => exact (State.stageSound_of_none (s := s.tick) exposing).trans (State.stageSound_of_none exposing).symm
  | some e =>
    have ticked : s.tick.imaging.exposure = some e := exposing
    rw [Bool.eq_iff_iff]
    cases stage : e.stage with
    | move => rw [State.stageSound_move exposing stage, State.stageSound_move ticked stage, ← lead]; rfl
    | background =>
      rw [State.stageSound_exposing exposing (.inl stage), State.stageSound_exposing ticked (.inl stage), ← lead]
      exact and_congr_left fun _ => Option.map_eq_none_iff
    | runs =>
      rw [State.stageSound_exposing exposing (.inr stage), State.stageSound_exposing ticked (.inr stage), ← lead]
      exact and_congr_left fun _ => Option.map_eq_none_iff
    | cut =>
      rw [State.stageSound_cut exposing stage, State.stageSound_cut ticked stage]
      refine and_congr_right fun _ => ?_
      show (∀ m, s.transport.tick.move = some m → _) ↔ _
      rw [move]
      cases s.transport.move with
      | none => simp
      | some m => cases phase : m.phase <;> simp [MovePhase.tick, phase]

theorem State.Steady.tick (s : State) : State.Steady s s.tick where
  capacities h :=
    { h with
      watch := (List.length_map ..).trans_le h.watch
      wants := (List.length_map ..).trans_le h.wants
      ring := by
        have ring := h.ring
        show match s.proofer.raster.map fun r => { r with timer := r.timer - 1 } with
          | some r => r.rows < Config.bandRows ∧ s.proofer.ring.length + (Config.bandRows - r.rows) ≤ Config.ringRows
          | none => s.proofer.ring.length ≤ Config.ringRows
        cases rastering : s.proofer.raster with
        | none => simpa [rastering] using ring
        | some r => simpa [rastering] using ring }
  memory := id
  film h := by
    obtain ⟨possible, -⟩ := s.transport.tick_spec
    exact .of_counters ⟨h.length, h.drawn, h.held⟩ (possible.trans h.possible) (s.stageSound_tick.trans h.stage)

/-! ## Every command and every step -/

theorem execWarmUpTimer_steady (s : State) : (execWarmUpTimer s).SteadyFrom s := by
  refine .ite fun _ => State.Steady.event ?_
  exact .withImaging rfl

theorem execStandbyTimer_steady (s : State) : (execStandbyTimer s).SteadyFrom s := by
  refine .ite fun _ => State.Steady.event ?_
  exact .withImaging rfl

/-- Every command keeps the three invariants. -/
theorem exec_steady (i : Instr) (s : State) : Result.SteadyFrom s (exec i s) := by
  cases i with
  | powerOn p => exact execPowerOn_steady p s
  | quietPeriodEnd => exact State.Steady.withLine id
  | contentionOpportunity other => exact execContentionOpportunity_steady other s
  | frameLeftLine => exact execFrameLeftLine_steady s
  | stuffingViolation bits => exact execStuffingViolation_steady bits s
  | frameDiscarded bits inQuiet => exact execFrameDiscarded_steady bits inQuiet s
  | galleyPosted h p => exact State.Steady.onFrame _ _ fun s => .hearPosting s p
  | claimDelayExpiry id => exact execClaimDelayExpiry_steady id s
  | watchExpiryTimer id => exact State.Steady.dropWatch s id
  | galleyClaim h id => exact execGalleyClaim_steady h id s
  | galleyCancel h id => exact execGalleyCancel_steady h id s
  | textSegment h id number units => exact execTextSegment_steady h id number units s
  | textCredit h | galleyReport h => exact State.Steady.onFrame _ _ .refl
  | proofWanted h id first last => exact execProofWanted_steady h id first last s
  | textTimeout => exact execTextTimeout_steady s
  | composerTakesHead => exact execComposerTakesHead_steady s
  | characterUnit code => exact execCharacterUnit_steady code s
  | ignoredUnit | font | size | measure | lead | quad | fixedSpace | indent | offset | hyphenate | ladder | letterspace
  | track | softHyphen | reverse | advance | back | cut | learn | density => exact State.Steady.takeUnit s _ _
  | endLine | endPara => exact State.Steady.takeTasks s _ _
  | endLearn => exact execEndLearn_steady s
  | endGalley => exact execEndGalley_steady s
  | wordLearned h body => exact execWordLearned_steady h body s
  | inboundTakesEntry => exact execInboundTakesEntry_steady s
  | cartridgeBlockRead data => exact execCartridgeBlockRead_steady data s
  | retryWait font => exact execRetryWait_steady font s
  | deferralLimit font => exact execDeferralLimit_steady font s
  | cartridgeInsertion => exact execCartridgeInsertion_steady s
  | catalogRead fonts => exact execCatalogRead_steady fonts s
  | cartridgeRemoval => exact execCartridgeRemoval_steady s
  | askingWait => exact execAskingWait_steady s
  | fontWanted h font => exact execFontWanted_steady h font s
  | offerDelay => exact execOfferDelay_steady s
  | fontOffer h font asker total => exact execFontOffer_steady h font asker total s
  | fontTake h font lender first => exact execFontTake_steady h font lender first s
  | takeWait => exact execTakeWait_steady s
  | fontBlock h font index data => exact execFontBlock_steady h font index data s
  | stallTimer => exact execStallTimer_steady s
  | stationHalt h => exact execStationHalt_steady h s
  | stationRelease h => exact execStationRelease_steady h s
  | stationReset h => exact execStationReset_steady h s
  | warmUpTimer => exact execWarmUpTimer_steady s
  | standbyTimer => exact execStandbyTimer_steady s
  | exposureStart => exact execExposureStart_steady s
  | turretMoveEnd => exact execTurretMoveEnd_steady s
  | backgroundPass => exact execBackgroundPass_steady s
  | flashDone => exact execFlashDone_steady s
  | strokeCompleted samples => exact execStrokeCompleted_steady samples s
  | strokeTrip samples => exact execStrokeTrip_steady samples s
  | holdOff => exact execHoldOff_steady s
  | reverseDone => exact execReverseDone_steady s
  | knifeDone => exact execKnifeDone_steady s
  | supplyInsertion lengthCode stockCode => exact execSupplyInsertion_steady lengthCode stockCode s
  | supplyRemoval => exact execSupplyRemoval_steady s
  | takeUpInsertion => exact execTakeUpInsertion_steady s
  | takeUpRemoval => exact execTakeUpRemoval_steady s
  | rasterizeStart => exact execRasterizeStart_steady s
  | rowWritten => exact execRowWritten_steady s
  | printStart => exact execPrintStart_steady s
  | rowPrinted => exact execRowPrinted_steady s
  | idleTimer | settlingTimer | wakingTimer | paperIn =>
    exact State.Steady.ite fun _ => State.Steady.event (.mapPrinter ..)
  | paperOut => exact execPaperOut_steady s
  | abandonmentTimer => exact execAbandonmentTimer_steady s
  | endOfArbitration read => exact execEndOfArbitration_steady read s

/-- Every step keeps the three invariants: a command's, a due event's, or a millisecond's. -/
theorem step_steady (s : State) : Result.SteadyFrom s (step s) := by
  unfold step
  split
  · rename_i i rest _
    have taken : State.Steady s { s with pending := rest } := ⟨⟨fun k => { k with }, id⟩, fun k => k.of_eq rfl rfl⟩
    have ran := exec_steady i { s with pending := rest }
    revert ran
    cases exec i { s with pending := rest } with
    | next t => exact taken.trans
    | fault | refused => exact id
  · split
    · exact exec_steady _ s
    · exact .tick s

theorem State.Steady.of_step (h : step s = .next t) : State.Steady s t := by
  have steady := step_steady s
  rwa [h] at steady

/-- Settles O58. -/
theorem stepKeepsCapacities : Obligations.StepKeepsCapacities := fun _ _ within h =>
  (State.Steady.of_step h).capacities within

/-- Settles O59. -/
theorem stepKeepsMemoryCanonical : Obligations.StepKeepsMemoryCanonical := fun _ _ canonical h =>
  (State.Steady.of_step h).memory canonical

/-- Settles O60. -/
theorem stepKeepsFilmSound : Obligations.StepKeepsFilmSound := fun _ _ sound h =>
  (State.Steady.of_step h).film sound

end Sys2Proof.Machine
end

section
/-! The proofs of Setting Codes (R25, R28 to R34, R37 to R39): every unit that changes the composer alone is
`State.takeUnit` with its own effect, which is compared with the effect its rule states. -/

namespace Sys2Proof.Machine

variable {s : State}

/-- The range of a parameter (About This Manual). -/
theorem clamp_eq_max_min {lo hi : Nat} (range : lo ≤ hi) (p : Nat) : clamp p lo hi = max lo (min hi p) := by
  unfold clamp
  split_ifs <;> omega

/-- A unit that changes the composer alone is taken with its effect, whatever form its rule gives that effect. -/
theorem State.exists_unitTaken {i : Instr} {f : Composer → Composer} {c : Composer}
    (run : exec i s = .next (s.takeUnit i f)) (notLast : i ≠ .endGalley) (effect : f s.composer = c)
    (state : c.state = s.composer.state) (galley : c.galley = s.composer.galley) (taking : s.taking i = true) :
    ∃ t, exec i s = .next t ∧ s.UnitTaken c t := by
  subst effect
  exact ⟨_, run, State.takeUnit_spec taking notLast state galley⟩

/-- A unit that changes the setting parameters alone. -/
theorem State.exists_unitTaken_param {i : Instr} {f : Params → Params} {p : Params}
    (run : exec i s = .next (s.takeParam i f)) (notLast : i ≠ .endGalley) (effect : f s.composer.params = p)
    (taking : s.taking i = true) :
    ∃ t, exec i s = .next t ∧ s.UnitTaken { s.composer with params := p } t := by
  subst effect
  exact State.exists_unitTaken run notLast rfl rfl rfl taking

/-! ## The character and line parameters (R28 to R32) -/

theorem fontSizeTrack : Claims.FontSizeTrack := by
  refine fun p s => ⟨?font, ?size, ?track⟩
  case font => exact State.exists_unitTaken_param rfl nofun rfl
  case size =>
    refine State.exists_unitTaken_param rfl nofun ?_
    rw [clamp_eq_max_min (by decide)]
  case track =>
    refine State.exists_unitTaken_param rfl nofun ?_
    have held : ((min p 16 : Nat) : Int) - 8 = if p ≤ 16 then (p : Int) - 8 else 8 := by split <;> omega
    rw [held]

theorem Composer.lineEmpty_iff (c : Composer) : c.lineEmpty = true ↔ c.line.items = [] ∧ c.word.boxes = [] := by
  simp [Composer.lineEmpty]

theorem measureIndent : Claims.MeasureIndent := by
  refine fun p s => ⟨?measure, ?indent⟩
  case measure =>
    refine State.exists_unitTaken rfl nofun ?_ rfl rfl
    unfold Composer.setMeasure
    simp only [Composer.lineEmpty_iff, clamp_eq_max_min (show 6 ≤ 720 by decide)]
  case indent =>
    refine State.exists_unitTaken rfl nofun ?_ rfl rfl
    unfold Composer.setIndent
    simp only [Composer.lineEmpty_iff]

/-- A number that is not 0, as the model tests it and as a rule says it. -/
theorem bne_zero_eq_decide (p : Nat) : (p != 0) = decide (p ≠ 0) := by
  cases p <;> rfl

theorem quadHyphenateLadder : Claims.QuadHyphenateLadder := by
  refine fun p s => ⟨?quad, ?hyphenate, ?ladder⟩
  case quad =>
    intro quad mode
    refine State.exists_unitTaken_param rfl nofun ?_
    simp only [List.mem_cons, List.not_mem_nil, Prod.mk.injEq, or_false] at mode
    rcases mode with ⟨rfl, rfl⟩ | ⟨rfl, rfl⟩ | ⟨rfl, rfl⟩ | ⟨rfl, rfl⟩ <;> rfl
  case hyphenate =>
    refine State.exists_unitTaken_param rfl nofun ?_
    rw [bne_zero_eq_decide]
  case ladder =>
    refine State.exists_unitTaken_param rfl nofun ?_
    rw [clamp_eq_max_min (by decide)]

/-- Settles O20. -/
theorem settingParameters : Obligations.SettingParameters := ⟨fontSizeTrack, measureIndent, quadHyphenateLadder⟩

/-! ## What the next record takes (R31, R37, R38) -/

theorem leadOffsetReverseDensityLetterspace : Claims.LeadOffsetReverseDensityLetterspace := by
  refine fun p s => ⟨?lead, ?offset, ?reverse, ?density, ?letterspace⟩
  case lead =>
    refine State.exists_unitTaken_param rfl nofun ?_
    rw [show 5 * min p 576 = min (5 * p) 2880 by omega]
  case offset =>
    refine State.exists_unitTaken_param rfl nofun ?_
    rw [show 20 * min p 720 = min (20 * p) 14400 by omega]
  case reverse =>
    refine State.exists_unitTaken_param rfl nofun ?_
    rw [bne_zero_eq_decide]
  case density =>
    refine State.exists_unitTaken_param rfl nofun ?_
    have held : ((min p 4 : Nat) : Int) - 2 = if p ≤ 4 then (p : Int) - 2 else 2 := by split <;> omega
    rw [held]
  case letterspace => exact State.exists_unitTaken_param rfl nofun rfl

theorem advanceBackCut : Claims.AdvanceBackCut := by
  refine fun p s => ⟨?advance, ?back, ?cut⟩
  case advance => exact State.exists_unitTaken_param rfl nofun rfl
  case back => exact State.exists_unitTaken_param rfl nofun rfl
  case cut => exact State.exists_unitTaken_param rfl nofun rfl

/-- Settles O21. -/
theorem recordParameters : Obligations.RecordParameters := ⟨leadOffsetReverseDensityLetterspace, advanceBackCut⟩

/-! ## Units inside a word (R25, R33, R34) -/

theorem Composer.takeFixedSpace_of_word {c : Composer} (word : c.params.learn = none) (p : Nat) :
    c.takeFixedSpace p =
      { c with word := { c.word with boxes := c.word.boxes ++ [.fixed (fixedSpaceWidth p c.params.size)] } } := by
  unfold Composer.takeFixedSpace Word.add
  rw [word, Bool.or_false]

theorem Composer.takeSoftHyphen_of_word {c : Composer} (word : c.params.learn = none) :
    c.takeSoftHyphen =
      { c with
        word :=
          if c.word.boxes = [] ∨ c.word.boxes.length ∈ c.word.soft then c.word
          else { c.word with soft := c.word.soft ++ [c.word.boxes.length] } } := by
  unfold Composer.takeSoftHyphen
  rw [word]
  simp only [List.length_eq_zero_iff]
  split <;> rfl

/-- Settles O22. -/
theorem unitsWithinAWord : Obligations.UnitsWithinAWord := by
  refine fun s => ⟨fun u => ?ignored, fun word => ⟨fun p width kind => ?fixed, ?soft⟩⟩
  case ignored => exact State.exists_unitTaken rfl nofun rfl rfl rfl
  case fixed =>
    refine State.exists_unitTaken rfl nofun ?_ rfl rfl
    rw [Composer.takeFixedSpace_of_word word]
    simp only [List.mem_cons, List.not_mem_nil, Prod.mk.injEq, or_false] at kind
    rcases kind with ⟨rfl, rfl⟩ | ⟨rfl, rfl⟩ | ⟨rfl, rfl⟩ <;> rfl
  case soft => exact State.exists_unitTaken rfl nofun (Composer.takeSoftHyphen_of_word word) rfl rfl

/-! ## Learn sequences (R39) -/

theorem LearnWord.take_eq (w : LearnWord) (code : Nat) :
    w.take code =
      if isLetter code = true ∧ w.letters.length < 24 then { w with letters := w.letters ++ [fold code] }
      else { w with valid := false } := by
  unfold LearnWord.take
  split_ifs <;> first | rfl | tauto

/-- A character of an open learn sequence is taken whatever its font's state is (log entry 15): it is a unit that changes the
parameters alone. -/
theorem exec_characterUnit_of_learn {code : Nat} {w : LearnWord} (open_ : s.composer.params.learn = some w)
    (taking : s.taking (.characterUnit code) = true) :
    exec (.characterUnit code) s =
      .next (s.takeParam (.characterUnit code) fun p => { p with learn := p.learn.map fun w => w.take code }) := by
  obtain ⟨-, g, working, -⟩ := State.taking_spec taking
  show execCharacterUnit code s = _
  unfold execCharacterUnit State.takeParam State.takeUnit State.takeCharacter
  rw [working]
  dsimp only
  rw [if_pos taking, if_pos taking, open_]
  rfl

/-- Settles O23. -/
theorem learnSequence : Obligations.LearnSequence := by
  refine fun s => ⟨fun p => ?learn, fun w open_ => ⟨fun code taking => ?character, fun p => ?fixed, ?soft⟩⟩
  case learn => exact State.exists_unitTaken_param rfl nofun rfl
  case character =>
    refine State.exists_unitTaken_param (exec_characterUnit_of_learn open_ taking) nofun ?_ taking
    rw [open_, Option.map_some, LearnWord.take_eq]
  case fixed =>
    refine State.exists_unitTaken rfl nofun ?_ rfl rfl
    unfold Composer.takeFixedSpace
    rw [open_]
    rfl
  case soft =>
    refine State.exists_unitTaken rfl nofun ?_ rfl rfl
    unfold Composer.takeSoftHyphen
    rw [open_]
    rfl

end Sys2Proof.Machine
end

section
/-! The proofs of Hyphenation (R40, R65 to R70, R76 to R79): the reply to a request, words taught at the station, and words
heard; before them what a credit evaluation and the taking of a unit may do to the transmit queue. -/

namespace Sys2Proof.Machine

variable {s : State}

/-! ## What a unit's taking leaves (R13, R16) -/

@[simp] theorem State.evaluateCredit_composer (s : State) : s.evaluateCredit.composer = s.composer := rfl
@[simp] theorem State.evaluateCredit_queue (s : State) : s.evaluateCredit.queue = s.queue := rfl
@[simp] theorem State.evaluateCredit_fonts (s : State) : s.evaluateCredit.fonts = s.fonts := rfl
@[simp] theorem State.evaluateCredit_station (s : State) : s.evaluateCredit.station = s.station := rfl
@[simp] theorem State.evaluateCredit_hyphenation (s : State) : s.evaluateCredit.hyphenation = s.hyphenation := rfl
@[simp] theorem State.evaluateCredit_imaging (s : State) : s.evaluateCredit.imaging = s.imaging := rfl
@[simp] theorem State.evaluateCredit_transport (s : State) : s.evaluateCredit.transport = s.transport := rfl
@[simp] theorem State.evaluateCredit_proofer (s : State) : s.evaluateCredit.proofer = s.proofer := rfl
@[simp] theorem State.evaluateCredit_pending (s : State) : s.evaluateCredit.pending = s.pending := rfl

/-- Consuming a unit changes a galley's text and the credit, and nothing else. -/
theorem State.consumeUnit_cases (s : State) :
    ∃ gu l, s.consumeUnit = { s with galleys := gu, line := l } := by
  unfold State.consumeUnit
  split
  · exact ⟨s.galleys, s.line, rfl⟩
  split
  · exact ⟨s.galleys, s.line, rfl⟩
  split
  · exact ⟨_, s.line, rfl⟩
  · exact ⟨_, _, rfl⟩

@[simp] theorem State.consumeUnit_composer (s : State) : s.consumeUnit.composer = s.composer := by
  obtain ⟨gu, l, same⟩ := s.consumeUnit_cases
  rw [same]

@[simp] theorem State.consumeUnit_queue (s : State) : s.consumeUnit.queue = s.queue := by
  obtain ⟨gu, l, same⟩ := s.consumeUnit_cases
  rw [same]

@[simp] theorem State.consumeUnit_fonts (s : State) : s.consumeUnit.fonts = s.fonts := by
  obtain ⟨gu, l, same⟩ := s.consumeUnit_cases
  rw [same]

@[simp] theorem State.consumeUnit_station (s : State) : s.consumeUnit.station = s.station := by
  obtain ⟨gu, l, same⟩ := s.consumeUnit_cases
  rw [same]

@[simp] theorem State.consumeUnit_hyphenation (s : State) : s.consumeUnit.hyphenation = s.hyphenation := by
  obtain ⟨gu, l, same⟩ := s.consumeUnit_cases
  rw [same]

/-- Asking for the next unit may leave the composer waiting for text, and starts the timer and the credit of that wait; it
changes nothing else. -/
theorem State.askNext_cases (s : State) :
    ∃ gu l st, s.askNext = { s with galleys := gu, line := l, composer := { s.composer with state := st } } ∧
      (st = s.composer.state ∨ st = .waitText) := by
  unfold State.askNext
  split
  · exact ⟨s.galleys, s.line, s.composer.state, rfl, .inl rfl⟩
  split
  · exact ⟨_, _, .waitText, rfl, .inr rfl⟩
  · exact ⟨s.galleys, s.line, s.composer.state, rfl, .inl rfl⟩

@[simp] theorem State.askNext_queue (s : State) : s.askNext.queue = s.queue := by
  obtain ⟨gu, l, st, same, -⟩ := s.askNext_cases
  rw [same]

@[simp] theorem State.askNext_fonts (s : State) : s.askNext.fonts = s.fonts := by
  obtain ⟨gu, l, st, same, -⟩ := s.askNext_cases
  rw [same]

@[simp] theorem State.askNext_hyphenation (s : State) : s.askNext.hyphenation = s.hyphenation := by
  obtain ⟨gu, l, st, same, -⟩ := s.askNext_cases
  rw [same]

theorem State.askNext_composer (s : State) : s.askNext.composer = { s.composer with state := s.askNext.composer.state } := by
  obtain ⟨gu, l, st, same, -⟩ := s.askNext_cases
  rw [same]

/-! ## What waits in the transmit queue stays there while there is room (R173) -/

/-- From `l` to `m` no descriptor has gone from the queue, and at most `n` have come. -/
structure Line.GrowsBy (n : Nat) (l m : Line) : Prop where
  stays : ∀ d ∈ l.queue, d ∈ m.queue
  count : m.count ≤ l.count + n

theorem Line.GrowsBy.refl (n : Nat) (l : Line) : Line.GrowsBy n l l := ⟨fun _ => id, Nat.le_add_right ..⟩

theorem Line.count_withWaiting (l : Line) (kind : FrameKind) (dest : BitVec 5) (body : List Byte) (owner : FrameOwner) :
    (l.withWaiting kind dest body owner).count = l.count + 1 := by
  unfold Line.count
  rw [show (l.withWaiting kind dest body owner).queue.length = l.queue.length + 1 from length_insertBy ..]
  show l.queue.length + 1 + (if l.flight.isSome then 1 else 0) = _
  omega

theorem Line.withWaiting_growsBy (l : Line) (kind : FrameKind) (dest : BitVec 5) (body : List Byte)
    (owner : FrameOwner) : Line.GrowsBy 1 l (l.withWaiting kind dest body owner) :=
  ⟨fun _ h => mem_insertBy.mpr (.inr h), (l.count_withWaiting ..).le⟩

/-- A frame of no galley's report offered where there is room displaces none. -/
theorem Line.offer_growsBy {l : Line} (takesPart : Bool) (kind : FrameKind) (dest : BitVec 5) (body : List Byte)
    {owner : FrameOwner} (noReport : ∀ id, owner ≠ .report id) (room : l.count < Config.transmitCapacity) :
    Line.GrowsBy 1 l (l.offer takesPart kind dest body owner).1 := by
  cases takesPart with
  | false => exact .refl 1 l
  | true =>
    rw [l.offer_of_room _ _ _ _ (l.waitingReport_eq_none noReport) room]
    exact l.withWaiting_growsBy ..

theorem grantCredit_growsBy (takesPart : Bool) (head : Option GalleyId) {b : GalleyUnit × Line} (id : GalleyId)
    (room : b.2.count < Config.transmitCapacity) : Line.GrowsBy 1 b.2 (grantCredit takesPart head b id).2 := by
  unfold grantCredit
  split
  · exact .refl 1 _
  dsimp only
  split
  · exact Line.offer_growsBy _ _ _ _ nofun room
  · exact .refl 1 _

theorem foldl_grantCredit_growsBy (takesPart : Bool) (head : Option GalleyId) (ids : List GalleyId)
    {b : GalleyUnit × Line} (room : b.2.count + ids.length ≤ Config.transmitCapacity) :
    Line.GrowsBy ids.length b.2 (ids.foldl (grantCredit takesPart head) b).2 := by
  induction ids generalizing b with
  | nil => exact .refl 0 _
  | cons id ids ih =>
    rw [List.length_cons] at room
    obtain ⟨stays, count⟩ := grantCredit_growsBy takesPart head (b := b) id (by omega)
    obtain ⟨stays', count'⟩ := ih (b := grantCredit takesPart head b id) (by omega)
    exact ⟨fun d h => stays' d (stays d h), by rw [List.foldl_cons, List.length_cons]; omega⟩

theorem length_orderBy {α : Type} (before : α → α → Bool) (xs : List α) : (orderBy before xs).length = xs.length := by
  have fold : ∀ (xs acc : List α),
      (xs.foldl (fun acc x => insertBy before x acc) acc).length = xs.length + acc.length := by
    intro xs
    induction xs with
    | nil => simp
    | cons x xs ih =>
      intro acc
      rw [List.foldl_cons, ih, length_insertBy, List.length_cons]
      omega
  exact fold xs []

theorem GalleyUnit.creditOrder_length_le (gu : GalleyUnit) (head : Option GalleyId) :
    (gu.creditOrder head).length ≤ gu.table.length + 1 := by
  have ids : (gu.composeOrder.map Galley.id).length = gu.table.length := by
    rw [List.length_map]
    exact length_orderBy ..
  unfold GalleyUnit.creditOrder
  dsimp only
  split
  · exact Nat.succ_le_succ ((List.length_filter_le ..).trans ids.le)
  · omega

/-- A credit evaluation offers at most one TEXT CREDIT for each galley, and one for the head. -/
theorem State.evaluateCredit_growsBy (room : s.line.count + (s.galleys.table.length + 1) ≤ Config.transmitCapacity) :
    Line.GrowsBy (s.galleys.table.length + 1) s.line s.evaluateCredit.line := by
  have fewer := s.galleys.creditOrder_length_le (s.galleys.head s.composer.galley)
  obtain ⟨stays, count⟩ := foldl_grantCredit_growsBy s.station.takesPart (s.galleys.head s.composer.galley)
    (s.galleys.creditOrder (s.galleys.head s.composer.galley)) (b := (s.galleys, s.line)) (by dsimp only; omega)
  exact ⟨stays, count.trans (Nat.add_le_add_left fewer _)⟩

theorem GalleyUnit.update_table_length (gu : GalleyUnit) (id : GalleyId) (f : Galley → Galley) :
    (gu.update id f).table.length = gu.table.length := List.length_map ..

theorem State.consumeUnit_growsBy (room : s.line.count + (s.galleys.table.length + 1) ≤ Config.transmitCapacity) :
    Line.GrowsBy (s.galleys.table.length + 1) s.line s.consumeUnit.line := by
  unfold State.consumeUnit
  split
  · exact .refl _ _
  split
  · exact .refl _ _
  split
  · exact .refl _ _
  · have grown (id : GalleyId) (f : Galley → Galley) :=
      State.evaluateCredit_growsBy (s := s.mapGalleys fun gu => gu.update id f)
    simp only [State.mapGalleys_galleys, GalleyUnit.update_table_length] at grown
    exact grown _ _ room

theorem State.askNext_growsBy (room : s.line.count + (s.galleys.table.length + 1) ≤ Config.transmitCapacity) :
    Line.GrowsBy (s.galleys.table.length + 1) s.line s.askNext.line := by
  unfold State.askNext
  split
  · exact .refl _ _
  split
  · exact State.evaluateCredit_growsBy (s := { s with
      composer := { s.composer with state := .waitText }
      galleys := { s.galleys with textTimer := some Config.textTimer } }) room
  · exact .refl _ _

theorem State.MachineryKept.table_length_le {t : State} (h : State.MachineryKept s t) :
    t.galleys.table.length ≤ s.galleys.table.length := by
  simpa using h.held.length_le

/-! ## Words taught at the station (R40, R76, R77) -/

theorem mem_keptPoints {never : Bool} {length : Nat} {points : List Nat} {j : Nat} :
    j ∈ keptPoints never length points ↔ never = false ∧ 1 ≤ j ∧ j < length ∧ j ∈ points := by
  unfold keptPoints
  cases never with
  | true => simp
  | false =>
    simp only [Bool.false_eq_true, if_false, List.mem_filter, List.mem_range'_1, decide_eq_true_eq, true_and]
    rw [← and_assoc]
    exact and_congr_left fun _ => by omega

theorem LearnWord.handed_of_valid {w : LearnWord} (valid : w.valid = true) (long : 2 ≤ w.letters.length)
    (short : w.letters.length ≤ 24) :
    w.handed = some (w.never, w.letters, keptPoints w.never w.letters.length w.points) := by
  unfold LearnWord.handed
  rw [if_pos ⟨valid, long, short⟩]

theorem exec_endLearn_of_taking (taking : s.taking .endLearn = true) :
    exec .endLearn s = .next (State.askNext s.consumeUnit.closeLearn) := by
  show execEndLearn s = _
  unfold execEndLearn
  rw [if_pos taking]

/-- A learn sequence that hands no word on is closed, and no more. -/
theorem State.closeLearn_of_none (none : s.composer.params.learn.bind LearnWord.handed = none) :
    s.closeLearn = s.mapParams fun q => { q with learn := .none } := by
  unfold State.closeLearn
  dsimp only
  rw [none]

theorem State.closeLearn_of_some {never : Bool} {letters points : List Nat}
    (some : s.composer.params.learn.bind LearnWord.handed = some (never, letters, points)) :
    s.closeLearn = (s.mapParams fun q => { q with learn := .none }).learnWord never letters points := by
  unfold State.closeLearn
  dsimp only
  rw [some]

section LearnWord
variable (s : State) (never : Bool) (letters points : List Nat)

@[simp] theorem State.learnWord_hyphenation :
    (s.learnWord never letters points).hyphenation = s.hyphenation.learnLocal letters never points := rfl
@[simp] theorem State.learnWord_composer : (s.learnWord never letters points).composer = s.composer := rfl
@[simp] theorem State.learnWord_queue : (s.learnWord never letters points).queue = s.queue := rfl
@[simp] theorem State.learnWord_fonts : (s.learnWord never letters points).fonts = s.fonts := rfl

end LearnWord

/-- A WORD LEARNED queued behind the consuming of END LEARN still waits when the composer has asked for its next unit: the two
credit evaluations offer too few frames to fill the queue. -/
theorem State.exists_wordLearned_waiting (takesPart : s.station.takesPart = true) (few : s.line.count ≤ 4)
    (held : s.galleys.table.length ≤ 4) (never : Bool) (letters points : List Nat) :
    ∃ d ∈ (((s.consumeUnit.mapParams fun q => { q with learn := none }).learnWord never letters points).askNext).line.queue,
      d.kind = .wordLearned ∧ d.owner = .hyphenation ∧ d.body = wordLearnedBody never letters points := by
  have capacity : Config.transmitCapacity = 16 := rfl
  have consumed := (State.consumeUnit_growsBy (s := s) (by omega)).count
  have fewer := s.consumeUnit_kept.table_length_le
  have room : s.consumeUnit.line.count < Config.transmitCapacity := by omega
  have queued : ((s.consumeUnit.mapParams fun q => { q with learn := none }).learnWord never letters points).line =
      s.consumeUnit.line.withWaiting .wordLearned 0 (wordLearnedBody never letters points) .hyphenation := by
    unfold State.learnWord
    simp only [State.send_line, State.mapParams_station, State.mapParams_line, State.consumeUnit_station, takesPart]
    rw [Line.offer_of_room _ _ _ _ _ (Line.waitingReport_eq_none _ fun _ h => FrameOwner.noConfusion h) room]
  have asked := State.askNext_growsBy
    (s := (s.consumeUnit.mapParams fun q => { q with learn := none }).learnWord never letters points)
    (by
      rw [queued, Line.count_withWaiting]
      show s.consumeUnit.line.count + 1 + (s.consumeUnit.galleys.table.length + 1) ≤ _
      omega)
  rw [queued] at asked
  exact ⟨_, asked.stays _ (mem_insertBy.mpr (.inl rfl)), rfl, rfl, rfl⟩

theorem endLearn : Claims.EndLearn := by
  intro s taking
  constructor
  · intro none
    refine State.exists_unitTaken_param (f := fun p => { p with learn := .none }) ?_ nofun rfl taking
    rw [exec_endLearn_of_taking taking, State.closeLearn_of_none (by rw [State.consumeUnit_composer]; exact none)]
    unfold State.takeParam State.takeUnit
    rw [if_pos taking]
    rfl
  · intro w open_ valid long short
    have handed : s.consumeUnit.composer.params.learn.bind LearnWord.handed =
        some (w.never, w.letters, keptPoints w.never w.letters.length w.points) := by
      rw [State.consumeUnit_composer, open_, Option.bind_some, LearnWord.handed_of_valid valid long short]
    refine ⟨_, _, exec_endLearn_of_taking taking, fun j => mem_keptPoints, ?_⟩
    rw [State.closeLearn_of_some handed, State.askNext_hyphenation, State.askNext_composer, State.askNext_queue,
      State.askNext_fonts]
    simp only [State.learnWord_hyphenation, State.learnWord_composer, State.learnWord_queue, State.learnWord_fonts,
      State.mapParams_hyphenation, State.mapParams_composer, State.mapParams_queue, State.mapParams_fonts,
      State.consumeUnit_hyphenation, State.consumeUnit_composer, State.consumeUnit_queue, State.consumeUnit_fonts,
      true_and]
    exact fun takesPart few held => State.exists_wordLearned_waiting takesPart few held _ _ _

theorem Hyphenation.exists_find_replace_self {u : Hyphenation} {word points : List Nat} {never : Bool} {origin : Origin}
    {e : DictEntry} (found : u.find word = some e) :
    ∃ stamp, (u.replace word never points origin).find word = some ⟨word, never, points, origin, stamp⟩ := by
  obtain ⟨stampOf, aged⟩ := Hyphenation.exists_find_advanceAge
    { u with
      entries := u.entries.map fun e =>
        if e.word = word then { e with never := never, points := points, origin := origin, stamp := u.ageCount }
        else e } word
  refine ⟨stampOf u.ageCount, aged.trans ?_⟩
  have sameWord : e.word = word := by simpa using List.find?_some (show _ = some e from found)
  unfold Hyphenation.find at found ⊢
  rw [List.find?_map]
  have words : ((fun e : DictEntry => decide (e.word = word)) ∘ fun e =>
      if e.word = word then { e with never := never, points := points, origin := origin, stamp := u.ageCount } else e) =
      fun e => decide (e.word = word) := by
    funext k
    by_cases same : k.word = word <;> simp [same]
  rw [words, found]
  simp [sameWord, DictEntry.restamped]

theorem Hyphenation.exists_find_replace_of_ne {u : Hyphenation} {word letters points : List Nat} {never : Bool}
    {origin : Origin} (ne : word ≠ letters) :
    ∃ stampOf, (u.replace letters never points origin).find word =
      (u.find word).map (DictEntry.restamped stampOf) := by
  obtain ⟨stampOf, aged⟩ := Hyphenation.exists_find_advanceAge
    { u with
      entries := u.entries.map fun e =>
        if e.word = letters then { e with never := never, points := points, origin := origin, stamp := u.ageCount }
        else e } word
  refine ⟨stampOf, aged.trans ?_⟩
  unfold Hyphenation.find
  rw [List.find?_map]
  have words : ((fun e : DictEntry => decide (e.word = word)) ∘ fun e =>
      if e.word = letters then { e with never := never, points := points, origin := origin, stamp := u.ageCount } else e) =
      fun e => decide (e.word = word) := by
    funext k
    by_cases same : k.word = letters <;> simp [same]
  rw [words]
  cases found : u.entries.find? fun e => decide (e.word = word) with
  | none => rfl
  | some e =>
    have other : e.word ≠ letters := by
      have sameWord : e.word = word := by simpa using List.find?_some found
      rwa [sameWord]
    simp [other]

/-- A dictionary that is full holds an entry, heard or local. -/
theorem oldestOf_isSome {entries : List DictEntry} (ne : entries ≠ []) : (oldestOf entries).isSome = true := by
  have long : (orderBy (fun (a : DictEntry) b => a.stamp < b.stamp) entries).length ≠ 0 := by
    rw [length_orderBy]
    simpa using ne
  unfold oldestOf
  cases ordered : orderBy (fun (a : DictEntry) b => a.stamp < b.stamp) entries with
  | nil => simp [ordered] at long
  | cons => rfl

theorem Hyphenation.exists_oldestLocal {u : Hyphenation} (ne : u.entries ≠ []) (noHeard : u.oldestHeard = none) :
    ∃ e, u.oldestLocal = some e := by
  refine Option.isSome_iff_exists.mp (oldestOf_isSome fun noLocal => ne ?_)
  have noHeard' : u.entries.filter (fun e => e.origin ≠ .here) = [] := by
    by_contra ne
    have := oldestOf_isSome ne
    unfold Hyphenation.oldestHeard at noHeard
    rw [noHeard] at this
    cases this
  rw [List.eq_nil_iff_forall_not_mem]
  intro e he
  by_cases here : e.origin = .here
  · exact absurd (List.mem_filter.mpr ⟨he, by simp [here]⟩) (noLocal ▸ List.not_mem_nil)
  · exact absurd (List.mem_filter.mpr ⟨he, by simp [here]⟩) (noHeard' ▸ List.not_mem_nil)

theorem localWordAlwaysEntered : Claims.LocalWordAlwaysEntered := by
  intro u word points never within
  have bound := Hyphenation.length_learnLocal_le word never points within
  suffices entered : ∃ stamp, (u.learnLocal word never points).find word = some ⟨word, never, points, .here, stamp⟩ by
    obtain ⟨stamp, entered⟩ := entered
    exact ⟨_, entered, rfl, rfl, rfl, bound⟩
  unfold Hyphenation.learnLocal
  cases found : u.find word with
  | some e => exact Hyphenation.exists_find_replace_self found
  | none =>
    dsimp only
    split
    · exact Hyphenation.exists_find_insert_self found
    · rename_i full
      cases heard : u.oldestHeard with
      | some e => exact Hyphenation.exists_find_insert_self (Hyphenation.find_remove_of_none found)
      | none =>
        have ne : u.entries ≠ [] := by
          rintro nil
          simp [nil, Config.dictionaryCapacity] at full
        obtain ⟨e, oldest⟩ := Hyphenation.exists_oldestLocal ne heard
        rw [oldest]
        exact Hyphenation.exists_find_insert_self (Hyphenation.find_remove_of_none found)

/-- Settles O33. -/
theorem learnedWord : Obligations.LearnedWord := ⟨endLearn, localWordAlwaysEntered⟩

/-! ## Words heard (R78, R79) -/

/-- A word heard is entered where an earlier heard one stands or where there is room, and no other entry loses its points. -/
theorem Hyphenation.learnHeard_spec {u : Hyphenation} {letters points : List Nat} {never : Bool} (station : Nat)
    (may : (∃ e, u.find letters = some e ∧ e.origin ≠ .here) ∨ u.find letters = none ∧ u.entries.length < 400) :
    ∃ stamp,
      (u.learnHeard letters never points station).find letters = some ⟨letters, never, points, .heard station, stamp⟩ ∧
        ∀ word, word ≠ letters →
          ((u.learnHeard letters never points station).find word).map DictEntry.points =
            (u.find word).map DictEntry.points := by
  have kept : ∀ {v : Hyphenation} {word : List Nat} {stampOf : Nat → Nat},
      v.find word = (u.find word).map (DictEntry.restamped stampOf) →
      (v.find word).map DictEntry.points = (u.find word).map DictEntry.points := by
    intro v word stampOf same
    rw [same, Option.map_map]
    rfl
  unfold Hyphenation.learnHeard
  rcases may with ⟨e, found, heard⟩ | ⟨absent, room⟩
  · rw [found]
    dsimp only
    rw [if_neg heard]
    obtain ⟨stamp, entered⟩ := Hyphenation.exists_find_replace_self (never := never) (points := points)
      (origin := .heard station) found
    refine ⟨stamp, entered, fun word ne => ?_⟩
    obtain ⟨stampOf, same⟩ := Hyphenation.exists_find_replace_of_ne (u := u) (never := never) (points := points)
      (origin := .heard station) ne
    exact kept same
  · rw [absent]
    dsimp only
    rw [if_pos (show _ < Config.dictionaryCapacity from room)]
    obtain ⟨stamp, entered⟩ := Hyphenation.exists_find_insert_self (never := never) (points := points)
      (origin := .heard station) absent
    refine ⟨stamp, entered, fun word ne => ?_⟩
    obtain ⟨stampOf, same⟩ := Hyphenation.exists_find_insert_of_ne (u := u) (never := never) (points := points)
      (origin := .heard station) ne
    exact kept same

theorem Hyphenation.learnHeard_of_local {u : Hyphenation} {letters points : List Nat} {never : Bool} {station : Nat}
    {e : DictEntry} (found : u.find letters = some e) (here : e.origin = .here) :
    u.learnHeard letters never points station = u := by
  unfold Hyphenation.learnHeard
  rw [found]
  dsimp only
  rw [if_pos here]

theorem exec_wordLearned_of_ignored {h : Header} {body : List Byte} (heard : s.hears .wordLearned h = true)
    (ignored : h.sender = s.station.number ∨ readWord body = none) :
    exec (.wordLearned h body) s = .next { s with line := { s.line with idleBits := 0 } } := by
  rw [exec_wordLearned]
  unfold execWordLearned
  rw [State.onFrame_of_hears heard]
  unfold State.hearWord
  by_cases own : s.frameEnded.isOwn h = true
  · rw [if_pos own]
    rfl
  · rcases ignored with same | invalid
    · exact absurd (by simp [State.isOwn, same]) own
    · rw [if_neg own, invalid]
      rfl

/-- Settles O34. -/
theorem heardWord : Obligations.HeardWord := by
  refine fun h body s heard => ⟨exec_wordLearned_of_ignored heard, fun never letters points valid other => ⟨?here, ?entered⟩⟩
  case here =>
    intro e found here
    rw [exec_wordLearned_of_readWord heard valid other, Hyphenation.learnHeard_of_local found here]
  case entered =>
    intro may
    obtain ⟨stamp, entered, others⟩ := Hyphenation.learnHeard_spec (never := never) (points := points) h.sender may
    exact ⟨_, _, exec_wordLearned_of_readWord heard valid other, entered, rfl, rfl, rfl, others⟩

end Sys2Proof.Machine
end

section
/-! The proofs of Hyphenation (R65 to R70), of widths (R45) and of justification (R56 to R58). -/

namespace Sys2Proof.Machine

/-! ## The reply to a request (R65, R67) -/

section Reply
variable {u : Hyphenation} {boxes : List Box} {soft : List Nat} {p : Nat}

/-- A point of the reply lies within the word, and is a hard point or one of the softer ones. -/
theorem Hyphenation.mem_points :
    p ∈ u.points boxes soft ↔
      1 ≤ p ∧ p < boxes.length ∧
        (p ∈ hardPoints boxes ∨ p ∈ softerPoints u boxes (soft.filter fun p => p < boxes.length)) := by
  unfold Hyphenation.points
  simp only [List.mem_filter, List.mem_range'_1, List.mem_append, decide_eq_true_eq]
  constructor
  · rintro ⟨within, point⟩
    exact ⟨within.1, by omega, point.symm⟩
  · rintro ⟨first, last, point⟩
    exact ⟨⟨first, by omega⟩, point.symm⟩

/-- The dictionary's answer for a core: it is asked of words of 2 to 24 letters (R67). -/
def Hyphenation.entryOf (u : Hyphenation) (core : List Nat) : Option DictEntry :=
  if 2 ≤ core.length ∧ core.length ≤ 24 then u.find core else none

theorem Hyphenation.entryOf_eq_none {core : List Nat}
    (h : 2 ≤ core.length → core.length ≤ 24 → u.find core = none) : u.entryOf core = none := by
  unfold Hyphenation.entryOf
  split
  · exact h ‹_ ∧ _›.1 ‹_ ∧ _›.2
  · rfl

theorem softerPoints_of_entry {core : List Nat} {e : DictEntry} (folded : foldedCore boxes = some core)
    (entry : u.entryOf core = some e) : softerPoints u boxes soft = e.points.map fun j => leadOf boxes + j := by
  unfold Hyphenation.entryOf at entry
  unfold softerPoints
  rw [folded]
  dsimp only
  rw [entry]

/-- Without an entry the soft hyphens are the points, where there is one. -/
theorem softerPoints_of_soft (noEntry : ∀ core, foldedCore boxes = some core → u.entryOf core = none)
    (ne : soft ≠ []) : softerPoints u boxes soft = soft := by
  unfold softerPoints
  cases folded : foldedCore boxes with
  | none => rfl
  | some core =>
    have entry := noEntry core folded
    unfold Hyphenation.entryOf at entry
    dsimp only
    rw [entry]
    exact if_pos ne

/-- Without an entry and without soft hyphens the rules answer, for a core of 5 to 24 letters alone. -/
theorem softerPoints_of_rules (noEntry : ∀ core, foldedCore boxes = some core → u.entryOf core = none) :
    softerPoints u boxes [] =
      match foldedCore boxes with
      | some core =>
        if 5 ≤ core.length ∧ core.length ≤ 24 then (rulePoints core).map fun j => leadOf boxes + j else []
      | none => [] := by
  unfold softerPoints
  cases folded : foldedCore boxes with
  | none => rfl
  | some core =>
    have entry := noEntry core folded
    unfold Hyphenation.entryOf at entry
    dsimp only
    rw [entry]
    exact if_neg fun h => h rfl

theorem mem_rulePoints {core : List Nat} {j : Nat} (h : j ∈ rulePoints core) : 2 ≤ j ∧ j + 3 ≤ core.length := by
  simpa using (List.mem_filter.mp h).2

end Reply

/-- Settles O32. -/
theorem hyphenReply : Obligations.HyphenReply := by
  intro u boxes soft
  refine ⟨?order, ?range, fun core j => mem_rulePoints, ?entry, fun noEntry => ⟨?soft, fun past => ⟨?rules, ?hard⟩⟩⟩
  case order => exact (List.pairwise_lt_range' ..).filter _
  case range =>
    intro p point
    obtain ⟨first, last, -⟩ := Hyphenation.mem_points.mp point
    exact ⟨first, last⟩
  case entry =>
    intro core e folded long short found
    have entry : u.entryOf core = some e := by rw [Hyphenation.entryOf, if_pos ⟨long, short⟩, found]
    have points : ∀ p, p ∈ u.points boxes soft ↔
        1 ≤ p ∧ p < boxes.length ∧ (p ∈ hardPoints boxes ∨ ∃ j ∈ e.points, p = leadOf boxes + j) := by
      intro p
      rw [Hyphenation.mem_points, softerPoints_of_entry folded entry]
      simp only [List.mem_map, eq_comm]
    refine ⟨points, fun none p point => ?_⟩
    obtain ⟨-, -, hard | ⟨j, mem, -⟩⟩ := (points p).mp point
    · exact hard
    · rw [none] at mem
      cases mem
  all_goals
    have noEntry' : ∀ core, foldedCore boxes = some core → u.entryOf core = none := fun core folded =>
      Hyphenation.entryOf_eq_none (noEntry core folded)
  case soft =>
    rintro ⟨q, mem, inside⟩ p
    have ne : soft.filter (fun p => p < boxes.length) ≠ [] :=
      List.ne_nil_of_mem (List.mem_filter.mpr ⟨mem, decide_eq_true inside⟩)
    rw [Hyphenation.mem_points, softerPoints_of_soft noEntry' ne, List.mem_filter, decide_eq_true_eq]
    tauto
  all_goals
    have nil : soft.filter (fun p => p < boxes.length) = [] := by simpa using past
  case rules =>
    intro core folded long short p
    rw [Hyphenation.mem_points, nil, softerPoints_of_rules noEntry', folded]
    dsimp only
    rw [if_pos ⟨long, short⟩]
    simp only [List.mem_map, eq_comm]
  case hard =>
    intro outside p
    rw [Hyphenation.mem_points, nil, softerPoints_of_rules noEntry']
    cases folded : foldedCore boxes with
    | none => simp
    | some core =>
      have := outside core folded
      dsimp only
      rw [if_neg (by omega)]
      simp

/-! ## Widths (R45) -/

theorem scaled_of_half_up (units h : Nat) :
    64 * scaled units h ≤ units * h * 10 + 32 ∧ units * h * 10 + 32 < 64 * scaled units h + 64 := by
  unfold scaled
  omega

theorem characterWidth_of_nonneg {w : Nat} {t : Int} {units : Nat} (sum : (w : Int) + t = units) (h : Nat) :
    characterWidth w t h = scaled units h := by
  unfold characterWidth
  rw [sum, max_eq_right (by omega), Int.toNat_natCast]

theorem characterWidth_of_neg {w : Nat} {t : Int} (h : Nat) (neg : (w : Int) + t < 0) : characterWidth w t h = 0 := by
  unfold characterWidth
  rw [max_eq_left (by omega)]
  simp [scaled]

theorem widthsRoundToTheNearestMinim : Claims.WidthsRoundToTheNearestMinim := by
  refine fun w h t => ⟨fun nonneg => ?_, characterWidth_of_neg h⟩
  obtain ⟨units, sum⟩ := Int.eq_ofNat_of_zero_le nonneg
  obtain ⟨low, high⟩ := scaled_of_half_up units h
  rw [characterWidth_of_nonneg sum, sum]
  exact ⟨by exact_mod_cast low, by exact_mod_cast high⟩

/-! ## Shares (R56, R57) -/

section Shares
variable {total : Int} {n : Nat}

@[simp] theorem shares_length (total : Int) (n : Nat) : (shares total n).length = n := by simp [shares]

theorem sum_map_ite_lt (c r : Int) (m : Nat) (lo : 0 ≤ r) :
    ((List.range m).map fun i : Nat => c + (if (i : Int) < r then 1 else 0)).sum = m * c + min (m : Int) r := by
  induction m with
  | zero => simp [lo]
  | succ m ih =>
    rw [List.range_succ, List.map_append, List.sum_append, ih]
    have step : min ((m : Int) + 1) r = min (m : Int) r + (if (m : Int) < r then 1 else 0) := by
      split <;> omega
    simp only [List.map_cons, List.map_nil, List.sum_cons, List.sum_nil, add_zero, Nat.cast_add, Nat.cast_one, step]
    ring

theorem shares_eq (total : Int) (n : Nat) : shares total n =
    (List.range n).map fun i : Nat => total / (n : Int) + (if (i : Int) < total % (n : Int) then 1 else 0) := by
  unfold shares
  simp only [List.bind_eq_flatMap, List.pure_def]
  rw [← List.map_eq_flatMap, List.map_map]
  rfl

/-- The shares of a total make the total. -/
theorem shares_sum (pos : 0 < n) : (shares total n).sum = total := by
  have posInt : (0 : Int) < n := by exact_mod_cast pos
  rw [shares_eq, sum_map_ite_lt _ _ n (Int.emod_nonneg _ posInt.ne'), min_eq_right (Int.emod_lt_of_pos _ posInt).le]
  exact Int.mul_ediv_add_emod ..

theorem shares_nonneg (nonneg : 0 ≤ total) : ∀ d ∈ shares total n, 0 ≤ d := by
  intro d mem
  rw [shares_eq] at mem
  obtain ⟨i, -, rfl⟩ := List.mem_map.mp mem
  have := Int.ediv_nonneg nonneg (Int.natCast_nonneg n)
  split <;> omega

/-- No share passes a cap that the whole does not pass. -/
theorem shares_le {cap : Nat} (pos : 0 < n) (within : total ≤ (n * cap : Nat)) : ∀ d ∈ shares total n, d ≤ cap := by
  intro d mem
  rw [shares_eq] at mem
  obtain ⟨i, -, rfl⟩ := List.mem_map.mp mem
  have posInt : (0 : Int) < n := by exact_mod_cast pos
  have whole := Int.mul_ediv_add_emod total n
  have rest := Int.emod_nonneg total posInt.ne'
  split
  · have below : total / n < cap := by
      refine Int.ediv_lt_of_lt_mul posInt (lt_of_le_of_ne ?_ ?_)
      · rw [mul_comm]; exact_mod_cast within
      · rintro rfl
        have : (cap * n : Int) % n = 0 := Int.mul_emod_left ..
        omega
    omega
  · have : total / n ≤ cap := by
      refine Int.ediv_le_of_le_mul posInt ?_
      rw [mul_comm]
      exact_mod_cast within
    omega

theorem sum_toNat {xs : List Int} (nonneg : ∀ x ∈ xs, 0 ≤ x) : (((xs.map Int.toNat).sum : Nat) : Int) = xs.sum := by
  induction xs with
  | nil => rfl
  | cons x xs ih =>
    obtain ⟨head, tail⟩ := List.forall_mem_cons.mp nonneg
    rw [List.map_cons, List.sum_cons, List.sum_cons, Nat.cast_add, ih tail, Int.toNat_of_nonneg head]

theorem sum_zipWith_add {α : Type} (f : α → Int) : ∀ {xs : List α} {ds : List Int}, xs.length = ds.length →
    (xs.zipWith (fun x d => f x + d) ds).sum = (xs.map f).sum + ds.sum
  | [], [], _ => rfl
  | x :: xs, d :: ds, same => by
    rw [List.zipWith_cons_cons, List.sum_cons, sum_zipWith_add f (Nat.succ.inj same), List.map_cons, List.sum_cons,
      List.sum_cons]
    ring

end Shares

/-! ## Justified lines (R56 to R58) -/

section Justified
variable {l : LineBuild} {width cap gaps : Nat} {excess : Int}

theorem letterspaceFits_eq_true : letterspaceFits cap gaps excess = true ↔
    0 < cap ∧ 0 < gaps ∧ excess ≤ (gaps * cap : Nat) := by
  simp [letterspaceFits, and_assoc]

/-- The letter gaps of an excess that letterspacing takes up: they make it, there is one, and none passes the cap. -/
theorem letterGaps (fits : letterspaceFits cap gaps excess = true) (nonneg : 0 ≤ excess) :
    ((((shares excess gaps).map Int.toNat).sum : Nat) : Int) = excess ∧ (shares excess gaps).map Int.toNat ≠ [] ∧
      ∀ gap ∈ (shares excess gaps).map Int.toNat, gap ≤ cap := by
  obtain ⟨-, pos, within⟩ := letterspaceFits_eq_true.mp fits
  refine ⟨by rw [sum_toNat (shares_nonneg nonneg), shares_sum pos], ?_, ?_⟩
  · rw [← List.length_pos_iff]
    simpa
  · intro gap mem
    obtain ⟨d, share, rfl⟩ := List.mem_map.mp mem
    have := shares_le pos within d share
    omega

/-- The maximum glues of a line come to its boxes' width less than its maximum width. -/
theorem LineBuild.sum_maximum (l : LineBuild) :
    (boxesWidth l.boxes : Int) + (l.glues.map fun x => (x.maximum : Int)).sum = l.maximum := by
  simp [LineBuild.maximum, Nat.cast_list_sum, Function.comp_def]

theorem LineBuild.sum_nominal (l : LineBuild) :
    (boxesWidth l.boxes : Int) + (l.glues.map fun x => (x.nominal : Int)).sum = l.natural := by
  simp [LineBuild.natural, Nat.cast_list_sum, Function.comp_def]

/-- A line with glues: they take up the slack, up to their maximum by the shares of it, and beyond by the letter gaps of the
excess or by its shares. -/
theorem justify_of_glues (some : l.glues ≠ []) :
    (boxesWidth l.boxes : Int) + (justify l width cap).glues.sum + ((justify l width cap).gaps.sum : Nat) = width ∧
      (justify l width cap).glues.length = l.glues.length ∧ (∀ gap ∈ (justify l width cap).gaps, gap ≤ cap) ∧
      (justify l width cap).quadOffset = 0 ∧
      ((justify l width cap).gaps ≠ [] ↔ (justify l width cap).flags.letterspaced = true) := by
  have count : 0 < l.glues.length := List.length_pos_iff.mpr some
  have widest := l.sum_maximum
  have nominal := l.sum_nominal
  simp only [justify, if_pos count]
  split
  case isTrue =>
    refine ⟨?_, by simp, nofun, rfl, by simp [Flags.none]⟩
    simp only [sum_zipWith_add _ (shares_length _ _).symm, shares_sum count, List.sum_nil]
    omega
  case isFalse beyond =>
    split
    case isTrue fits =>
      obtain ⟨sum, present, within⟩ := letterGaps fits (by omega)
      refine ⟨?_, by simp, within, rfl, by simpa using present⟩
      simp only [sum]
      omega
    case isFalse =>
      refine ⟨?_, by simp, nofun, rfl, by simp [Flags.none]⟩
      simp only [sum_zipWith_add _ (shares_length _ _).symm, shares_sum count, List.sum_nil]
      omega

/-- A line without glues that its width holds: letter gaps or the trailing fill take up the slack. -/
theorem justify_of_no_glues (none : l.glues = []) :
    (l.natural ≤ width → (justify l width cap).setWidth = width ∧
      ((justify l width cap).flags.loose = false → l.natural + (justify l width cap).gaps.sum = width)) ∧
      (∀ gap ∈ (justify l width cap).gaps, gap ≤ cap) ∧ (justify l width cap).quadOffset = 0 ∧
      ((justify l width cap).gaps ≠ [] ↔ (justify l width cap).flags.letterspaced = true) := by
  simp only [justify, none, List.length_nil, lt_irrefl, if_false]
  split
  case isTrue full =>
    exact ⟨fun holds => ⟨by dsimp only; omega, fun _ => by simp; omega⟩, nofun, rfl, by simp [Flags.none]⟩
  case isFalse =>
    split
    case isTrue fits =>
      obtain ⟨sum, present, within⟩ := letterGaps fits (by omega)
      exact ⟨fun _ => ⟨rfl, fun _ => by dsimp only; omega⟩, within, rfl, by simpa using present⟩
    case isFalse =>
      exact ⟨fun _ => ⟨rfl, nofun⟩, nofun, rfl, by simp [Flags.none]⟩

/-- Settles O29, over the lines with glues and the lines without. -/
theorem justifiedLineFillsTheMeasure : Obligations.JustifiedLineFillsTheMeasure := by
  intro l width cap
  by_cases glues : l.glues = []
  · obtain ⟨fill, caps, offset, spaced⟩ := justify_of_no_glues (width := width) (cap := cap) glues
    exact ⟨fun some => absurd glues some, fun _ => fill, caps, offset, spaced⟩
  · obtain ⟨fill, count, caps, offset, spaced⟩ := justify_of_glues (width := width) (cap := cap) glues
    exact ⟨fun _ => ⟨fill, count⟩, fun none => absurd none glues, caps, offset, spaced⟩

end Justified

end Sys2Proof.Machine
end

section
/-! The proofs of the character and the space (R43 to R50): a character whose font is at hand is one box more, and an
interword space is the waiting space or nothing. -/

namespace Sys2Proof.Machine

variable {s : State}

/-! ## A character unit outside a learn sequence (R45, R46) -/

/-- The unit handed over is taken by the galley the composer works on, which has still units to set. -/
theorem exec_characterUnit_of_taking {code : Nat} (taking : s.taking (.characterUnit code) = true)
    (learning : s.composer.params.learn = none) (char : code ≠ 32) :
    ∃ g, s.workingGalley = some g ∧ exec (.characterUnit code) s = .next (s.checkFont g code) := by
  obtain ⟨-, g, working, -⟩ := State.taking_spec taking
  refine ⟨g, working, ?_⟩
  show execCharacterUnit code s = _
  unfold execCharacterUnit State.takeCharacter
  rw [working]
  simp [taking, learning, char]

theorem State.checkFont_of_atLeastMetrics {g : Galley} {code : Nat}
    (held : s.fonts.atLeastMetrics s.composer.params.font = true) :
    s.checkFont g code = s.setCharacter code s.composer.params.font false := by
  unfold State.checkFont
  rw [if_pos held]

theorem distinct_append_singleton (xs : List Nat) (x : Nat) :
    distinct (xs ++ [x]) = if x ∈ distinct xs then distinct xs else distinct xs ++ [x] := by
  unfold distinct
  rw [List.foldl_append]
  rfl

theorem fontsOf_append_char (boxes : List Box) (code font size width : Nat) :
    fontsOf (boxes ++ [.char code font size width]) =
      if font ∈ fontsOf boxes then fontsOf boxes else fontsOf boxes ++ [font] := by
  simp only [fontsOf, List.filterMap_append]
  exact distinct_append_singleton ..

/-- The box stays within the limits of its word (R49). -/
theorem Word.not_full {w : Word} {code font size width : Nat} (chars : boxesChars w.boxes < 160)
    (fonts : (fontsOf w.boxes).length < 8 ∨ font ∈ fontsOf w.boxes ∧ (fontsOf w.boxes).length = 8) :
    w.full (.char code font size width) = false := by
  have more : boxesChars (w.boxes ++ [.char code font size width]) = boxesChars w.boxes + 1 := by
    simp [boxesChars, Box.isChar]
  have faces : (fontsOf (w.boxes ++ [.char code font size width])).length ≤ 8 := by
    rw [fontsOf_append_char]
    rcases fonts with few | ⟨known, eight⟩
    · split
      · exact few.le
      · simpa using few
    · rw [if_pos known, eight]
  simp only [Word.full, Bool.or_eq_false_iff, decide_eq_false_iff_not, not_lt, more]
  exact ⟨chars, faces⟩

/-- A character with no width is dropped, and leaves its word the MISSING mark (R45). -/
theorem State.setCharacter_of_no_width {code font : Nat} {substituted : Bool} {m : Metrics}
    (metrics : s.fonts.metricsOf font = some m) (width : m.width code = none) :
    s.setCharacter code font substituted =
      State.askNext (s.consumeUnit.mapComposer fun c =>
        { c with word := { c.word with missing := true, substituted := c.word.substituted || substituted } }) := by
  simp [State.setCharacter, metrics, width]

/-- A character with a width, in a word with room for it (R45, R49). -/
theorem State.setCharacter_of_width {code font w : Nat} {substituted : Bool} {m : Metrics}
    (metrics : s.fonts.metricsOf font = some m) (width : m.width code = some w)
    (room : s.composer.word.full (.char code font s.composer.params.size
      (characterWidth w s.composer.params.track s.composer.params.size)) = false) :
    s.setCharacter code font substituted =
      State.askNext (State.recount (s.consumeUnit.mapComposer fun c =>
        { c with word := c.word.add (.char code font s.composer.params.size
          (characterWidth w s.composer.params.track s.composer.params.size)) substituted })) := by
  simp [State.setCharacter, metrics, width, room]

theorem State.askNext_state (running : s.composer.state = .running) :
    s.askNext.composer.state = .running ∨ s.askNext.composer.state = .waitText := by
  obtain ⟨gu, l, st, same, rfl | rfl⟩ := s.askNext_cases
  · rw [same]; exact .inl running
  · rw [same]; exact .inr rfl

theorem characterInItsFont : Claims.CharacterInItsFont := by
  intro code m s taking char learning held metrics
  obtain ⟨g, -, run⟩ := exec_characterUnit_of_taking taking learning char
  obtain ⟨running, -⟩ := State.taking_spec taking
  rw [State.checkFont_of_atLeastMetrics held] at run
  refine ⟨fun w width chars fonts => ?_, fun width => ?_⟩
  · rw [State.setCharacter_of_width metrics width (Word.not_full chars fonts)] at run
    refine ⟨_, run, ?_, by simp, State.askNext_state (by simpa using running), ?_⟩
    · exact ((s.consumeUnit_kept.trans (State.mapComposer_kept _ _)).trans (State.recount_kept _)).trans
        (State.askNext_kept _)
    · conv_lhs => rw [State.askNext_composer]
      simp [Word.add, characterWidth, scaled]
  · rw [State.setCharacter_of_no_width metrics width] at run
    refine State.exists_unitTaken (f := fun c => { c with word := { c.word with missing := true } }) ?_ nofun rfl rfl rfl
      taking
    rw [run, State.takeUnit, if_pos taking]
    simp

/-- Settles O28. -/
theorem characterSet : Obligations.CharacterSet := ⟨characterInItsFont, widthsRoundToTheNearestMinim⟩

end Sys2Proof.Machine
end

section
/-! The proofs of the step and the time base (R180), power-on and station reset (R183, R184), contention (R169, R170) and the
text segment (R15). -/

namespace Sys2Proof.Machine

variable {s : State}

/-! ## The step (R180) -/

/-- Settles O1. -/
theorem stepTakesFrontCommand : Obligations.StepTakesFrontCommand := by
  intro s i rest front
  unfold step
  rw [front]

theorem Turret.tick_eq (t : Turret) : t.tick =
    match t with
    | .moving source target left => .moving source target (left - 1)
    | turret => turret := by
  cases t <;> rfl

theorem MovePhase.tick_eq (p : MovePhase) : p.tick =
    match p with
    | .holdOff left n => .holdOff (left - 1) n
    | phase => phase := by
  cases p <;> rfl

/-- Settles O2: the tick counts every running timer, and nothing else. -/
theorem idleStepCountsOneMillisecond : Obligations.IdleStepCountsOneMillisecond := by
  refine fun s idle => ⟨fun i due => ?_, fun none => ?_⟩
  · unfold step
    rw [idle]
    simp only [due]
  · unfold step
    rw [idle]
    simp only [none, State.tick, Imaging.tick, Turret.tick_eq, Transport.tick, MovePhase.tick_eq]
    congr 2

/-! ## Contention (R169, R170) -/

theorem State.mayContend_eq_true_iff : s.mayContend = true ↔
    (1 ≤ s.station.number ∧ s.station.number ≤ 30) ∧ s.line.quiet = none ∧ s.line.queue ≠ [] ∧
      s.line.holdOff = false := by
  simp [State.mayContend, Station.takesPart, and_assoc]

theorem exec_contentionOpportunity_of_mayContend {other : Bool} {d : Descriptor} {rest : List Descriptor}
    (free : s.line.flight = none) (may : s.mayContend = true) (queue : s.line.queue = d :: rest) :
    exec (.contentionOpportunity other) s = .next
      { s with
        line :=
          { s.line with
            queue := rest
            flight := some { desc := d, stage := .arbitrating, withdrawn := false, disowned := false }
            resync := false, idleBits := 12
            driven := stuff (frameBits (buildFrame d.kind s.station.number d.dest d.body)) } } := by
  show execContentionOpportunity other s = _
  simp [execContentionOpportunity, free, may, Line.contend, queue, State.mapLine, Config.idleBits]

theorem exec_contentionOpportunity_of_not_mayContend {other : Bool} (free : s.line.flight = none)
    (mayNot : s.mayContend = false) :
    exec (.contentionOpportunity other) s = .next
      { s with line := { s.line with resync := false, idleBits := 12, holdOff := s.line.holdOff && other } } := by
  show execContentionOpportunity other s = _
  cases other <;> simp [execContentionOpportunity, free, mayNot, State.mapLine, Config.idleBits]

/-- Settles O5. -/
theorem contentionOpportunity : Obligations.ContentionOpportunity := by
  refine fun s other free => ⟨fun d rest low high quiet holdOff queue => ?_, fun mayNot => ?_⟩
  · exact exec_contentionOpportunity_of_mayContend free
      (State.mayContend_eq_true_iff.mpr ⟨⟨low, high⟩, quiet, by simp [queue], holdOff⟩) queue
  · refine exec_contentionOpportunity_of_not_mayContend free (Bool.eq_false_iff.mpr fun may => ?_)
    obtain ⟨number, quiet, waiting, holdOff⟩ := State.mayContend_eq_true_iff.mp may
    rcases mayNot with out | busy | held | none
    · exact out number
    · exact busy quiet
    · exact absurd (held.symm.trans holdOff) nofun
    · exact waiting none

/-! ## Power-on (R184) -/

/-- A supply cassette with a valid length code and a stock that occurs is mounted (R141, R153). -/
theorem poweredTransport_of_supply {code stock length : Nat} (takeUp : Bool)
    (valid : (code, length) ∈ [(1, 864000), (2, 1728000), (3, 2592000)]) (occurs : stock < 2) :
    (poweredTransport (some (code, stock)) takeUp).supplyPresent = true ∧
      (poweredTransport (some (code, stock)) takeUp).supplyLength = length ∧
      (poweredTransport (some (code, stock)) takeUp).remaining = length ∧
      (poweredTransport (some (code, stock)) takeUp).stock = some (if stock = 0 then .paper else .film) ∧
      (poweredTransport (some (code, stock)) takeUp).state = if takeUp then .idle else .noCassette := by
  simp only [List.mem_cons, List.not_mem_nil, Prod.mk.injEq, or_false] at valid
  have stocks : stock = 0 ∨ stock = 1 := by omega
  obtain ⟨rfl, rfl⟩ | ⟨rfl, rfl⟩ | ⟨rfl, rfl⟩ := valid <;> obtain rfl | rfl := stocks <;> cases takeUp <;> decide

/-- What the cassettes found at power-on do not change (R153). -/
theorem poweredTransport_counters (supply : Option (Nat × Nat)) (takeUp : Bool) :
    (poweredTransport supply takeUp).takeUpPresent = takeUp ∧ (poweredTransport supply takeUp).drawn = 0 ∧
      (poweredTransport supply takeUp).depth = 0 ∧ (poweredTransport supply takeUp).takeUpHeld = 0 ∧
      (poweredTransport supply takeUp).trips = 0 ∧ (poweredTransport supply takeUp).move = none := by
  unfold poweredTransport Transport.mountTakeUp Transport.mountSupply
  rcases supply with _ | ⟨code, stock⟩
  · cases takeUp <;> exact ⟨rfl, rfl, rfl, rfl, rfl, rfl⟩
  · dsimp only
    cases supplyLengthOf code <;> cases Stock.ofCode stock <;> cases takeUp <;> exact ⟨rfl, rfl, rfl, rfl, rfl, rfl⟩

theorem poweredTransport_of_no_supply (takeUp : Bool) :
    (poweredTransport none takeUp).state = .noCassette ∧ (poweredTransport none takeUp).supplyPresent = false := by
  cases takeUp <;> decide

theorem reset_directory_free : ∀ e ∈ State.reset.fonts.directory, e.state = .free := by
  intro e mem
  rw [List.eq_of_mem_replicate mem]
  rfl

/-- Settles O45. -/
theorem powerOn : Obligations.PowerOn := by
  intro p s
  obtain ⟨takeUp, drawn, depth, held, trips, move⟩ := poweredTransport_counters p.supply p.takeUp
  refine ⟨s.powered p, rfl, rfl, rfl, rfl, rfl, rfl, rfl, rfl, rfl, rfl, rfl, rfl, rfl, rfl, rfl, rfl, rfl,
    reset_directory_free, rfl, rfl, fun cartridge => ?_, fun none => ?_, rfl, rfl, rfl, rfl,
    fun code stock length supply valid occurs => ?_, fun none => ?_, takeUp, drawn, depth, held, trips, move, rfl, rfl, rfl⟩
  · simp [State.powered, poweredFonts, cartridge, Config.catalogRead]
  · simp [State.powered, poweredFonts, none]
  · have mounted := poweredTransport_of_supply p.takeUp valid occurs
    rwa [← supply] at mounted
  · have empty := poweredTransport_of_no_supply p.takeUp
    rwa [← none] at empty

/-- Settles O48. -/
theorem resetValues : Obligations.ResetValues :=
  ⟨rfl, rfl, rfl, rfl, rfl, rfl, rfl, rfl, reset_directory_free, rfl, rfl, rfl, rfl,
    { watch := by decide, table := by decide, queue := by decide, dictionary := by decide, directory := rfl
      wants := by decide, catalog := by decide, transmit := by decide, ring := Nat.zero_le _ },
    ⟨.nil, nofun⟩,
    { length := rfl, drawn := le_rfl, held := le_rfl, possible := rfl, stage := rfl }⟩

/-! ## Station reset (R183) -/

/-- A directory entry behind a station reset (R112). -/
def DirEntry.reset (e : DirEntry) : DirEntry := if e.state = .resident then { e with pins := 0 } else DirEntry.unused

/-- The RESIDENT entries are what a station reset keeps of the directory, each without its pins (R112). -/
theorem FontStore.stationReset_directory {fs : FontStore} {e : DirEntry} (mem : e ∈ fs.stationReset.directory) :
    e.state = .free ∨ e.state = .resident ∧ e.pins = 0 := by
  obtain ⟨old, -, rfl⟩ := List.mem_map.mp mem
  split
  case isTrue resident => exact .inr ⟨resident, rfl⟩
  case isFalse => exact .inl rfl

theorem FontStore.stationReset_entry {fs : FontStore} {font : Nat} {e : DirEntry} (found : fs.entry font = some e)
    (resident : e.state = .resident) : fs.stationReset.entry font = some { e with pins := 0 } := by
  obtain ⟨held, before, behind, split, others⟩ := List.find?_eq_some_iff_append.mp found
  have same : e.font = font := (of_decide_eq_true held).2
  refine List.find?_eq_some_iff_append.mpr ⟨?_, before.map DirEntry.reset, behind.map DirEntry.reset, ?_, ?_⟩
  · simp [resident, same]
  · show fs.directory.map DirEntry.reset = _
    rw [split, List.map_append, List.map_cons, DirEntry.reset, if_pos resident]
  · intro a mem
    obtain ⟨x, member, rfl⟩ := List.mem_map.mp mem
    have other := others x member
    unfold DirEntry.reset
    split
    · exact other
    · rfl

theorem Imaging.stationReset_kept (i : Imaging) :
    i.stationReset.exposure = none ∧ i.stationReset.warmUp = i.warmUp ∧
      i.stationReset.state = (if i.state = .exposing then .ready else i.state) ∧
      (i.state = .exposing → i.stationReset.standby = some 600000) := by
  unfold Imaging.stationReset Imaging.watch
  cases i.state <;> simp [Config.standby]

theorem Transport.stationReset_kept (t : Transport) :
    t.stationReset.trips = 0 ∧ t.stationReset.remaining = t.remaining ∧ t.stationReset.drawn = t.drawn ∧
      t.stationReset.depth = t.depth ∧ t.stationReset.takeUpHeld = t.takeUpHeld := by
  unfold Transport.stationReset
  dsimp only
  split
  · exact ⟨rfl, rfl, rfl, rfl, rfl⟩
  · split <;> exact ⟨rfl, rfl, rfl, rfl, rfl⟩
  · split <;> exact ⟨rfl, rfl, rfl, rfl, rfl⟩
  · exact ⟨rfl, rfl, rfl, rfl, rfl⟩

theorem Transport.stationReset_of_jammed {t : Transport} (jammed : t.state = .jammed) :
    t.stationReset.state = if t.supplyPresent ∧ t.takeUpPresent then .idle else .noCassette := by
  simp [Transport.stationReset, jammed, Transport.bothPresent]

theorem Line.stationReset_flight {l : Line} {f : Flight} (flight : l.flight = some f) :
    l.stationReset.flight = if f.stage = .sending then some { f with disowned := true } else none := by
  simp [Line.stationReset, flight]

theorem exec_stationReset_of_hears {h : Header} (heard : s.hears .stationReset h = true) :
    exec (.stationReset h) s = .next s.frameEnded.stationReset := by
  show execStationReset h s = _
  rw [execStationReset, State.onFrame_of_hears heard]

/-- Settles O47. -/
theorem resetHeard : Obligations.ResetHeard := by
  intro h s heard
  obtain ⟨exposure, warmUp, state, standby⟩ := s.imaging.stationReset_kept
  obtain ⟨trips, remaining, drawn, depth, takeUpHeld⟩ := s.transport.stationReset_kept
  exact ⟨_, exec_stationReset_of_hears heard, rfl, rfl, rfl, rfl, rfl, rfl,
    fun f flight => Line.stationReset_flight (l := s.frameEnded.line) flight, rfl, rfl, rfl, rfl, rfl, rfl, rfl, rfl, rfl,
    rfl, rfl, rfl, fun font e found resident => FontStore.stationReset_entry found resident,
    fun e mem => FontStore.stationReset_directory mem, exposure, warmUp, state, standby, trips, remaining, drawn, depth,
    takeUpHeld, Transport.stationReset_of_jammed, rfl, rfl, rfl⟩

/-! ## The text segment (R15) -/

theorem State.hearSegment_of_ignored {id : GalleyId} {number : Nat} {units : List CodeWord} {g : Galley}
    (found : s.galleys.find id = some g)
    (ignored : g.cancelPending = true ∨ g.state = .draining ∨ g.compositionEnded = true ∨ number < g.nextSegment) :
    s.hearSegment id number units = s := by
  unfold State.hearSegment
  rw [found]
  exact if_pos ignored

theorem State.hearSegment_of_expected {id : GalleyId} {number : Nat} {units : List CodeWord} {g : Galley}
    (found : s.galleys.find id = some g) (pending : g.cancelPending = false) (draining : g.state ≠ .draining)
    (ended : g.compositionEnded = false) (next : number = g.nextSegment) (within : g.within number = true)
    (long : units.length = g.unitsOf number) : s.hearSegment id number units = s.storeSegment id units := by
  unfold State.hearSegment
  rw [found]
  dsimp only
  rw [if_neg (by simp [pending, draining, ended, next]), if_pos ⟨next, within, long⟩]

/-- A segment stored in a slot of its galley (R15). -/
def Galley.withSegment (units : List CodeWord) (g : Galley) : Galley :=
  { g with segments := g.segments ++ [units], nextSegment := g.nextSegment + 1 }

theorem State.storeSegment_of_waiting {id : GalleyId} {units : List CodeWord}
    (waits : s.composer.state = .waitText ∧ s.composer.galley = some id) :
    s.storeSegment id units =
      { s with
        composer := { s.composer with state := .running }
        galleys := { s.galleys.update id (Galley.withSegment units) with textTimer := none } } := by
  unfold State.storeSegment
  exact if_pos waits

theorem State.storeSegment_of_not_waiting {id : GalleyId} {units : List CodeWord}
    (waits : ¬(s.composer.state = .waitText ∧ s.composer.galley = some id)) :
    s.storeSegment id units = { s with galleys := s.galleys.update id (Galley.withSegment units) } := by
  unfold State.storeSegment
  exact if_neg waits

/-- Settles O16. -/
theorem segmentHeard : Obligations.SegmentHeard := by
  intro h id number units g s heard found
  have run : exec (.textSegment h id number units) s = .next (s.frameEnded.hearSegment id number units) := by
    show execTextSegment h id number units s = _
    rw [execTextSegment, State.onFrame_of_hears heard]
  refine ⟨fun pending draining ended next grant long => ?_, fun ignored => ?_⟩
  · obtain ⟨limit, granted, within⟩ := grant
    have within' : g.within number = true := by
      unfold Galley.within
      rw [granted]
      exact decide_eq_true within
    rw [run, State.hearSegment_of_expected (s := s.frameEnded) found pending draining ended next within' long]
    by_cases waits : s.composer.state = .waitText ∧ s.composer.galley = some id
    · rw [State.storeSegment_of_waiting (s := s.frameEnded) waits]
      simp only [if_pos waits]
      rfl
    · rw [State.storeSegment_of_not_waiting (s := s.frameEnded) waits]
      simp only [if_neg waits]
      rfl
  · rw [run, State.hearSegment_of_ignored (s := s.frameEnded) found ignored]
    rfl

end Sys2Proof.Machine
end

section
/-! SUPPORT for the proofs below. What the examination behind an event leaves of the queue, the composer and the galleys:
nothing happens to them there but suspensions, for a font or for film. -/

namespace Sys2Proof.Machine

variable {s t u : State}

/-! ## Offered frames -/

/-- What waits after a frame is offered is the frame, or waited before. -/
theorem Line.mem_offer {l : Line} {takesPart : Bool} {kind : FrameKind} {dest : BitVec 5} {body : List Byte}
    {owner : FrameOwner} {d : Descriptor} (mem : d ∈ (l.offer takesPart kind dest body owner).1.queue) :
    d ∈ l.queue ∨ d.kind = kind ∧ d.dest = dest ∧ d.body = body ∧ d.owner = owner := by
  unfold Line.offer at mem
  split at mem
  · exact .inl mem
  split at mem
  · obtain ⟨e, he, rfl⟩ := List.mem_map.mp mem
    split
    · exact .inr ⟨rfl, rfl, rfl, rfl⟩
    · exact .inl he
  split at mem
  · obtain rfl | old := mem_insertBy.mp mem
    · exact .inr ⟨rfl, rfl, rfl, rfl⟩
    · exact .inl old
  split at mem
  · obtain rfl | old := mem_insertBy.mp mem
    · exact .inr ⟨rfl, rfl, rfl, rfl⟩
    · exact .inl (List.mem_of_mem_erase old)
  · exact .inl mem

/-! ## Changes of the galley unit and the line alone -/

/-- From `s` to `t` nothing has changed but the galley unit and the line. -/
def State.GalleysAndLineAlone (s t : State) : Prop := t = { s with galleys := t.galleys, line := t.line }

theorem State.GalleysAndLineAlone.refl (s : State) : s.GalleysAndLineAlone s := rfl

theorem State.GalleysAndLineAlone.trans (h : s.GalleysAndLineAlone t) (k : t.GalleysAndLineAlone u) :
    s.GalleysAndLineAlone u := by
  unfold GalleysAndLineAlone at *
  rw [k, h]

theorem State.GalleysAndLineAlone.foldl {α : Type} {f : State → α → State} (step : ∀ s a, State.GalleysAndLineAlone s (f s a))
    (xs : List α) (s : State) : s.GalleysAndLineAlone (xs.foldl f s) := by
  induction xs generalizing s with
  | nil => exact .refl s
  | cons a xs ih => exact (step s a).trans (ih _)

theorem State.report_alone (s : State) (id : GalleyId) (event : ReportEvent) (reason : Nat) :
    s.GalleysAndLineAlone (s.report id event reason) := by
  unfold State.report
  split <;> rfl

theorem State.suspend_alone (s : State) (id : GalleyId) (why : Suspension) : s.GalleysAndLineAlone (s.suspend id why) := by
  unfold State.suspend
  split
  · rfl
  split
  · dsimp only
    split
    · rfl
    · exact State.GalleysAndLineAlone.trans (t := s.mapGalleys _) rfl (State.report_alone ..)
  · rfl

/-! ## Suspension -/

@[simp] theorem State.report_galleys (s : State) (id : GalleyId) (event : ReportEvent) (reason : Nat) :
    (s.report id event reason).galleys = s.galleys := by
  unfold State.report
  split <;> rfl

/-- The record of a galley suspended (R9). -/
def Galley.suspendedFor (why : Suspension) (g : Galley) : Galley := { g with state := .suspended, suspension := some why }

/-- A galley that is composed or drains, and so may be suspended (R9). -/
def Galley.Suspendable (g : Galley) : Prop := g.state = .composing ∨ g.state = .draining

theorem State.suspend_of_suspendable {id : GalleyId} {g : Galley} (found : s.galleys.find id = some g)
    (active : g.Suspendable) (why : Suspension) :
    (s.suspend id why).galleys = s.galleys.update id (Galley.suspendedFor why) := by
  unfold State.suspend
  rw [found]
  dsimp only
  rw [if_pos (show g.state = .composing ∨ g.state = .draining from active)]
  split
  · rfl
  · rw [State.report_galleys]
    rfl

theorem State.suspend_of_not_suspendable {id : GalleyId} (rest : ∀ g, s.galleys.find id = some g → ¬g.Suspendable)
    (why : Suspension) : s.suspend id why = s := by
  unfold State.suspend
  split
  · rfl
  · exact if_neg (rest _ ‹_›)

/-- A galley record of `t` is as in `s`, or it was suspended on the way, for another reason than a halt. -/
def State.SuspendedAtMost (s t : State) (id : GalleyId) : Prop :=
  t.galleys.find id = s.galleys.find id ∨
    ∃ g why, s.galleys.find id = some g ∧ g.Suspendable ∧ why ≠ .halt ∧
      t.galleys.find id = some (g.suspendedFor why)

theorem State.suspend_suspendedAtMost (s : State) (id : GalleyId) {why : Suspension} (reason : why ≠ .halt)
    (i : GalleyId) : s.SuspendedAtMost (s.suspend id why) i := by
  by_cases active : ∃ g, s.galleys.find id = some g ∧ g.Suspendable
  · obtain ⟨g, found, active⟩ := active
    have after : (s.suspend id why).galleys.find i =
        (s.galleys.find i).map fun g => if g.id = id then g.suspendedFor why else g := by
      rw [State.suspend_of_suspendable found active, GalleyUnit.find_update (f := Galley.suspendedFor why) fun _ => rfl]
    by_cases same : i = id
    · subst same
      refine .inr ⟨g, why, found, active, reason, ?_⟩
      rw [after, found, Option.map_some, if_pos (GalleyUnit.find_id found)]
    · refine .inl ?_
      rw [after]
      cases other : s.galleys.find i with
      | none => rfl
      | some g' => rw [Option.map_some, if_neg (by rw [GalleyUnit.find_id other]; exact same)]
  · rw [State.suspend_of_not_suspendable fun g found rest => active ⟨g, found, rest⟩]
    exact .inl rfl

/-- A galley record as far as its lines are counted: its id, and its counts of lines exposed and lines proofed. -/
def Galley.tally (g : Galley) : GalleyId × Nat × Nat := (g.id, g.counters.exposed, g.counters.proofed)

theorem GalleyUnit.update_tallies (gu : GalleyUnit) (id : GalleyId) {f : Galley → Galley}
    (keeps : ∀ g, (f g).tally = g.tally) : (gu.update id f).table.map Galley.tally = gu.table.map Galley.tally := by
  unfold GalleyUnit.update
  rw [List.map_map]
  refine List.map_congr_left fun g _ => ?_
  simp only [Function.comp_apply]
  split
  · exact keeps g
  · rfl

/-- What the examination leaves of the composer, the queue and the directory, and of the galley records all but a
suspension. -/
structure State.Examined (s t : State) : Prop where
  composer : t.composer = s.composer
  queue : t.queue = s.queue
  directory : t.fonts.directory = s.fonts.directory
  useCount : t.fonts.useCount = s.fonts.useCount
  textTimer : t.galleys.textTimer = s.galleys.textTimer
  tallies : t.galleys.table.map Galley.tally = s.galleys.table.map Galley.tally
  records : ∀ id, s.SuspendedAtMost t id

theorem State.Examined.of_same (composer : t.composer = s.composer) (queue : t.queue = s.queue)
    (directory : t.fonts.directory = s.fonts.directory) (useCount : t.fonts.useCount = s.fonts.useCount)
    (galleys : t.galleys = s.galleys) : s.Examined t :=
  ⟨composer, queue, directory, useCount, by rw [galleys], by rw [galleys], fun id => .inl (by rw [galleys])⟩

theorem State.Examined.refl (s : State) : s.Examined s := .of_same rfl rfl rfl rfl rfl

theorem State.Examined.trans (h : s.Examined t) (k : t.Examined u) : s.Examined u where
  composer := k.composer.trans h.composer
  queue := k.queue.trans h.queue
  directory := k.directory.trans h.directory
  useCount := k.useCount.trans h.useCount
  textTimer := k.textTimer.trans h.textTimer
  tallies := k.tallies.trans h.tallies
  records := by
    intro id
    rcases h.records id with same | ⟨g, why, found, active, reason, suspended⟩
    · rcases k.records id with same' | ⟨g', why', found', active', reason', suspended'⟩
      · exact .inl (same'.trans same)
      · exact .inr ⟨g', why', same ▸ found', active', reason', suspended'⟩
    · rcases k.records id with same' | ⟨g', why', found', active', reason', suspended'⟩
      · exact .inr ⟨g, why, found, active, reason, same'.trans suspended⟩
      · obtain rfl := Option.some.inj (suspended.symm.trans found')
        exact absurd active' (by rintro (h | h) <;> exact absurd h nofun)

theorem State.Examined.foldl {α : Type} {f : State → α → State} (step : ∀ s a, State.Examined s (f s a)) (xs : List α)
    (s : State) : s.Examined (xs.foldl f s) := by
  induction xs generalizing s with
  | nil => exact .refl s
  | cons a xs ih => exact (step s a).trans (ih _)

theorem State.suspend_examined (s : State) (id : GalleyId) {why : Suspension} (reason : why ≠ .halt) :
    s.Examined (s.suspend id why) := by
  have alone := s.suspend_alone id why
  refine ⟨by rw [alone], by rw [alone], by rw [alone], by rw [alone], ?_, ?_, s.suspend_suspendedAtMost id reason⟩
  all_goals
    by_cases active : ∃ g, s.galleys.find id = some g ∧ g.Suspendable
    · obtain ⟨g, found, active⟩ := active
      rw [State.suspend_of_suspendable found active]
      first | exact GalleyUnit.update_tallies _ _ fun _ => rfl | rfl
    · rw [State.suspend_of_not_suspendable fun g found rest => active ⟨g, found, rest⟩]

/-! ## The examination -/

theorem State.suspendForFonts_examined (s : State) : s.Examined s.suspendForFonts := by
  unfold State.suspendForFonts
  split
  · exact .refl s
  · dsimp only
    split
    · exact s.suspend_examined _ nofun
    · exact .refl s

theorem State.suspendForFont_examined (s : State) (font : Nat) : s.Examined (s.suspendForFont font) := by
  unfold State.suspendForFont
  split
  · split
    · exact s.suspendForFonts_examined
    · exact .refl s
  · exact .refl s

theorem State.dropWant_examined (s : State) (w : Want) : s.Examined (s.dropWant w) := by
  unfold State.dropWant
  dsimp only
  split <;> exact .of_same rfl rfl rfl rfl rfl

theorem State.demandOnce_examined (s : State) (party : Party) (font : Nat) : s.Examined (s.demandOnce party font) := by
  have fonts (s : State) (wants : List Want) (refused : List (Party × Nat)) :
      s.Examined { s with fonts := { s.fonts with wants := wants, refused := refused } } := .of_same rfl rfl rfl rfl rfl
  unfold State.demandOnce
  split
  · dsimp only
    split
    · exact (fonts ..).trans (State.suspendForFont_examined ..)
    · exact fonts ..
  split
  · exact fonts ..
  split
  · exact (s.dropWant_examined _).trans (fonts ..)
  split
  · exact .refl s
  · exact fonts ..

theorem State.demandAgain_examined (s : State) (d : Party × Nat) : s.Examined (s.demandAgain d) := by
  have forget (s : State) : s.Examined { s with fonts := { s.fonts with refused := s.fonts.refused.filter fun x => x ≠ d } } :=
    .of_same rfl rfl rfl rfl rfl
  unfold State.demandAgain
  dsimp only
  split
  · exact forget s
  split
  · exact (s.demandOnce_examined ..).trans (forget _)
  · exact s.demandOnce_examined ..

theorem State.wantRemoved_examined (s : State) : s.Examined s.wantRemoved :=
  State.Examined.foldl State.demandAgain_examined _ s

/-- Raising a demand leaves the composer, the queue and the directory alone (R104). -/
theorem State.raiseDemand_examined (s : State) (party : Party) (font : Nat) : s.Examined (s.raiseDemand party font) := by
  unfold State.raiseDemand
  dsimp only
  split
  · exact (s.demandOnce_examined ..).trans (State.wantRemoved_examined _)
  · exact s.demandOnce_examined ..

theorem State.filmCheck_examined (s : State) : s.Examined s.filmCheck := by
  unfold State.filmCheck
  split
  · exact .refl s
  split
  · exact s.suspend_examined _ nofun
  · exact .refl s

theorem State.nextArrived_examined (s : State) : s.Examined s.nextArrived := by
  unfold State.nextArrived
  split
  · exact .refl s
  · exact ((State.Examined.foldl (fun s f => s.raiseDemand_examined .exposure f) _ s).trans
      (State.suspendForFonts_examined _)).trans (State.filmCheck_examined _)

theorem State.filmTest_examined (s : State) : s.Examined s.filmTest := by
  have transport (s : State) (t : Transport) : s.Examined { s with transport := t } := .of_same rfl rfl rfl rfl rfl
  unfold State.filmTest
  split
  · exact .refl s
  split
  · split
    · exact (transport ..).trans (State.suspend_examined _ _ nofun)
    split
    · exact (transport ..).trans (State.suspend_examined _ _ nofun)
    · exact .refl s
  · exact .refl s

/-- The examination behind an event suspends galleys, and leaves the queue and the composer alone. -/
theorem State.examine_examined (s : State) (old : Option (GalleyId × Nat)) : s.Examined (s.examine old) := by
  have arrived : s.Examined (if s.exposureNextName = old then s else s.nextArrived) := by
    split
    · exact .refl s
    · exact s.nextArrived_examined
  unfold State.examine
  exact (arrived.trans (State.filmTest_examined _)).trans (.of_same rfl rfl rfl rfl rfl)

@[simp] theorem State.examine_queue (s : State) (old : Option (GalleyId × Nat)) : (s.examine old).queue = s.queue :=
  (s.examine_examined old).queue

@[simp] theorem State.examine_composer (s : State) (old : Option (GalleyId × Nat)) :
    (s.examine old).composer = s.composer :=
  (s.examine_examined old).composer

@[simp] theorem State.examine_directory (s : State) (old : Option (GalleyId × Nat)) :
    (s.examine old).fonts.directory = s.fonts.directory :=
  (s.examine_examined old).directory

/-! ## Settling -/

/-- Where nothing follows, settling changes nothing. -/
theorem State.AtRest.settleStep (h : s.AtRest) : s.settleStep = none := by
  unfold State.settleStep
  dsimp only
  rw [h.marks, Option.isNone_iff_eq_none.mp h.departure]
  unfold State.composerTask
  rw [h.todo]
  split
  · simp_all
  · simp_all

theorem State.AtRest.settle (h : s.AtRest) : s.settle = s := by
  unfold State.settle
  cases s.settleFuel with
  | zero => exact h.marks
  | succ n =>
    unfold State.settleFor
    rw [h.settleStep]
    exact h.marks

/-- An event whose effect leaves nothing to settle. -/
theorem State.event_of_atRest {f : State → State} (h : (f s).AtRest) : s.event f = (f s).examine s.exposureNextName := by
  unfold State.event
  rw [h.settle]

end Sys2Proof.Machine
end

section
/-! The proofs of the watch list (R1 to R7, R103): the posting heard, the claim delay, the watch entry's timers, and the claim
heard. -/

namespace Sys2Proof.Machine

variable {s : State}

/-! ## Postings (R1, R2) -/

theorem exec_galleyPosted_of_hears {h : Header} (heard : s.hears .galleyPosted h = true) (p : Posting) :
    exec (.galleyPosted h p) s = .next (s.frameEnded.hearPosting p) := by
  show execGalleyPosted h p s = _
  rw [execGalleyPosted, State.onFrame_of_hears heard]

/-- A posting is taken where its coded fields are codes, it is well formed, and the station can take it; otherwise it is
passed over. -/
theorem State.hearPosting_of_not_taken {p : Posting}
    (not : ∀ mode stock, p.priority < 3 → GalleyMode.ofCode p.mode = some mode → Stock.ofCode p.stock = some stock →
      p.policy < 2 → Posting.wellPosted p = true → s.canTake p.id mode stock = true → False) : s.hearPosting p = s := by
  have code : ∀ {c priority}, Priority.ofCode c = some priority → c < 3 := by
    intro c priority read
    unfold Priority.ofCode at read
    split at read <;> first | contradiction | decide
  have policyCode : ∀ {c policy}, FontPolicy.ofCode c = some policy → c < 2 := by
    intro c policy read
    unfold FontPolicy.ofCode at read
    split at read <;> first | contradiction | decide
  unfold State.hearPosting
  split
  case h_1 priority mode stock policy hp hm hs hf =>
    exact if_neg fun taken => not mode stock (code hp) hm hs (policyCode hf) taken.1 taken.2
  case h_2 => rfl

/-- What a station that can take a posting is, and has (R1). -/
theorem State.canTake_spec {id : GalleyId} {mode : GalleyMode} {stock : Stock} (can : s.canTake id mode stock = true) :
    s.station.takesPart = true ∧ s.station.mode = .running ∧ s.galleys.watch.length < 8 ∧
      s.galleys.findWatch id = none ∧ s.galleys.find id = none ∧ s.transport.state ≠ .jammed ∧
      s.transport.withoutFilm = false ∧ s.transport.stock = some stock := by
  simp only [State.canTake, Bool.and_eq_true, beq_iff_eq, decide_eq_true_eq, bne_iff_ne, Bool.not_eq_true',
    Option.isNone_iff_eq_none] at can
  obtain ⟨⟨⟨⟨⟨⟨⟨⟨⟨part, running⟩, room⟩, watched⟩, held⟩, -⟩, jammed⟩, film⟩, stock⟩, -⟩ := can
  exact ⟨part, running, room, watched, held, jammed, film, stock⟩

theorem postingWatched : Claims.PostingWatched := by
  intro h p s heard
  rw [exec_galleyPosted_of_hears heard]
  refine ⟨fun priority mode stock policy hp hm hs hf well can => ?_, fun reason => ?_⟩
  · have can' : s.frameEnded.canTake p.id mode stock = true := can
    unfold State.hearPosting
    rw [hp, hm, hs, hf]
    dsimp only
    rw [if_pos ⟨well, can'⟩]
    rfl
  · rw [State.hearPosting_of_not_taken]
    · rfl
    intro mode stock priority hm hs policy well can
    have can' : s.canTake p.id mode stock = true := can
    obtain ⟨-, running, room, watched, held, jammed, film, loaded⟩ := State.canTake_spec can'
    have modes : p.mode < 3 := by
      unfold GalleyMode.ofCode at hm
      split at hm <;> first | contradiction | omega
    have stocks : p.stock < 2 := by
      unfold Stock.ofCode at hs
      split at hs <;> first | contradiction | omega
    rcases reason with r | r | r | r | r | r | r | r | r | r | r | r | r | r | r
    · rw [well] at r; cases r
    · omega
    · omega
    · omega
    · omega
    · rw [running] at r; cases r
    · omega
    · rw [watched] at r; cases r
    · rw [held] at r; cases r
    · exact jammed r
    · simp [Transport.withoutFilm, r] at film
    · simp [Transport.withoutFilm, r] at film
    · simp [Transport.withoutFilm, r] at film
    · rw [loaded] at r; cases r
    · rw [r mode stock hm hs] at can'; cases can'

/-! ## The claim delay (R2) -/

/-- The claim delay before it is halved and held to its range. -/
def State.delayTerms (s : State) (mode : GalleyMode) (fonts : List Nat) : Nat :=
  4 + 8 * s.absentFonts fonts + 6 * s.galleys.table.length +
    64 * (if s.transport.remaining < Config.filmLow then 1 else 0) +
    32 * (if mode.wantsProof && s.proofer.printer.sleeps then 1 else 0)

theorem State.claimDelay_eq (s : State) (priority : Priority) (mode : GalleyMode) (fonts : List Nat) :
    s.claimDelay priority mode fonts =
      max 2 (min 255 (if priority = .rush then s.delayTerms mode fonts / 2 else s.delayTerms mode fonts)) :=
  clamp_eq_max_min (by decide) _

theorem State.absentFonts_cons (s : State) (font : Nat) (fonts : List Nat) :
    s.absentFonts fonts ≤ s.absentFonts (font :: fonts) := by
  unfold State.absentFonts
  rw [List.countP_cons]
  exact Nat.le_add_right ..

theorem State.delayTerms_eq (s : State) (mode : GalleyMode) (fonts : List Nat) : s.delayTerms mode fonts =
    4 + 8 * (fonts.filter fun f => (s.fonts.entry f).isNone && (s.fonts.catalogEntry f).isNone).length +
      6 * s.galleys.table.length + (if s.transport.remaining < 86400 then 64 else 0) +
      (if mode ≠ .film ∧ (s.proofer.printer.state = .asleep ∨ s.proofer.printer.state = .settling) then 32 else 0) := by
  have sleeps : (mode.wantsProof && s.proofer.printer.sleeps) = true ↔
      mode ≠ .film ∧ (s.proofer.printer.state = .asleep ∨ s.proofer.printer.state = .settling) := by
    cases mode <;> simp [GalleyMode.wantsProof, Printer.sleeps]
  have absent : s.absentFonts fonts =
      (fonts.filter fun f => (s.fonts.entry f).isNone && (s.fonts.catalogEntry f).isNone).length :=
    List.countP_eq_length_filter
  have weighed : ∀ (n : Nat) (c : Prop) [Decidable c], n * (if c then 1 else 0) = if c then n else 0 := by
    intro n c _
    split <;> simp
  simp only [State.delayTerms, sleeps, absent, weighed]
  rfl

theorem claimDelayBounds : Claims.ClaimDelayBounds := by
  intro s mode fonts priority
  refine ⟨?terms, ?low, ?high, ?rush, ?more⟩
  case terms =>
    rintro d rfl
    rw [State.claimDelay_eq, State.delayTerms_eq]
  case low => rw [State.claimDelay_eq]; exact le_max_left ..
  case high => rw [State.claimDelay_eq]; exact max_le (by decide) (min_le_left ..)
  case rush =>
    rw [State.claimDelay_eq, State.claimDelay_eq, if_pos rfl, if_neg (by decide)]
    omega
  case more =>
    intro font
    have more : s.delayTerms mode fonts ≤ s.delayTerms mode (font :: fonts) := by
      have := s.absentFonts_cons font fonts
      unfold State.delayTerms
      omega
    rw [State.claimDelay_eq, State.claimDelay_eq]
    split <;> omega

/-- Settles O11. -/
theorem postingHeard : Obligations.PostingHeard := ⟨postingWatched, claimDelayBounds⟩

/-! ## The two timers of a watch entry (R3, R6) -/

theorem exec_claimDelayExpiry_of_considering {id : GalleyId} {w : WatchEntry} (watched : s.galleys.findWatch id = some w)
    (considering : w.state = .considering) {l : Line} {taken : Bool}
    (offered : s.line.offer s.station.takesPart .galleyClaim 0 (claimBody id) (.claim id) = (l, taken)) :
    exec (.claimDelayExpiry id) s = .next
      { s with
        line := l
        galleys := s.galleys.updateWatch id fun w =>
          { w with delay := none, state := if taken then .claimQueued else .settled } } := by
  show execClaimDelayExpiry id s = _
  unfold execClaimDelayExpiry
  rw [watched]
  dsimp only
  rw [if_pos considering, offered]

/-- A frame that finds the queue full, and no report to displace, is discarded (R173). -/
theorem Line.offer_of_full {l : Line} {kind : FrameKind} {dest : BitVec 5} {body : List Byte} {owner : FrameOwner}
    (takesPart : Bool) (noReport : l.waitingReport owner = none) (full : 16 ≤ l.count)
    (none : l.displaceable kind.cls = none) : l.offer takesPart kind dest body owner = (l, false) := by
  unfold Line.offer
  split
  · rfl
  · rw [noReport]
    dsimp only
    rw [if_neg (by simpa [Config.transmitCapacity] using full), none]

theorem claimQueuedAtExpiry : Claims.ClaimQueuedAtExpiry := by
  intro id w s watched considering low high
  have part : s.station.takesPart = true := by simp [Station.takesPart, low, high]
  refine ⟨fun room => ?_, fun full none => ?_⟩
  · have offered := Line.offer_of_room (l := s.line) (kind := .galleyClaim) (dest := 0) (body := claimBody id)
      (owner := .claim id) rfl room
    exact exec_claimDelayExpiry_of_considering watched considering (by rw [part, offered])
  · exact exec_claimDelayExpiry_of_considering watched considering (Line.offer_of_full _ rfl full none)

theorem GalleyUnit.findWatch_removeWatch_of_ne {gu : GalleyUnit} {id i : GalleyId} (ne : i ≠ id) :
    (gu.removeWatch id).findWatch i = gu.findWatch i := by
  unfold GalleyUnit.findWatch GalleyUnit.removeWatch
  rw [List.find?_filter]
  congr 1
  funext w
  by_cases same : w.id = i
  · simp [same, ne]
  · simp [same]

theorem watchEntryExpires : Claims.WatchEntryExpires := by
  intro id w s watched
  refine ⟨s.dropWatch id, rfl, State.findWatch_dropWatch s id, ?_⟩
  rw [State.dropWatch_of_some watched]
  refine ⟨fun i ne => GalleyUnit.findWatch_removeWatch_of_ne ne, rfl, fun queued => ?_, fun d waits other => ?_, rfl, rfl, rfl,
    rfl, rfl, rfl⟩
  · intro d mem
    dsimp only at mem
    rw [if_pos queued, Line.withdraw_claim] at mem
    simpa using (List.mem_filter.mp mem).2
  · dsimp only
    split
    · rw [Line.withdraw_claim]
      exact List.mem_filter.mpr ⟨waits, by simpa using other⟩
    · exact waits

/-- Settles O12. -/
theorem watchEntryTimers : Obligations.WatchEntryTimers := ⟨claimQueuedAtExpiry, watchEntryExpires⟩

end Sys2Proof.Machine
end

section
/-! The proofs of the claim heard (R4, R5, R7, R103), and of the halt (R181). -/

namespace Sys2Proof.Machine

variable {s : State}

theorem GalleyUnit.findWatch_id {gu : GalleyUnit} {id : GalleyId} {w : WatchEntry} (h : gu.findWatch id = some w) :
    w.id = id := by
  simpa using List.find?_some h

/-! ## A claim at the watch list (R4, R5) -/

theorem exec_galleyClaim_of_own {h : Header} {id : GalleyId} {w : WatchEntry} (heard : s.hears .galleyClaim h = true)
    (own : h.sender = s.station.number) (watched : s.galleys.findWatch id = some w)
    (waits : w.state = .claimSent ∨ w.state = .claimQueued) (room : s.galleys.table.length < 4) :
    exec (.galleyClaim h id) s = .next (s.frameEnded.holdGalley w) := by
  rw [exec_galleyClaim, execGalleyClaim, State.onFrame_of_hears heard, State.frameEnded_galleys, watched]
  dsimp only
  rw [if_pos (show s.frameEnded.isOwn h = true by simpa [State.isOwn] using own)]
  unfold State.hearOwnClaim
  rw [if_pos ⟨waits, room⟩]

/-- The galley unit when a galley comes to be held, before its credit (R5, R7). -/
def GalleyUnit.holding (gu : GalleyUnit) (w : WatchEntry) : GalleyUnit :=
  { gu.removeWatch w.id with table := gu.table ++ [w.record gu.claimCount], claimCount := gu.claimCount + 1 }

/-- The fonts of a galley come to be held, each raised as a prefetch need (R103). -/
def FontStore.prefetchAll (fs : FontStore) (fonts : List Nat) : FontStore := (distinct fonts).foldl FontStore.prefetch fs

theorem State.holdGalley_eq (s : State) (w : WatchEntry) : s.holdGalley w =
    (({ s with galleys := s.galleys.holding w }.report w.id .accepted 0).evaluateCredit).mapFonts
      fun fs => fs.prefetchAll w.fonts := rfl

/-- Galley records that agree but for credit. -/
theorem State.evaluateCredit_find (s : State) {id : GalleyId} {g : Galley} (found : s.galleys.find id = some g) :
    ∃ g', s.evaluateCredit.galleys.find id = some g' ∧ g'.uncredited = g.uncredited := by
  have same := GalleyUnit.find_uncredited s.evaluateCredit_uncredited.1 id
  rw [found, Option.map_some] at same
  exact Option.map_eq_some_iff.mp same

theorem State.evaluateCredit_ids (s : State) :
    s.evaluateCredit.galleys.table.map Galley.id = s.galleys.table.map Galley.id := by
  have same := congrArg (List.map Galley.id) s.evaluateCredit_uncredited.1
  rw [List.map_map, List.map_map] at same
  exact same

theorem GalleyUnit.find_holding {gu : GalleyUnit} {w : WatchEntry} (unheld : gu.find w.id = none) :
    (gu.holding w).find w.id = some (w.record gu.claimCount) := by
  unfold GalleyUnit.find at *
  rw [GalleyUnit.holding, List.find?_append, unheld]
  simp [WatchEntry.record]

theorem FontStore.prefetch_kept (fs : FontStore) (font : Nat) :
    (fs.prefetch font).directory = fs.directory ∧ (fs.prefetch font).memory = fs.memory := by
  unfold FontStore.prefetch
  split
  · exact ⟨rfl, rfl⟩
  split <;> exact ⟨rfl, rfl⟩

theorem FontStore.foldl_prefetch_kept (fonts : List Nat) (fs : FontStore) :
    (fonts.foldl FontStore.prefetch fs).directory = fs.directory ∧ (fonts.foldl FontStore.prefetch fs).memory = fs.memory := by
  induction fonts generalizing fs with
  | nil => exact ⟨rfl, rfl⟩
  | cons font fonts ih =>
    obtain ⟨directory, memory⟩ := fs.prefetch_kept font
    obtain ⟨directory', memory'⟩ := ih (fs.prefetch font)
    exact ⟨directory'.trans directory, memory'.trans memory⟩

theorem ownClaimHoldsTheGalley : Claims.OwnClaimHoldsTheGalley := by
  intro h id w s heard own watched waits room unheld
  obtain rfl := GalleyUnit.findWatch_id watched
  have before := (State.report_alone { s.frameEnded with galleys := s.galleys.holding w } w.id .accepted 0)
  set b := State.report { s.frameEnded with galleys := s.galleys.holding w } w.id .accepted 0 with hb
  have galleys : b.galleys = s.galleys.holding w := State.report_galleys ..
  obtain ⟨g, found, same⟩ := b.evaluateCredit_find (by rw [galleys]; exact GalleyUnit.find_holding unheld)
  have field {α : Type} (f : Galley → α) (keeps : ∀ g, f g.uncredited = f g := by intro; rfl) :
      f g = f (w.record s.galleys.claimCount) := by
    rw [← keeps, same, keeps]
  have kept := b.evaluateCredit_kept
  obtain ⟨directory, memory⟩ := FontStore.foldl_prefetch_kept (distinct w.fonts) s.fonts
  refine ⟨_, g, exec_galleyClaim_of_own heard own watched waits room, ?_, found, field Galley.state, field Galley.priority,
    field Galley.mode, field Galley.firstLine, field Galley.lastLine, field Galley.fallback, field Galley.fonts,
    field Galley.policy, field Galley.length, field Galley.expected, field Galley.nextSegment, field Galley.segments,
    field Galley.counters, field Galley.cancelPending, field Galley.compositionEnded, field Galley.suspension,
    field Galley.stamp, ?_, ?_, ?_, ?_, ?_, ?_, ?_, ?_, ?_⟩
  · show b.evaluateCredit.galleys.findWatch w.id = none
    unfold GalleyUnit.findWatch
    rw [kept.watch, galleys]
    exact GalleyUnit.findWatch_removeWatch s.galleys w.id
  · show b.evaluateCredit.galleys.claimCount = _
    rw [kept.claimCount, galleys]
    rfl
  · show b.evaluateCredit.galleys.table.map Galley.id = _
    rw [b.evaluateCredit_ids, galleys, GalleyUnit.holding, List.map_append]
    rfl
  · show b.composer = _
    rw [before]
    rfl
  · show b.queue = _
    rw [before]
    rfl
  · show b.imaging = _
    rw [before]
    rfl
  · show b.transport = _
    rw [before]
    rfl
  · show b.proofer = _
    rw [before]
    rfl
  · show (b.fonts.prefetchAll w.fonts).directory = _
    rw [before]
    exact directory
  · show (b.fonts.prefetchAll w.fonts).memory = _
    rw [before]
    exact memory

/-! ## Prefetch needs (R103) -/

theorem mem_distinct {xs : List Nat} {x : Nat} : x ∈ distinct xs ↔ x ∈ xs := by
  induction xs using List.reverseRecOn with
  | nil => simp [distinct]
  | append_singleton xs y ih =>
    rw [distinct_append_singleton]
    split
    · rename_i known
      rw [List.mem_append, List.mem_singleton, ih]
      exact ⟨.inl, fun h => h.elim id fun same => ih.mp (same ▸ known)⟩
    · rw [List.mem_append, List.mem_append, ih]

theorem FontStore.isResident_eq {a b : FontStore} (same : a.directory = b.directory) (font : Nat) :
    a.isResident font = b.isResident font := by
  simp [FontStore.isResident, FontStore.entry, same]

theorem FontStore.want_append (fs : FontStore) (w : Want) (font : Nat) :
    ({ fs with wants := fs.wants ++ [w] } : FontStore).want font =
      (fs.want font).or (if w.font = font then some w else none) := by
  simp [FontStore.want, List.find?_append]

/-- What the want list has behind the prefetch needs of these fonts, `a` before and `b` behind. -/
structure FontStore.Prefetched (fonts : List Nat) (a b : FontStore) : Prop where
  wanted : ∀ font ∈ fonts, a.isResident font = true ∨ (b.want font).isSome = true ∨ 16 ≤ b.wants.length
  kept : ∀ font x, a.want font = some x → b.want font = some x
  new : ∀ font x, a.want font = none → b.want font = some x →
    font ∈ fonts ∧ a.isResident font = false ∧ x.state = .waiting ∧ x.attempts = 0 ∧ x.demand = false
  longer : a.wants.length ≤ b.wants.length

theorem FontStore.prefetch_spec (fs : FontStore) (font : Nat) : FontStore.Prefetched [font] fs (fs.prefetch font) := by
  unfold FontStore.prefetch
  split
  case isTrue there =>
    refine ⟨fun f mem => ?_, fun _ _ => id, fun _ _ none some => absurd (none.symm.trans some) nofun, le_rfl⟩
    obtain rfl := List.mem_singleton.mp mem
    exact there.imp_right .inl
  case isFalse absent =>
    rw [not_or, Bool.not_eq_true, Bool.not_eq_true, Option.isSome_eq_false_iff, Option.isNone_iff_eq_none] at absent
    obtain ⟨notResident, unwanted⟩ := absent
    split
    case isTrue room =>
      unfold FontStore.addWant
      refine ⟨fun f mem => ?_, fun f x old => ?_, fun f x none some => ?_, by simp⟩
      · obtain rfl := List.mem_singleton.mp mem
        simp [FontStore.want_append, unwanted]
      · rw [FontStore.want_append, old]
        rfl
      · rw [FontStore.want_append, none, Option.none_or] at some
        split at some
        case isTrue same =>
          cases some
          exact ⟨List.mem_singleton.mpr same.symm, same ▸ notResident, rfl, rfl, rfl⟩
        case isFalse => cases some
    case isFalse full =>
      refine ⟨fun f mem => .inr (.inr (not_lt.mp full)), fun _ _ => id, fun _ _ none some => ?_, le_rfl⟩
      exact absurd (none.symm.trans some) nofun

theorem FontStore.foldl_prefetch_spec (fonts : List Nat) (fs : FontStore) :
    FontStore.Prefetched fonts fs (fonts.foldl FontStore.prefetch fs) := by
  induction fonts generalizing fs with
  | nil => exact ⟨nofun, fun _ _ => id, fun _ _ none some => absurd (none.symm.trans some) nofun, le_rfl⟩
  | cons font fonts ih =>
    have first := fs.prefetch_spec font
    have others := ih (fs.prefetch font)
    have resident (f : Nat) : (fs.prefetch font).isResident f = fs.isResident f :=
      FontStore.isResident_eq (fs.prefetch_kept font).1 f
    rw [List.foldl_cons]
    refine ⟨fun f mem => ?_, fun f x old => others.kept f x (first.kept f x old), fun f x none some => ?_,
      first.longer.trans others.longer⟩
    · rcases List.mem_cons.mp mem with rfl | mem
      · rcases first.wanted f (List.mem_singleton.mpr rfl) with there | wanted | full
        · exact .inl there
        · obtain ⟨x, found⟩ := Option.isSome_iff_exists.mp wanted
          exact .inr (.inl (by rw [others.kept f x found]; rfl))
        · exact .inr (.inr (full.trans others.longer))
      · exact (resident f) ▸ others.wanted f mem
    · cases early : (fs.prefetch font).want f with
      | none =>
        obtain ⟨mem, absent, rest⟩ := others.new f x early some
        exact ⟨List.mem_cons_of_mem _ mem, resident f ▸ absent, rest⟩
      | some y =>
        obtain rfl := Option.some.inj ((others.kept f y early).symm.trans some)
        obtain ⟨mem, rest⟩ := first.new f y none early
        exact ⟨List.mem_cons.mpr (.inl (List.mem_singleton.mp mem)), rest⟩

theorem heldGalleyRaisesPrefetch : Claims.HeldGalleyRaisesPrefetch := by
  intro h id w s heard own watched sent room
  have fonts : (s.frameEnded.holdGalley w).fonts = s.fonts.prefetchAll w.fonts := by
    rw [State.holdGalley_eq]
    show (State.report _ _ _ _).fonts.prefetchAll w.fonts = _
    rw [State.report_alone]
    rfl
  have spec := FontStore.foldl_prefetch_spec (distinct w.fonts) s.fonts
  refine ⟨_, exec_galleyClaim_of_own heard own watched (.inl sent) room, ?_⟩
  rw [fonts]
  refine ⟨fun font mem => spec.wanted font (mem_distinct.mpr mem), spec.kept, fun font x none some => ?_⟩
  obtain ⟨mem, rest⟩ := spec.new font x none some
  exact ⟨mem_distinct.mp mem, rest⟩

/-! ## Another station's claim (R4) -/

theorem otherClaimSettles : Claims.OtherClaimSettles := by
  intro h id s heard other
  refine ⟨fun w watched => ?_, fun unwatched => exec_galleyClaim_of_unwatched h unwatched⟩
  obtain rfl := GalleyUnit.findWatch_id watched
  rw [exec_galleyClaim, execGalleyClaim, State.onFrame_of_hears heard, State.frameEnded_galleys, watched]
  dsimp only
  rw [if_neg (show ¬s.frameEnded.isOwn h = true by simpa [State.isOwn] using other)]
  unfold State.hearOtherClaim State.withdrawClaim
  by_cases queued : w.state = .claimQueued
  · simp only [if_pos queued, State.mapLine, Line.withdraw_claim]
    rfl
  · simp only [if_neg queued]
    rfl

/-- Settles O13. -/
theorem claimHeard : Obligations.ClaimHeard := ⟨ownClaimHoldsTheGalley, heldGalleyRaisesPrefetch, otherClaimSettles⟩

end Sys2Proof.Machine
end

section
/-! The proofs of the halt and the release (R181, R182, R10). -/

namespace Sys2Proof.Machine

variable {s t : State}

/-! ## The halt (R181, R10) -/

theorem State.suspend_mem_queue {id : GalleyId} {why : Suspension} {d : Descriptor}
    (mem : d ∈ (s.suspend id why).line.queue) : d ∈ s.line.queue ∨ d.owner = .report id := by
  unfold State.suspend at mem
  split at mem
  · exact .inl mem
  split at mem
  · dsimp only at mem
    split at mem
    · exact .inl mem
    · unfold State.report at mem
      split at mem
      · obtain old | ⟨-, -, -, owner⟩ := Line.mem_offer mem
        · exact .inl old
        · exact .inr owner
      · exact .inl mem
  · exact .inl mem

/-- The galleys suspended for the halt, one behind the other. -/
def State.suspendEach (s : State) (ids : List GalleyId) : State := ids.foldl (fun s id => s.suspend id .halt) s

theorem State.suspendEach_alone (ids : List GalleyId) (s : State) : s.GalleysAndLineAlone (s.suspendEach ids) :=
  State.GalleysAndLineAlone.foldl (fun s id => s.suspend_alone id .halt) ids s

theorem State.suspendEach_kept (ids : List GalleyId) (s : State) : State.MachineryKept s (s.suspendEach ids) :=
  State.MachineryKept.foldl (fun s id => s.suspend_kept id .halt) ids s

theorem State.suspendEach_mem_queue {ids : List GalleyId} {d : Descriptor} (mem : d ∈ (s.suspendEach ids).line.queue) :
    d ∈ s.line.queue ∨ ∃ id, d.owner = .report id := by
  induction ids generalizing s with
  | nil => exact .inl mem
  | cons id ids ih =>
    rcases ih mem with mem | report
    · exact (State.suspend_mem_queue mem).imp_right fun owner => ⟨id, owner⟩
    · exact .inr report

/-- A galley suspended for the halt stays so, whatever is suspended behind it. -/
theorem State.suspendEach_find_of_suspended {ids : List GalleyId} {id : GalleyId} {g : Galley}
    (found : s.galleys.find id = some g) (suspended : g.state = .suspended) :
    (s.suspendEach ids).galleys.find id = some g := by
  induction ids generalizing s with
  | nil => exact found
  | cons i ids ih =>
    refine ih (s := s.suspend i .halt) ?_
    by_cases active : ∃ g', s.galleys.find i = some g' ∧ g'.Suspendable
    · obtain ⟨g', found', active⟩ := active
      have ne : g.id ≠ i := by
        intro same
        rw [GalleyUnit.find_id found] at same
        subst same
        obtain rfl := Option.some.inj (found.symm.trans found')
        rcases active with h | h <;> rw [h] at suspended <;> cases suspended
      rw [State.suspend_of_suspendable found' active, GalleyUnit.find_update (f := Galley.suspendedFor .halt) fun _ => rfl,
        found, Option.map_some, if_neg ne]
    · rw [State.suspend_of_not_suspendable fun g' found' rest => active ⟨g', found', rest⟩]
      exact found

/-- A galley that may be suspended is, when its turn comes. -/
theorem State.suspendEach_find {ids : List GalleyId} {id : GalleyId} {g : Galley} (mem : id ∈ ids)
    (found : s.galleys.find id = some g) (active : g.Suspendable) :
    (s.suspendEach ids).galleys.find id = some (g.suspendedFor .halt) := by
  induction ids generalizing s with
  | nil => cases mem
  | cons i ids ih =>
    by_cases same : i = id
    · subst same
      refine State.suspendEach_find_of_suspended (s := s.suspend i .halt) ?_ rfl
      rw [State.suspend_of_suspendable found active, GalleyUnit.find_update (f := Galley.suspendedFor .halt) fun _ => rfl,
        found, Option.map_some, if_pos (GalleyUnit.find_id found)]
    · refine ih (s := s.suspend i .halt) ((List.mem_cons.mp mem).resolve_left fun h => same h.symm) ?_
      by_cases active : ∃ g', s.galleys.find i = some g' ∧ g'.Suspendable
      · obtain ⟨g', found', active⟩ := active
        rw [State.suspend_of_suspendable found' active, GalleyUnit.find_update (f := Galley.suspendedFor .halt) fun _ => rfl,
          found, Option.map_some, if_neg (by rw [GalleyUnit.find_id found]; exact fun h => same h.symm)]
      · rw [State.suspend_of_not_suspendable fun g' found' rest => active ⟨g', found', rest⟩]
        exact found

/-- In a table without two records of one galley, a record is the one found by its id. -/
theorem GalleyUnit.find_of_mem {gu : GalleyUnit} {g : Galley} (nodup : (gu.table.map Galley.id).Nodup)
    (mem : g ∈ gu.table) : gu.find g.id = some g := by
  unfold GalleyUnit.find
  cases found : gu.table.find? fun x => x.id = g.id with
  | none => exact absurd (List.find?_eq_none.mp found g mem) (by simp)
  | some x =>
    have same : x.id = g.id := by simpa using List.find?_some found
    rw [List.inj_on_of_nodup_map nodup (List.mem_of_find?_eq_some found) mem same]

theorem exec_stationHalt_of_hears {h : Header} (heard : s.hears .stationHalt h = true) :
    exec (.stationHalt h) s = .next s.frameEnded.halt := by
  show execStationHalt h s = _
  rw [execStationHalt, State.onFrame_of_hears heard]

/-- The station that has taken the halt, its watch entries settled. -/
def State.halting (s : State) : State := State.settleWatches { s.frameEnded with station := { s.station with mode := .halted } }

theorem haltHeard : Claims.HaltHeard := by
  intro h s heard
  rw [exec_stationHalt_of_hears heard]
  refine ⟨fun running => ?_, fun halted => ?_⟩
  · have run : s.frameEnded.halt = s.halting.suspendHalted := if_pos running
    obtain ⟨ids, each, chosen⟩ : ∃ ids, s.halting.suspendHalted = s.halting.suspendEach ids ∧
        ∀ id, id ∈ ids ↔ (∃ g ∈ s.galleys.table, g.id = id) ∧
          ∃ r ∈ s.queue, (r.attached && r.line.galley == id && !(r.exposed && r.proofed)) = true :=
      ⟨_, rfl, fun id => by
        rw [List.mem_filter, List.mem_map, List.any_eq_true]
        rfl⟩
    have kept := State.suspendEach_kept ids s.halting
    have alone := State.suspendEach_alone ids s.halting
    rw [run, each]
    refine ⟨_, rfl, kept.station, kept.watch, ?_, ?_, ?_, ?_, ?_, ?_, ?_, ?_, ?_⟩
    · intro w mem queued d waits owner
      rcases State.suspendEach_mem_queue waits with old | ⟨id, report⟩
      · have filtered := (List.mem_filter.mp old).2
        have withdrawn : (s.galleys.watch.any fun w => w.state == .claimQueued && d.owner == .claim w.id) = true :=
          List.any_eq_true.mpr ⟨w, mem, by simp [queued, owner]⟩
        simp [withdrawn] at filtered
      · rw [owner] at report
        cases report
    · rintro g mem state ⟨r, queued, attached, galley, lacking⟩ nodup
      have found : s.galleys.find g.id = some g := GalleyUnit.find_of_mem nodup mem
      refine ⟨g.suspendedFor .halt, ?_, rfl, rfl, rfl⟩
      refine State.suspendEach_find (s := s.halting) ((chosen g.id).mpr ⟨⟨g, mem, rfl⟩, r, queued, ?_⟩) found state.symm
      simp only [attached, galley, lacking, beq_self_eq_true, Bool.and_true, Bool.not_false]
    all_goals rw [alone]; rfl
  · have run : s.frameEnded.halt = s.frameEnded := if_neg (by
      show ¬s.station.mode = .running
      rw [halted]
      nofun)
    rw [run]
    rfl

/-! ## The release (R182, R10) -/

theorem State.evaluateCredit_table {g : Galley} (mem : g ∈ s.evaluateCredit.galleys.table) :
    ∃ g' ∈ s.galleys.table, g'.uncredited = g.uncredited := by
  have mapped : g.uncredited ∈ s.evaluateCredit.galleys.table.map Galley.uncredited := List.mem_map_of_mem mem
  rw [s.evaluateCredit_uncredited.1] at mapped
  exact List.mem_map.mp mapped

/-- The galley is held and suspended for a halt (R10). -/
def Galley.HaltedHere (g : Galley) : Prop := g.state = .suspended ∧ g.suspension = some .halt

theorem Galley.HaltedHere.of_uncredited {g g' : Galley} (h : g.HaltedHere) (same : g'.uncredited = g.uncredited) :
    g'.HaltedHere :=
  ⟨(congrArg Galley.state same).trans h.1, (congrArg Galley.suspension same).trans h.2⟩

theorem Galley.id_of_uncredited {g g' : Galley} (same : g'.uncredited = g.uncredited) : g'.id = g.id :=
  show g'.uncredited.id = g.uncredited.id by rw [same]

/-- The galleys that stay suspended for a halt from `s` to `t` were so before, and are none of those that resumed. -/
def State.HaltedFewer (s t : State) (ids : List GalleyId) : Prop :=
  ∀ g ∈ t.galleys.table, g.HaltedHere → g.id ∉ ids ∧ ∃ g' ∈ s.galleys.table, g'.id = g.id ∧ g'.HaltedHere

theorem State.evaluateCredit_haltedFewer (s : State) : s.HaltedFewer s.evaluateCredit [] := by
  intro g mem halted
  obtain ⟨g', mem', same⟩ := State.evaluateCredit_table mem
  exact ⟨nofun, g', mem', Galley.id_of_uncredited same, halted.of_uncredited same⟩

theorem State.HaltedFewer.trans {u : State} {ids : List GalleyId} {ids' : List GalleyId} (h : s.HaltedFewer t ids)
    (k : t.HaltedFewer u ids') : s.HaltedFewer u (ids ++ ids') := by
  intro g mem halted
  obtain ⟨new, g', mem', same, halted'⟩ := k g mem halted
  obtain ⟨new', g'', mem'', same', halted''⟩ := h g' mem' halted'
  refine ⟨fun either => ?_, g'', mem'', same'.trans same, halted''⟩
  rcases List.mem_append.mp either with first | second
  · exact new' (same ▸ first)
  · exact new second

theorem State.HaltedFewer.mono {ids ids' : List GalleyId} (h : s.HaltedFewer t ids) (sub : ids' ⊆ ids) :
    s.HaltedFewer t ids' := fun g mem halted =>
  ⟨fun there => (h g mem halted).1 (sub there), (h g mem halted).2⟩

theorem State.removeGalley_haltedFewer (s : State) (id : GalleyId) : s.HaltedFewer (s.removeGalley id) [] := by
  intro g mem halted
  obtain ⟨g', mem', same⟩ := State.evaluateCredit_table mem
  exact ⟨nofun, g', List.mem_of_mem_filter mem', Galley.id_of_uncredited same, halted.of_uncredited same⟩

theorem State.finishGalley_haltedFewer (s : State) (id : GalleyId) : s.HaltedFewer (s.finishGalley id) [] := by
  intro g mem halted
  obtain ⟨new, g', mem', rest⟩ := State.removeGalley_haltedFewer _ id g mem halted
  rw [State.report_galleys] at mem'
  exact ⟨new, g', mem', rest⟩

/-- A record that is given another state is suspended no more. -/
theorem GalleyUnit.update_haltedFewer {s t : State} {id : GalleyId} {f : Galley → Galley}
    (galleys : t.galleys = s.galleys.update id f) (state : ∀ g, (f g).state ≠ .suspended) : s.HaltedFewer t [id] := by
  intro g mem halted
  rw [galleys] at mem
  obtain ⟨g', mem', rfl⟩ := List.mem_map.mp mem
  split at halted
  · exact absurd halted.1 (state g')
  · rename_i other
    rw [if_neg other]
    exact ⟨by simpa using other, g', mem', rfl, halted⟩

theorem State.enterDraining_haltedFewer (s : State) (id : GalleyId) : s.HaltedFewer (s.enterDraining id) [id] := by
  have first := GalleyUnit.update_haltedFewer (s := s) (id := id)
    (t := s.mapGalleys fun gu => gu.update id fun g =>
      { g with
        state := .draining, suspension := none, compositionEnded := true, segments := [], unitsRead := 0, granted := none })
    rfl (by intro g; nofun)
  have second := first.trans (State.evaluateCredit_haltedFewer _)
  unfold State.enterDraining
  dsimp only
  split
  · exact second
  · exact second.trans (State.finishGalley_haltedFewer _ id)

/-- A suspended galley that resumes is not suspended for a halt, and no other comes to be so (R9, R10). -/
theorem State.resume_haltedFewer (nodup : (s.galleys.table.map Galley.id).Nodup) (id : GalleyId) :
    s.HaltedFewer (s.resume id) [id] := by
  have report (s t : State) (ids : List GalleyId) (h : State.HaltedFewer (s.report id .resumed 0) t ids) :
      s.HaltedFewer t ids := by
    unfold State.HaltedFewer at h
    rwa [State.report_galleys] at h
  have unchanged (rest : ∀ g, s.galleys.find id = some g → g.state ≠ .suspended) : s.HaltedFewer s [id] := by
    intro g mem halted
    refine ⟨fun there => ?_, g, mem, rfl, halted⟩
    obtain rfl := List.mem_singleton.mp there
    exact rest g (GalleyUnit.find_of_mem nodup mem) halted.1
  unfold State.resume
  split
  case h_1 unheld => exact unchanged fun g found => absurd (unheld.symm.trans found) nofun
  case h_2 g found =>
    split
    case isFalse state =>
      refine unchanged fun g' found' => ?_
      obtain rfl := Option.some.inj (found.symm.trans found')
      exact state
    case isTrue =>
      refine report _ _ _ ?_
      dsimp only
      split
      · exact State.enterDraining_haltedFewer _ id
      · have composing {t : State} (galleys : t.galleys = (s.report id .resumed 0).galleys.update id fun g =>
            { g with state := .composing, suspension := none }) : State.HaltedFewer (s.report id .resumed 0) t [id] :=
          GalleyUnit.update_haltedFewer galleys (by intro g; nofun)
        split
        · exact composing rfl
        · exact composing rfl

theorem State.resume_nodup (nodup : (s.galleys.table.map Galley.id).Nodup) (id : GalleyId) :
    ((s.resume id).galleys.table.map Galley.id).Nodup :=
  nodup.sublist (s.resume_kept id).held

theorem State.foldl_resume_haltedFewer (ids : List GalleyId) (nodup : (s.galleys.table.map Galley.id).Nodup) :
    s.HaltedFewer (ids.foldl State.resume s) ids := by
  induction ids generalizing s with
  | nil => exact fun g mem halted => ⟨nofun, g, mem, rfl, halted⟩
  | cons id ids ih => exact (State.resume_haltedFewer nodup id).trans (ih (State.resume_nodup nodup id))

/-- Every galley suspended for the halt resumes (R10). -/
theorem State.resumeAll_halt (nodup : (s.galleys.table.map Galley.id).Nodup) :
    ∀ g ∈ (s.resumeAll fun why => why == .halt).galleys.table, ¬g.HaltedHere := by
  intro g mem halted
  obtain ⟨left, g', mem', same, halted'⟩ := State.foldl_resume_haltedFewer _ nodup g mem halted
  refine left (List.mem_map.mpr ⟨g', List.mem_filter.mpr ⟨mem', ?_⟩, same⟩)
  rw [halted'.1, halted'.2]
  rfl

@[simp] theorem State.finishGalley_queue (s : State) (id : GalleyId) : (s.finishGalley id).queue = s.queue := by
  show (s.report id .done 0).queue = _
  rw [State.report_alone]

@[simp] theorem State.enterDraining_queue (s : State) (id : GalleyId) : (s.enterDraining id).queue = s.queue := by
  unfold State.enterDraining
  dsimp only
  split
  · rfl
  · rw [State.finishGalley_queue]
    rfl

@[simp] theorem State.report_queue (s : State) (id : GalleyId) (event : ReportEvent) (reason : Nat) :
    (s.report id event reason).queue = s.queue := by
  rw [State.report_alone]

@[simp] theorem State.resume_queue (s : State) (id : GalleyId) : (s.resume id).queue = s.queue := by
  unfold State.resume
  split
  · rfl
  split
  · dsimp only
    split
    · rw [State.enterDraining_queue, State.report_queue]
    · split
      · exact State.report_queue s id .resumed 0
      · exact State.report_queue s id .resumed 0
  · rfl

@[simp] theorem State.resumeAll_queue (s : State) (p : Suspension → Bool) : (s.resumeAll p).queue = s.queue := by
  unfold State.resumeAll
  generalize s.suspendedFor p = ids
  induction ids generalizing s with
  | nil => rfl
  | cons id ids ih => rw [List.foldl_cons, ih, State.resume_queue]

/-- The station that has taken the release, its galleys resumed. -/
def State.releasing (s : State) : State :=
  State.resumeAll { s.frameEnded with station := { s.station with mode := .running } } fun why => why == .halt

theorem exec_stationRelease_of_hears {h : Header} (heard : s.hears .stationRelease h = true) :
    exec (.stationRelease h) s = .next s.frameEnded.releaseHalt := by
  show execStationRelease h s = _
  rw [execStationRelease, State.onFrame_of_hears heard]

theorem releaseHeard : Claims.ReleaseHeard := by
  intro h s heard
  rw [exec_stationRelease_of_hears heard]
  refine ⟨fun halted nodup => ?_, fun running => ?_⟩
  · have run : s.frameEnded.releaseHalt = s.releasing.filmCheck.examine s.releasing.exposureNextName := if_pos halted
    have kept := (State.resumeAll_kept { s.frameEnded with station := { s.station with mode := .running } }
      fun why => why == .halt).trans (State.filmCheck_kept _)
    have released := State.FollowUp.of_kept kept (State.examine_followUp s.releasing.filmCheck s.releasing.exposureNextName)
    have examined := (State.filmCheck_examined s.releasing).trans
      (State.examine_examined s.releasing.filmCheck s.releasing.exposureNextName)
    have resumed := State.resumeAll_halt (s := { s.frameEnded with station := { s.station with mode := .running } }) nodup
    rw [run]
    refine ⟨_, rfl, released, fun g mem suspended reason => ?_, examined.queue.trans (State.resumeAll_queue ..)⟩
    have found := GalleyUnit.find_of_mem (nodup.sublist released.held) mem
    rcases examined.records g.id with same | ⟨g', why, -, -, notHalt, after⟩
    · exact resumed g (List.mem_of_find?_eq_some (same ▸ found)) ⟨suspended, reason⟩
    · obtain rfl := Option.some.inj (found.symm.trans after)
      exact notHalt (Option.some.inj reason)
  · have run : s.frameEnded.releaseHalt = s.frameEnded := if_neg (by
      show ¬s.station.mode = .halted
      rw [running]
      nofun)
    rw [run]
    rfl

/-- Settles O46. -/
theorem haltAndRelease : Obligations.HaltAndRelease := ⟨haltHeard, releaseHeard⟩

end Sys2Proof.Machine
end

section
/-! SUPPORT for the proofs below. The font store's operations (chapter The Font Store): what a lookup returns after an update,
after the references are counted afresh, and after an allocation. -/

namespace Sys2Proof.Machine

variable {fs made : FontStore} {font : Nat}

/-! ## Lookups after updates (R95, R102) -/

theorem FontStore.entry_spec {e : DirEntry} (found : fs.entry font = some e) :
    e ∈ fs.directory ∧ e.state ≠ .free ∧ e.font = font := by
  unfold FontStore.entry at found
  have here := List.find?_some found
  obtain ⟨held, same⟩ := of_decide_eq_true here
  exact ⟨List.mem_of_find?_eq_some found, held, same⟩

/-- A lookup in a directory each of whose entries was changed, or not, without its font or its being FREE. -/
theorem FontStore.entry_map {a b : FontStore} {f : DirEntry → DirEntry} (directory : b.directory = a.directory.map f)
    (keeps : ∀ e, ((f e).state ≠ .free ∧ (f e).font = font) ↔ (e.state ≠ .free ∧ e.font = font)) :
    b.entry font = (a.entry font).map f := by
  unfold FontStore.entry
  rw [directory, List.find?_map]
  congr 2
  funext e
  simp only [Function.comp_apply, keeps]

theorem FontStore.want_font {w : Want} (found : fs.want font = some w) : w.font = font := by
  simpa using List.find?_some found

/-- A lookup in a want list each of whose entries was changed, or not, without its font. -/
theorem FontStore.want_map {a b : FontStore} {f : Want → Want} (wants : b.wants = a.wants.map f)
    (keeps : ∀ w, (f w).font = w.font) : b.want font = (a.want font).map f := by
  unfold FontStore.want
  rw [wants, List.find?_map]
  congr 2
  funext w
  simp only [Function.comp_apply, keeps]

theorem FontStore.want_updateWant {f : Want → Want} (keeps : ∀ w, (f w).font = w.font := by intro _; rfl) :
    (fs.updateWant font f).want font = (fs.want font).map f := by
  rw [FontStore.want_map (f := fun w => if w.font = font then f w else w) rfl fun w => by split <;> simp [keeps]]
  cases found : fs.want font with
  | none => rfl
  | some w => simp [FontStore.want_font found]

theorem FontStore.want_updateWant_of_ne {f : Want → Want} {other : Nat} (ne : other ≠ font)
    (keeps : ∀ w, (f w).font = w.font := by intro _; rfl) : (fs.updateWant font f).want other = fs.want other := by
  rw [FontStore.want_map (f := fun w => if w.font = font then f w else w) rfl fun w => by split <;> simp [keeps]]
  cases found : fs.want other with
  | none => rfl
  | some w => simp [FontStore.want_font found, ne]

/-! ## Counting the references afresh (R97) -/

/-- A directory entry with its pins counted afresh. -/
def DirEntry.recounted (references : Nat → Nat) (e : DirEntry) : DirEntry :=
  if e.state = .free then e else { e with pins := references e.font }

@[simp] theorem DirEntry.recounted_state (references : Nat → Nat) (e : DirEntry) :
    (e.recounted references).state = e.state := by
  unfold DirEntry.recounted; split <;> rfl

@[simp] theorem DirEntry.recounted_font (references : Nat → Nat) (e : DirEntry) :
    (e.recounted references).font = e.font := by
  unfold DirEntry.recounted; split <;> rfl

theorem FontStore.recount_directory (references : Nat → Nat) :
    (fs.recount references).directory = fs.directory.map (DirEntry.recounted references) := by
  unfold FontStore.recount
  dsimp only
  split <;> rfl

theorem FontStore.recount_entry (references : Nat → Nat) :
    (fs.recount references).entry font = (fs.entry font).map fun e => { e with pins := references font } := by
  rw [FontStore.entry_map (FontStore.recount_directory references) (by simp)]
  cases found : fs.entry font with
  | none => rfl
  | some e =>
    obtain ⟨-, held, rfl⟩ := FontStore.entry_spec found
    simp [DirEntry.recounted, held]

@[simp] theorem FontStore.recount_memory (references : Nat → Nat) : (fs.recount references).memory = fs.memory := by
  unfold FontStore.recount; dsimp only; split <;> rfl

@[simp] theorem FontStore.recount_outbound (references : Nat → Nat) : (fs.recount references).outbound = fs.outbound := by
  unfold FontStore.recount; dsimp only; split <;> rfl

@[simp] theorem FontStore.recount_inbound (references : Nat → Nat) : (fs.recount references).inbound = fs.inbound := by
  unfold FontStore.recount; dsimp only; split <;> rfl

/-! ## Allocation (R99) -/

/-- The want entries as a restart of the DEFERRED ones leaves them (R107). -/
def Want.restarted (w : Want) : Want := if w.state = .deferred then { w with state := .waiting, timer := none } else w

theorem Want.restarted_of_ne {w : Want} (ne : w.state ≠ .deferred) : w.restarted = w := if_neg ne

@[simp] theorem Want.restarted_font (w : Want) : w.restarted.font = w.font := by
  unfold Want.restarted; split <;> rfl

theorem FontStore.restartDeferred_wants : fs.restartDeferred.wants = fs.wants.map Want.restarted := rfl

theorem FontStore.makeRoom_alone {k : Nat} {entryNeeded : Bool} {candidates : List Nat}
    (roomy : FontStore.makeRoom k entryNeeded candidates fs = some made) :
    ∃ directory, made = { fs with directory := directory } := by
  induction candidates generalizing fs with
  | nil =>
    unfold FontStore.makeRoom at roomy
    split at roomy
    · exact ⟨fs.directory, (Option.some.inj roomy).symm⟩
    · cases roomy
  | cons index rest ih =>
    unfold FontStore.makeRoom at roomy
    split at roomy
    · exact ⟨fs.directory, (Option.some.inj roomy).symm⟩
    · obtain ⟨directory, rfl⟩ := ih roomy
      exact ⟨directory, rfl⟩

theorem FontStore.advanceUse_alone (fs : FontStore) :
    ∃ directory useCount, fs.advanceUse = { fs with directory := directory, useCount := useCount } := by
  unfold FontStore.advanceUse
  split
  · exact ⟨fs.directory, _, rfl⟩
  · exact ⟨_, _, rfl⟩

theorem FontStore.allocateNew_alone (fs : FontStore) (font total : Nat) (lendable : Bool) :
    ∃ directory useCount, fs.allocateNew font total lendable =
      { fs with directory := directory, useCount := useCount } := by
  unfold FontStore.allocateNew
  split
  · obtain ⟨directory, useCount, same⟩ := FontStore.advanceUse_alone { fs with
      directory := fs.directory.set _
        { font := font, state := .loading, total := total, present := 0, blocks := fs.freeBlocks.take total,
          lendable := lendable, pins := 0, stamp := fs.useCount, metrics := none } }
    exact ⟨directory, useCount, same⟩
  · exact ⟨fs.directory, fs.useCount, rfl⟩

/-- An allocation changes the directory and the use count, and may restart the DEFERRED entries (R99, R107). -/
theorem FontStore.allocate_alone {total : Nat} {lendable : Bool} (allocated : fs.allocate font total lendable = some made) :
    ∃ directory useCount wants,
      made = { fs with directory := directory, useCount := useCount, wants := wants } ∧
        (wants = fs.wants ∨ wants = fs.wants.map Want.restarted) := by
  unfold FontStore.allocate at allocated
  split at allocated
  · obtain ⟨roomy, room, rfl⟩ := Option.map_eq_some_iff.mp allocated
    obtain ⟨directory, rfl⟩ := FontStore.makeRoom_alone room
    obtain ⟨directory', useCount, same⟩ :=
      FontStore.allocateNew_alone { fs with directory := directory } font total lendable
    dsimp only
    rw [same]
    split
    · exact ⟨directory', useCount, fs.wants, rfl, .inl rfl⟩
    · exact ⟨directory', useCount, _, rfl, .inr rfl⟩
  · obtain ⟨roomy, room, rfl⟩ := Option.map_eq_some_iff.mp allocated
    obtain ⟨directory, rfl⟩ := FontStore.makeRoom_alone room
    dsimp only
    split
    · exact ⟨_, fs.useCount, fs.wants, rfl, .inl rfl⟩
    · exact ⟨_, fs.useCount, _, rfl, .inr rfl⟩

/-- A want entry that is not DEFERRED is after an allocation as before. -/
theorem FontStore.allocate_want {total : Nat} {lendable : Bool} {w : Want}
    (allocated : fs.allocate font total lendable = some made) {other : Nat} (wanted : fs.want other = some w)
    (ne : w.state ≠ .deferred) : made.want other = some w := by
  obtain ⟨directory, useCount, wants, rfl, rfl | rfl⟩ := FontStore.allocate_alone allocated
  · exact wanted
  · rw [FontStore.want_map (a := fs) (f := Want.restarted) rfl Want.restarted_font, wanted, Option.map_some,
      Want.restarted_of_ne ne]

end Sys2Proof.Machine
end

section
/-! The proofs of font lending (R115, R116, R121 to R124): an ask, the offer made for it, an offer heard and a take heard. -/

namespace Sys2Proof.Machine

variable {s : State}

/-! ## An ask heard (R121) -/

theorem exec_fontWanted_of_hears {h : Header} (heard : s.hears .fontWanted h = true) (font : Nat) :
    exec (.fontWanted h font) s = .next
      (if s.mayOffer h font then
        s.frameEnded.mapOutbound fun _ =>
          { Outbound.rest with
            mode := .offerPending, font := font, asker := h.sender, timer := some (offerDelayOf s.station.number) }
      else s.frameEnded) := by
  show execFontWanted h font s = _
  rw [execFontWanted, State.onFrame_of_hears heard]
  rfl

theorem State.mayOffer_eq_true_iff {h : Header} {font : Nat} : s.mayOffer h font = true ↔
    s.station.takesPart = true ∧ h.sender ≠ s.station.number ∧ s.fonts.outbound.mode = .idle ∧
      ∃ e, s.fonts.entry font = some e ∧ e.state = .resident ∧ e.lendable = true := by
  unfold State.mayOffer
  cases s.fonts.entry font <;> simp [State.isOwn, and_assoc]

theorem FontStore.isResident_of_entry {fs : FontStore} {font : Nat} {e : DirEntry} (found : fs.entry font = some e)
    (resident : e.state = .resident) : fs.isResident font = true := by
  simp [FontStore.isResident, found, resident]

theorem askHeard : Claims.AskHeard := by
  intro h font s heard
  rw [exec_fontWanted_of_hears heard]
  refine ⟨fun e low high other idle found resident lendable => ?_, fun reason => ?_⟩
  · have part : s.station.takesPart = true := by simp [Station.takesPart, low, high]
    rw [if_pos (State.mayOffer_eq_true_iff.mpr ⟨part, other, idle, e, found, resident, lendable⟩)]
    rfl
  · rw [if_neg]
    · rfl
    intro may
    obtain ⟨-, other, idle, e, found, resident, lendable⟩ := State.mayOffer_eq_true_iff.mp may
    rcases reason with own | busy | absent | ⟨e', found', kept⟩
    · exact other own
    · exact busy idle
    · rw [FontStore.isResident_of_entry found resident] at absent
      cases absent
    · obtain rfl := Option.some.inj (found.symm.trans found')
      rw [lendable] at kept
      cases kept

/-! ## The offer made (R122) -/

/-- The offer that an OFFERED channel has to send (R122). -/
theorem State.loanFrame_of_offered {e : DirEntry} (offered : s.fonts.outbound.mode = .offered)
    (found : s.fonts.entry s.fonts.outbound.font = some e) :
    s.loanFrame = some (.fontOffer, 0, fontOfferBody s.fonts.outbound.font s.fonts.outbound.asker e.total) := by
  unfold State.loanFrame
  dsimp only
  rw [found]
  dsimp only
  rw [offered]

/-- The block that a SENDING channel has to send next (R124). -/
theorem State.loanFrame_of_sending {e : DirEntry} (sending : s.fonts.outbound.mode = .sending)
    (found : s.fonts.entry s.fonts.outbound.font = some e) :
    s.loanFrame = some (.fontBlock, BitVec.ofNat 5 s.fonts.outbound.asker, fontBlockBody s.fonts.outbound.font
      s.fonts.outbound.next (Memory.readBlock s.fonts.memory (e.blocks.getD s.fonts.outbound.next 0))) := by
  unfold State.loanFrame
  dsimp only
  rw [found]
  dsimp only
  rw [sending]

/-- The outbound channel's frame where it has room and none of the channel's stands in the transmit queue (R171). -/
theorem State.queueLoanFrame_of_room {kind : FrameKind} {dest : BitVec 5} {body : List Byte}
    (frame : s.loanFrame = some (kind, dest, body)) (free : s.line.holds Descriptor.isOutbound = false)
    (part : s.station.takesPart = true) (room : s.line.count < 16) :
    s.queueLoanFrame =
      { s with
        line := s.line.withWaiting kind dest body .outbound
        fonts := { s.fonts with outbound := { s.fonts.outbound with due := false } } } := by
  unfold State.queueLoanFrame
  rw [frame]
  dsimp only
  rw [free, part, Line.offer_of_room _ _ _ _ _ (s.line.waitingReport_eq_none fun _ h => FrameOwner.noConfusion h) room]
  rfl

/-- The state whose outbound channel offers its font: the font pinned, the frame still to come (R122). -/
def State.offering (s : State) : State :=
  State.recount (s.mapOutbound fun o => { o with mode := .offered, timer := none })

theorem exec_offerDelay_of_resident {e : DirEntry} (pending : s.fonts.outbound.mode = .offerPending)
    (found : s.fonts.entry s.fonts.outbound.font = some e) (resident : e.state = .resident) (lendable : e.lendable = true) :
    exec .offerDelay s = .next s.offering.queueLoanFrame := by
  show execOfferDelay s = _
  unfold execOfferDelay
  dsimp only
  rw [if_pos pending, found]
  dsimp only
  rw [if_pos ⟨resident, lendable⟩]
  rfl

/-- A font that is offered or lent is pinned (R97). -/
theorem State.references_pos_of_outbound
    (lent : s.fonts.outbound.mode = .offered ∨ s.fonts.outbound.mode = .sending) :
    0 < s.references s.fonts.outbound.font := by
  unfold State.references
  rw [if_pos (show (_ ∨ _) ∧ s.fonts.outbound.font = s.fonts.outbound.font from ⟨lent, rfl⟩)]
  exact Nat.succ_pos _

theorem offerMade : Claims.OfferMade := by
  intro s pending
  refine ⟨fun e found resident lendable part room free => ?_, fun reason => ?_⟩
  · have outbound : s.offering.fonts.outbound = { s.fonts.outbound with mode := .offered, timer := none } :=
      FontStore.recount_outbound _
    have entry : s.offering.fonts.entry s.fonts.outbound.font =
        some { e with pins :=
          (s.mapOutbound fun o => { o with mode := .offered, timer := none }).references s.fonts.outbound.font } := by
      show (FontStore.recount _ _).entry _ = _
      rw [FontStore.recount_entry]
      show (s.fonts.entry _).map _ = _
      rw [found]
      rfl
    have frame := State.loanFrame_of_offered (s := s.offering) (by rw [outbound]) (by rw [outbound]; exact entry)
    rw [outbound] at frame
    have queued := State.queueLoanFrame_of_room (s := s.offering) frame free part room
    rw [outbound] at queued
    refine ⟨_, _, (exec_offerDelay_of_resident pending found resident lendable).trans (congrArg _ queued), rfl, entry,
      ?_, resident, rfl, rfl, rfl, rfl, FontStore.recount_memory _⟩
    exact State.references_pos_of_outbound (s := s.mapOutbound fun o => { o with mode := .offered, timer := none }) (.inl rfl)
  · show execOfferDelay s = _
    unfold execOfferDelay
    dsimp only
    rw [if_pos pending]
    split
    case h_1 e found =>
      refine if_neg ?_
      rintro ⟨resident, lendable⟩
      rcases reason with absent | ⟨e', found', kept⟩
      · rw [FontStore.isResident_of_entry found resident] at absent
        cases absent
      · obtain rfl := Option.some.inj (found.symm.trans found')
        rw [lendable] at kept
        cases kept
    case h_2 => rfl

/-- Settles O42. -/
theorem askAndOffer : Obligations.AskAndOffer := ⟨askHeard, offerMade⟩

/-! ## An offer heard (R115, R116) -/

theorem exec_fontOffer_of_hears {h : Header} (heard : s.hears .fontOffer h = true) (font asker total : Nat) :
    exec (.fontOffer h font asker total) s =
      .next ((s.frameEnded.hearOfferToSelf h font asker total).hearOtherOffer h font asker) := by
  show execFontOffer h font asker total s = _
  rw [execFontOffer, State.onFrame_of_hears heard]

/-- An offer leaves a channel alone that is not pending for its font and asker, and one of the station's own (R122). -/
theorem State.hearOtherOffer_of_ignored {h : Header} {font asker : Nat}
    (ignored : s.fonts.outbound.mode ≠ .offerPending ∨ s.fonts.outbound.font ≠ font ∨ s.fonts.outbound.asker ≠ asker ∨
      h.sender = s.station.number) : s.hearOtherOffer h font asker = s := by
  unfold State.hearOtherOffer
  refine if_neg ?_
  rintro ⟨pending, sameFont, sameAsker, other⟩
  rcases ignored with r | r | r | r
  · exact r pending
  · exact r sameFont
  · exact r sameAsker
  · simp [State.isOwn, r] at other

theorem FontStore.takes_eq_some {fs : FontStore} {font total : Nat} {w : Want} (wanted : fs.want font = some w)
    (asking : w.state = .asking) (low : 3 ≤ total) (high : total ≤ 252)
    (agrees : ∀ e, fs.entry font = some e → e.total = total) : fs.takes font total = some w := by
  unfold FontStore.takes
  rw [wanted]
  dsimp only
  refine if_pos ⟨asking, low, high, ?_⟩
  split
  case h_1 e found => simpa using agrees e found
  case h_2 => rfl

theorem FontStore.takes_eq_none {fs : FontStore} {font total : Nat}
    (reason : fs.want font = none ∨ (∃ w, fs.want font = some w ∧ w.state ≠ .asking) ∨ total < 3 ∨ 252 < total ∨
      (∃ e, fs.entry font = some e ∧ e.total ≠ total)) : fs.takes font total = none := by
  unfold FontStore.takes
  split
  case h_1 => rfl
  case h_2 w wanted =>
    refine if_neg ?_
    rintro ⟨asking, low, high, agrees⟩
    rcases reason with none | ⟨w', wanted', not⟩ | few | many | ⟨e, found, differs⟩
    · exact absurd (none.symm.trans wanted) nofun
    · obtain rfl := Option.some.inj (wanted.symm.trans wanted')
      exact not asking
    · omega
    · omega
    · rw [found] at agrees
      exact differs (by simpa using agrees)

theorem State.hearOfferToSelf_of_takes {h : Header} {font total : Nat} {w : Want} (part : s.station.takesPart = true)
    (takes : s.fonts.takes font total = some w) :
    s.hearOfferToSelf h font s.station.number total = s.takeOffer w h.sender total := by
  unfold State.hearOfferToSelf
  rw [if_pos ⟨part, rfl⟩, takes]

theorem State.hearOfferToSelf_of_not_takes {h : Header} {font asker total : Nat}
    (not : asker ≠ s.station.number ∨ s.fonts.takes font total = none) : s.hearOfferToSelf h font asker total = s := by
  unfold State.hearOfferToSelf
  split
  case isTrue named =>
    rw [not.resolve_left fun other => other named.2]
  case isFalse => rfl

/-- The state whose inbound channel has taken an offer, the TAKE still to be queued (R116). -/
def State.offerTaken (s : State) (w : Want) (lender total : Nat) (fs : FontStore) : State :=
  { s with
    fonts :=
      { fs.updateWant w.font fun w => { w with state := .loading, timer := none } with
        inbound :=
          { Inbound.rest with
            mode := .lineLoad, font := w.font, lender := lender, next := w.firstBlock, total := total, takeDue := true } } }

theorem State.takeOffer_of_holds {w : Want} {lender total : Nat} {fs : FontStore}
    (allocated : s.fonts.allocate w.font total true = some fs) (holds : s.line.holds Descriptor.isInbound = true) :
    s.takeOffer w lender total = s.offerTaken w lender total fs := by
  unfold State.takeOffer
  rw [allocated]
  exact if_pos holds

theorem State.takeOffer_of_free {w : Want} {lender total : Nat} {fs : FontStore}
    (allocated : s.fonts.allocate w.font total true = some fs) (free : s.line.holds Descriptor.isInbound = false) :
    s.takeOffer w lender total = (s.offerTaken w lender total fs).queueTake := by
  unfold State.takeOffer
  rw [allocated]
  exact if_neg (Bool.eq_false_iff.mp free)

theorem State.takeOffer_of_not_allocated {w : Want} {lender total : Nat}
    (failed : s.fonts.allocate w.font total true = none) : s.takeOffer w lender total = s.defer w.font := by
  unfold State.takeOffer
  rw [failed]

theorem offerToThisStation : Claims.OfferToThisStation := by
  intro h font total s heard
  rw [exec_fontOffer_of_hears heard]
  refine ⟨fun w fs part wanted asking low high agrees allocated idle room => ?_,
    fun w part wanted asking low high agrees failed idle => ?_, fun reason mine => ?_⟩
  · obtain rfl := FontStore.want_font wanted
    have taken : s.frameEnded.hearOfferToSelf h w.font s.station.number total = _ :=
      State.hearOfferToSelf_of_takes (s := s.frameEnded) (h := h) part
        (FontStore.takes_eq_some wanted asking low high agrees)
    have outbound : fs.outbound = s.fonts.outbound := by
      obtain ⟨directory, useCount, wants, rfl, -⟩ := FontStore.allocate_alone allocated
      rfl
    have loading : (fs.updateWant w.font fun w => { w with state := .loading, timer := none }).want w.font =
        some { w with state := .loading, timer := none } := by
      rw [FontStore.want_updateWant, FontStore.allocate_want allocated wanted (by rw [asking]; nofun),
        Option.map_some]
    have notPending : fs.outbound.mode ≠ .offerPending := by rw [outbound, idle]; nofun
    rw [taken]
    cases holds : s.line.holds Descriptor.isInbound with
    | true =>
      have held : s.line.holds (fun d => d.owner == .inbound) = true := holds
      rw [State.takeOffer_of_holds (s := s.frameEnded) allocated holds, State.hearOtherOffer_of_ignored (.inl notPending)]
      exact ⟨_, _, rfl, loading, rfl, rfl, rfl, rfl, rfl, rfl, rfl, rfl, rfl, rfl, rfl, rfl,
        fun free => absurd (held.symm.trans free) nofun, fun _ => ⟨rfl, rfl⟩⟩
    | false =>
      have free : s.line.holds (fun d => d.owner == .inbound) = false := holds
      have room : s.line.count < 16 := room.resolve_right fun held => absurd (free.symm.trans held) nofun
      have queued := State.queueTake_of_room (s.frameEnded.offerTaken w h.sender total fs) part room
      rw [State.takeOffer_of_free (s := s.frameEnded) allocated holds, queued,
        State.hearOtherOffer_of_ignored (.inl notPending)]
      exact ⟨_, _, rfl, loading, rfl, rfl, rfl, rfl, rfl, rfl, rfl, rfl, rfl, rfl, rfl, rfl,
        fun _ => ⟨rfl, rfl⟩, fun held => absurd (free.symm.trans held) nofun⟩
  · obtain rfl := FontStore.want_font wanted
    have taken : s.frameEnded.hearOfferToSelf h w.font s.station.number total = _ :=
      State.hearOfferToSelf_of_takes (s := s.frameEnded) (h := h) part
        (FontStore.takes_eq_some wanted asking low high agrees)
    rw [taken, State.takeOffer_of_not_allocated (s := s.frameEnded) failed, State.hearOtherOffer_of_ignored]
    · rfl
    · exact .inl (by show s.fonts.outbound.mode ≠ _; rw [idle]; nofun)
  · rw [State.hearOfferToSelf_of_not_takes (s := s.frameEnded) (.inr (FontStore.takes_eq_none reason)),
      State.hearOtherOffer_of_ignored]
    · rfl
    · exact mine.elim .inl fun other => .inr (.inr (.inl other))

theorem offerToAnother : Claims.OfferToAnother := by
  intro h font asker total s heard other
  rw [exec_fontOffer_of_hears heard, State.hearOfferToSelf_of_not_takes (s := s.frameEnded) (.inl other)]
  refine ⟨fun sender pending sameFont sameAsker => ?_, fun ignored => ?_⟩
  · unfold State.hearOtherOffer
    dsimp only
    rw [if_pos ⟨pending, sameFont, sameAsker, by simpa [State.isOwn] using sender⟩]
    rfl
  · rw [State.hearOtherOffer_of_ignored (s := s.frameEnded) ignored]
    rfl

/-- Settles O43. -/
theorem offerHeard : Obligations.OfferHeard := ⟨offerToThisStation, offerToAnother⟩

/-! ## A take heard (R122 to R124) -/

theorem exec_fontTake_of_hears {h : Header} (heard : s.hears .fontTake h = true) (font lender first : Nat) :
    exec (.fontTake h font lender first) s = .next
      (if h.sender = s.fonts.outbound.asker ∧ font = s.fonts.outbound.font then s.frameEnded.hearTake lender first
      else s.frameEnded) := by
  show execFontTake h font lender first s = _
  rw [execFontTake, State.onFrame_of_hears heard]
  rfl

/-- A loan that ends: the channel rests, and no OFFER of it waits (R123). -/
theorem State.releaseLoan_spec (s : State) :
    s.releaseLoan.fonts.outbound = Outbound.rest ∧
      (∀ d ∈ s.releaseLoan.line.queue, ¬(d.owner = .outbound ∧ d.kind = .fontOffer)) ∧
      s.releaseLoan.queue = s.queue ∧ s.releaseLoan.galleys = s.galleys ∧ s.releaseLoan.composer = s.composer ∧
      s.releaseLoan.fonts.inbound = s.fonts.inbound := by
  refine ⟨FontStore.recount_outbound _, fun d mem => ?_, rfl, rfl, rfl, FontStore.recount_inbound _⟩
  have kept := (List.mem_filter.mp mem).2
  rintro ⟨owner, kind⟩
  simp [Descriptor.isLoanOffer, owner, kind] at kept

/-- Settles O44. -/
theorem takeHeard : Obligations.TakeHeard := by
  intro h lender first s
  refine ⟨fun e heard asker offered found mine block below part room free => ?_, fun i offered reason => ?_,
    fun heard asker pending => ?_, fun font heard reason => ?_⟩
  · have sending : s.frameEnded.hearTake lender first =
        State.queueLoanFrame (s.frameEnded.mapOutbound fun o =>
          { o with mode := .sending, next := first, timer := none }) := by
      unfold State.hearTake
      dsimp only [State.frameEnded_fonts]
      rw [offered, found]
      exact if_pos ⟨mine, block, below⟩
    have frame := State.loanFrame_of_sending
      (s := s.frameEnded.mapOutbound fun o => { o with mode := .sending, next := first, timer := none }) rfl found
    rw [exec_fontTake_of_hears heard, if_pos ⟨asker, rfl⟩, sending, State.queueLoanFrame_of_room frame free part room]
    refine ⟨_, rfl, rfl, ⟨_, mem_insertBy.mpr (.inl rfl), rfl, rfl, rfl⟩, rfl, rfl⟩
  · rcases reason with ⟨rfl, heard, asker, wrong⟩ | ⟨rfl, running⟩
    · have ended : s.frameEnded.hearTake lender first = s.frameEnded.releaseLoan := by
        unfold State.hearTake
        dsimp only [State.frameEnded_fonts]
        rw [offered]
        refine if_neg ?_
        rintro ⟨mine, block, -⟩
        rcases wrong with other | ⟨not0, not2⟩
        · exact other mine
        · exact block.elim not0 not2
      rw [exec_fontTake_of_hears heard, if_pos ⟨asker, rfl⟩, ended]
      exact ⟨_, rfl, s.frameEnded.releaseLoan_spec⟩
    · have ended : exec .takeWait s = .next s.releaseLoan := congrArg Host.Outcome.next (if_pos ⟨offered, running⟩)
      exact ⟨_, ended, s.releaseLoan_spec⟩
  · have stopped : s.frameEnded.hearTake lender first = s.frameEnded.mapOutbound fun _ => Outbound.rest := by
      unfold State.hearTake
      dsimp only [State.frameEnded_fonts]
      rw [pending]
    rw [exec_fontTake_of_hears heard, if_pos ⟨asker, rfl⟩, stopped]
    rfl
  · rw [exec_fontTake_of_hears heard]
    split
    case isTrue ours =>
      rcases reason with sending | other | other
      · have ignored : s.frameEnded.hearTake lender first = s.frameEnded := by
          unfold State.hearTake
          dsimp only [State.frameEnded_fonts]
          rw [sending]
        rw [ignored]
        rfl
      · exact absurd ours.1 other
      · exact absurd ours.2 other
    case isFalse => rfl

end Sys2Proof.Machine
end

section
/-! The proofs of the want list and the inbound channel (R101, R105 to R107, R109 to R119): an entry taken into service, the
timers, a load from the line that is broken off, and the cartridge in and out. -/

namespace Sys2Proof.Machine

variable {s : State} {fs made : FontStore} {font : Nat}

/-! ## A load from the line broken off (R118, R119) -/

theorem exec_fontBlock_of_hears {h : Header} (heard : s.hears .fontBlock h = true) (loading : s.fonts.inbound.mode = .lineLoad)
    (lender : h.sender = s.fonts.inbound.lender) (index : Nat) (data : List Byte) :
    exec (.fontBlock h s.fonts.inbound.font index data) s = .next (s.frameEnded.hearBlock index data) := by
  show execFontBlock h s.fonts.inbound.font index data s = _
  rw [execFontBlock, State.onFrame_of_hears heard]
  exact congrArg _ (if_pos ⟨loading, lender, rfl⟩)

theorem FontStore.endAttempt_want {w : Want} {other : Nat} (wanted : fs.want font = some w) :
    (fs.endAttempt other).want font = some w.restarted := by
  rw [FontStore.want_map (a := fs) (f := Want.restarted) rfl Want.restarted_font, wanted]
  rfl

theorem Want.failed_restarted {w : Want} (few : w.attempts + 1 < 3) :
    w.restarted.failed = { w with attempts := w.attempts + 1, state := .waiting, timer := none } := by
  have count : min 3 (w.attempts + 1) = w.attempts + 1 := by omega
  unfold Want.restarted
  split <;> simp [Want.failed, few, count]

/-- What an ended attempt leaves of the font's directory entry (R101). -/
theorem FontStore.endAttempt_directory {e : DirEntry} (mem : e ∈ (fs.endAttempt font).directory) (same : e.font = font) :
    e.state ≠ .loading ∧ (e.state = .metrics → e.present = 2 ∧ e.blocks.length ≤ 2) := by
  obtain ⟨old, -, rfl⟩ := List.mem_map.mp mem
  split
  case isTrue => exact ⟨nofun, nofun⟩
  case isFalse notLoading =>
    split
    case isTrue metrics =>
      refine ⟨?_, fun _ => ⟨rfl, List.length_take_le ..⟩⟩
      show old.state ≠ _
      rw [metrics.2]
      nofun
    case isFalse notMetrics =>
      rw [if_neg notLoading, if_neg notMetrics] at same
      exact ⟨fun loading => notLoading ⟨same, loading⟩, fun metrics => absurd ⟨same, metrics⟩ notMetrics⟩

/-- An attempt from the line that ends with attempts left (R119). -/
theorem State.endLineAttempt_of_few {w : Want} (wanted : s.fonts.want font = some w) (few : w.attempts + 1 < 3) :
    s.endLineAttempt font =
      (s.mapFonts fun fs => { fs.endAttempt font with inbound := Inbound.rest }.updateWant font Want.failed) ∧
    (s.endLineAttempt font).fonts.want font =
      some { w with attempts := w.attempts + 1, state := .waiting, timer := none } := by
  have after : (FontStore.updateWant { s.fonts.endAttempt font with inbound := Inbound.rest } font Want.failed).want font =
      some { w with attempts := w.attempts + 1, state := .waiting, timer := none } := by
    rw [FontStore.want_updateWant]
    show ((s.fonts.endAttempt font).want font).map Want.failed = _
    rw [← Want.failed_restarted few, FontStore.endAttempt_want wanted]
    rfl
  have ended : s.endLineAttempt font =
      s.mapFonts fun fs => { fs.endAttempt font with inbound := Inbound.rest }.updateWant font Want.failed := by
    unfold State.endLineAttempt State.countFailure
    refine if_neg ?_
    show ¬(FontStore.updateWant { s.fonts.endAttempt font with inbound := Inbound.rest } font Want.failed).isUnavailable
      font = true
    rw [FontStore.isUnavailable, after]
    nofun
  exact ⟨ended, by rw [ended]; exact after⟩

/-- Settles O37. -/
theorem lineLoadBroken : Obligations.LineLoadBroken := by
  intro i w s loading wanted
  refine ⟨?below, ?foreign, ?broken⟩
  case below =>
    rintro h index data rfl heard lender below
    rw [exec_fontBlock_of_hears heard loading lender]
    exact congrArg _ (if_pos below)
  case foreign =>
    rintro h font index data rfl other
    show execFontBlock h font index data s = _
    rw [execFontBlock, State.onFrame_of_ignored]
    · rfl
    refine if_neg ?_
    rintro ⟨-, lender, same⟩
    exact other.elim (fun ne => ne lender) fun ne => ne same
  case broken =>
    have ended {s' : State} (fonts : s'.fonts = s.fonts) (composer : s'.composer = s.composer) (queue : s'.queue = s.queue)
        (galleys : s'.galleys = s.galleys) (few : w.attempts + 1 < 3)
        (run : exec i s = .next (s'.endLineAttempt s.fonts.inbound.font)) :
        ∃ t, exec i s = .next t ∧ t.fonts.inbound = Inbound.rest ∧
          t.fonts.want s.fonts.inbound.font =
            some { w with attempts := w.attempts + 1, state := .waiting, timer := none } ∧
          (∀ e ∈ t.fonts.directory, e.font = s.fonts.inbound.font →
            e.state ≠ .loading ∧ (e.state = .metrics → e.present = 2 ∧ e.blocks.length ≤ 2)) ∧
          t.fonts.memory = s.fonts.memory ∧ t.composer = s.composer ∧ t.queue = s.queue ∧ t.galleys = s.galleys ∧
          t.fonts.catalog = s.fonts.catalog ∧ t.fonts.outbound = s.fonts.outbound := by
      obtain ⟨same, waiting⟩ := State.endLineAttempt_of_few (s := s') (font := s.fonts.inbound.font) (by rw [fonts]; exact wanted) few
      refine ⟨_, run, ?_, waiting, ?_, ?_⟩
      all_goals rw [same]
      · rfl
      · intro e mem own
        exact FontStore.endAttempt_directory (fs := s'.fonts) mem own
      · simp only [State.mapFonts, FontStore.updateWant, FontStore.endAttempt, FontStore.restartDeferred, fonts, composer,
          queue, galleys, and_self]
    rintro (⟨h, index, data, rfl, heard, lender, above⟩ | ⟨rfl, running⟩) few
    · refine ended (s' := s.frameEnded) rfl rfl rfl rfl few ?_
      rw [exec_fontBlock_of_hears heard loading lender]
      have notBelow : ¬index < s.fonts.inbound.next := by omega
      have notNext : ¬index = s.fonts.inbound.next := by omega
      exact congrArg _ ((if_neg notBelow).trans (if_neg notNext))
    · exact ended rfl rfl rfl rfl few (congrArg Host.Outcome.next (if_pos ⟨loading, running⟩))

/-! ## An entry taken into service (R105, R111, R113) -/

/-- Room for the load is there before anything is evicted (R99). -/
def FontStore.roomy (fs : FontStore) (font total : Nat) : Bool :=
  match fs.entry font with
  | none => fs.hasRoom total true
  | some e => fs.hasRoom (e.total - 2) false

theorem FontStore.makeRoom_withWants (k : Nat) (entryNeeded : Bool) (candidates : List Nat) (fs : FontStore)
    (wants : List Want) :
    FontStore.makeRoom k entryNeeded candidates { fs with wants := wants } =
      (FontStore.makeRoom k entryNeeded candidates fs).map fun m => { m with wants := wants } := by
  induction candidates generalizing fs with
  | nil =>
    show (if fs.hasRoom k entryNeeded then _ else _) = _
    unfold FontStore.makeRoom
    split <;> rfl
  | cons index rest ih =>
    show (if fs.hasRoom k entryNeeded then _ else FontStore.makeRoom k entryNeeded rest { fs.evict index with wants := wants }) = _
    conv_rhs => unfold FontStore.makeRoom
    rw [ih]
    split <;> rfl

theorem FontStore.allocateNew_withWants (fs : FontStore) (font total : Nat) (lendable : Bool) (wants : List Want) :
    FontStore.allocateNew { fs with wants := wants } font total lendable =
      { fs.allocateNew font total lendable with wants := wants } := by
  unfold FontStore.allocateNew
  show (match fs.freeEntry with | some _ => _ | none => _) = _
  cases fs.freeEntry with
  | none => rfl
  | some index =>
    dsimp only
    unfold FontStore.advanceUse
    dsimp only
    split <;> rfl

/-- An allocation does not look at the want list; it restarts the DEFERRED entries, or leaves them (R99, R107). -/
theorem FontStore.allocate_withWants (fs : FontStore) (font total : Nat) (lendable : Bool) (wants : List Want) :
    FontStore.allocate { fs with wants := wants } font total lendable =
      (fs.allocate font total lendable).map fun m =>
        { m with wants := if fs.roomy font total then wants else wants.map Want.restarted } := by
  unfold FontStore.allocate FontStore.roomy
  show (match fs.entry font with | none => _ | some e => _) = _
  cases fs.entry font with
  | none =>
    dsimp only
    rw [show FontStore.candidates { fs with wants := wants } = fs.candidates from rfl, FontStore.makeRoom_withWants,
      Option.map_map, Option.map_map]
    congr 1
    funext m
    simp only [Function.comp_apply, FontStore.allocateNew_withWants]
    rw [show FontStore.hasRoom { fs with wants := wants } total true = fs.hasRoom total true from rfl]
    split <;> rfl
  | some e =>
    dsimp only
    rw [show FontStore.candidates { fs with wants := wants } = fs.candidates from rfl, FontStore.makeRoom_withWants,
      Option.map_map, Option.map_map]
    congr 1
    funext m
    simp only [Function.comp_apply]
    rw [show FontStore.hasRoom { fs with wants := wants } (e.total - 2) false = fs.hasRoom (e.total - 2) false from rfl]
    split <;> rfl

theorem FontStore.allocate_wants {total : Nat} {lendable : Bool} (allocated : fs.allocate font total lendable = some made) :
    made.wants = if fs.roomy font total then fs.wants else fs.wants.map Want.restarted := by
  have same := FontStore.allocate_withWants fs font total lendable fs.wants
  rw [show ({ fs with wants := fs.wants } : FontStore) = fs from rfl, allocated, Option.map_some] at same
  exact congrArg FontStore.wants (Option.some.inj same)

/-- A want list changed at one font gives the same lookups elsewhere, behind an allocation as well. -/
theorem FontStore.allocate_want_of_ne {total : Nat} {lendable : Bool} {f : Want → Want} {other : Nat} {made' : FontStore}
    (keeps : ∀ w, (f w).font = w.font) (allocated : fs.allocate font total lendable = some made)
    (allocated' : (fs.updateWant font f).allocate font total lendable = some made') (ne : other ≠ font) :
    made'.want other = made.want other := by
  have wants := FontStore.allocate_wants allocated
  have wants' := FontStore.allocate_wants allocated'
  have before := FontStore.want_updateWant_of_ne (fs := fs) ne keeps
  rw [show (fs.updateWant font f).roomy font total = fs.roomy font total from rfl] at wants'
  split at wants
  · rw [if_pos ‹_›] at wants'
    unfold FontStore.want at before ⊢
    rw [wants, wants', before]
  · rw [if_neg ‹_›] at wants'
    rw [FontStore.want_map (a := fs) wants Want.restarted_font,
      FontStore.want_map (a := fs.updateWant font f) wants' Want.restarted_font, before]

theorem FontStore.updateWant_updateWant {f g : Want → Want} (keeps : ∀ w, (f w).font = w.font) :
    (fs.updateWant font f).updateWant font g = fs.updateWant font (g ∘ f) := by
  unfold FontStore.updateWant
  dsimp only
  rw [List.map_map]
  congr 1
  refine List.map_congr_left fun w _ => ?_
  simp only [Function.comp_apply]
  by_cases same : w.font = font
  · rw [if_pos same, if_pos (by rw [keeps, same]), if_pos same]
  · rw [if_neg same, if_neg same, if_neg same]

theorem State.takeable_of_next {w : Want} {c : Option CatalogEntry} (idle : s.fonts.inbound.mode = .idle)
    (free : s.fonts.inService = none)
    (gone : ∀ f, s.line.flight = some f → f.withdrawn = true → ¬(f.desc.owner = .inbound ∧ f.desc.kind = .fontWanted))
    (next : s.fonts.nextWaiting = some w) (source : s.fonts.cartridgeSource w.font = c) : s.takeable = some (w, c) := by
  refine State.takeable_eq_some.mpr ⟨idle, free, ?_, next, source⟩
  unfold Line.askWithdrawn
  cases flight : s.line.flight with
  | none => rfl
  | some f =>
    have := gone f flight
    cases withdrawn : f.withdrawn <;> simp_all

theorem exec_inboundTakesEntry_of_source {w : Want} {c : CatalogEntry} (takeable : s.takeable = some (w, some c)) :
    exec .inboundTakesEntry s = .next (s.loadCartridge w c) := by
  show execInboundTakesEntry s = _
  rw [execInboundTakesEntry, takeable]

theorem exec_inboundTakesEntry_of_no_source {w : Want} (takeable : s.takeable = some (w, none)) :
    exec .inboundTakesEntry s = .next (s.askLine w) := by
  show execInboundTakesEntry s = _
  rw [execInboundTakesEntry, takeable]

/-- The entry from the cartridge where the allocation fails: DEFERRED (R107). -/
theorem State.loadCartridge_of_not_allocated {w : Want} {c : CatalogEntry}
    (failed : s.fonts.allocate w.font c.total c.lendable = none) :
    s.loadCartridge w c = (s.mapFonts fun fs => fs.serve w.font).defer w.font := by
  have failed' : (s.fonts.serve w.font).allocate w.font c.total c.lendable = none := by
    rw [FontStore.serve, FontStore.updateWant, FontStore.allocate_withWants, failed]
    rfl
  unfold State.loadCartridge
  dsimp only [State.mapFonts]
  rw [failed']

/-- The entry from the cartridge where the allocation is made: LOADING (R111). -/
theorem State.loadCartridge_of_allocated {w : Want} {c : CatalogEntry} {fs : FontStore}
    (allocated : s.fonts.allocate w.font c.total c.lendable = some fs) :
    ∃ fs', (s.fonts.serve w.font).allocate w.font c.total c.lendable = some fs' ∧ fs'.directory = fs.directory ∧
      fs'.useCount = fs.useCount ∧ fs'.memory = s.fonts.memory ∧
      s.loadCartridge w c =
        { s with
          fonts :=
            { fs'.updateWant w.font fun w => { w with state := .loading, timer := none } with
              inbound :=
                { Inbound.rest with
                  mode := .cartLoad, font := w.font, next := s.fonts.firstBlockOf w.font, total := c.total,
                  read := some 5 } } } := by
  have allocated' := FontStore.allocate_withWants s.fonts w.font c.total c.lendable (s.fonts.serve w.font).wants
  rw [allocated, Option.map_some] at allocated'
  refine ⟨_, allocated', rfl, rfl, ?_, ?_⟩
  · obtain ⟨directory, useCount, wants, rfl, -⟩ := FontStore.allocate_alone allocated
    rfl
  · unfold State.loadCartridge
    dsimp only [State.mapFonts]
    rw [show (s.fonts.serve w.font).allocate w.font c.total c.lendable = _ from allocated']
    rfl

/-- An entry as it stands while the line is asked for its font (R105, R113). -/
def Want.asked (first : Nat) (w : Want) : Want := { w with state := .asking, timer := none, firstBlock := first }

theorem FontStore.serve_asking (fs : FontStore) (font : Nat) :
    (fs.serve font).updateWant font (fun w => { w with state := .asking, timer := none }) =
      fs.updateWant font (Want.asked (fs.firstBlockOf font)) := by
  unfold FontStore.serve
  rw [FontStore.updateWant_updateWant (by intro _; rfl)]
  rfl

/-- The state with an entry ASKING, its FONT WANTED still to be queued. -/
def State.askDue (s : State) (font : Nat) : State :=
  { s with
    fonts :=
      { s.fonts.updateWant font (Want.asked (s.fonts.firstBlockOf font)) with
        inbound := { Inbound.rest with askDue := true } } }

theorem State.askLine_eq (s : State) (w : Want) : s.askLine w =
    if s.line.holds Descriptor.isInbound then s.askDue w.font else (s.askDue w.font).queueAsk w.font := by
  unfold State.askLine State.askDue
  rw [← FontStore.serve_asking]
  rfl

/-- No report is of a class above 2, so that a frame of class 2 displaces none (R173). -/
theorem Line.displaceable_two (l : Line) : l.displaceable 2 = none := by
  unfold Line.displaceable
  rw [List.getLast?_eq_none_iff, List.filter_eq_nil_iff]
  intro d _
  cases d.kind <;> decide

theorem waitingEntryTaken : Claims.WaitingEntryTaken := by
  intro w first s idle free gone next wanted firstBlock
  have block : s.fonts.firstBlockOf w.font = first := firstBlock.symm
  refine ⟨fun c source => ?cartridge, fun noSource holds => ?due, fun noSource notHeld part room => ?queued,
    fun noSource notHeld discard => ?discarded⟩
  case cartridge =>
    have run := exec_inboundTakesEntry_of_source (State.takeable_of_next idle free gone next source)
    cases allocated : s.fonts.allocate w.font c.total c.lendable with
    | none =>
      rw [run, State.loadCartridge_of_not_allocated allocated, State.defer]
      refine ⟨_, rfl, rfl, rfl, rfl, rfl, rfl, rfl, rfl, fun _ => ⟨rfl, rfl, rfl, ?_, fun font ne => ?_⟩,
        fun fs isSome => absurd isSome nofun⟩
      · show (((s.fonts.serve w.font).updateWant w.font Want.deferred).want w.font) = _
        rw [FontStore.want_updateWant, FontStore.serve, FontStore.want_updateWant, wanted]
        simp [Want.deferred, block, Config.deferralLimit]
      · show (((s.fonts.serve w.font).updateWant w.font Want.deferred).want font) = _
        rw [FontStore.want_updateWant_of_ne ne, FontStore.serve, FontStore.want_updateWant_of_ne ne]
    | some fs =>
      obtain ⟨fs', served, directory, useCount, memory, same⟩ := State.loadCartridge_of_allocated allocated
      rw [run, same]
      refine ⟨_, rfl, rfl, rfl, rfl, rfl, rfl, rfl, memory, fun none => absurd none nofun,
        fun made isMade => ?_⟩
      obtain rfl := Option.some.inj isMade
      refine ⟨directory, useCount, by rw [block], ?_, fun font ne => ?_⟩
      · have waiting : fs'.want w.font = some ({ w with firstBlock := first } : Want) ∨
            fs'.want w.font = some ({ w with firstBlock := first } : Want).restarted := by
          have before : (s.fonts.serve w.font).want w.font = some { w with firstBlock := first } := by
            rw [FontStore.serve, FontStore.want_updateWant, wanted, block]
            rfl
          have wants := FontStore.allocate_wants served
          split at wants
          · refine .inl ?_
            unfold FontStore.want at before ⊢
            rw [wants, before]
          · refine .inr ?_
            rw [FontStore.want_map (a := s.fonts.serve w.font) wants Want.restarted_font, before]
            rfl
        show (fs'.updateWant w.font _).want w.font = _
        rw [FontStore.want_updateWant]
        rcases waiting with waiting | waiting
        · rw [waiting]
          rfl
        · rw [waiting, Want.restarted]
          split <;> rfl
      · show (fs'.updateWant w.font _).want font = _
        rw [FontStore.want_updateWant_of_ne ne]
        exact FontStore.allocate_want_of_ne (by intro _; rfl) allocated served ne
  all_goals
    have run := exec_inboundTakesEntry_of_no_source (State.takeable_of_next idle free gone next noSource)
    rw [State.askLine_eq] at run
  case due =>
    have holds' : s.line.holds Descriptor.isInbound = true := holds
    rw [run, if_pos holds', State.askDue, block]
    rfl
  case queued =>
    have free' : ¬s.line.holds Descriptor.isInbound = true := Bool.eq_false_iff.mp notHeld
    rw [run, if_neg free', State.queueAsk_of_room (s.askDue w.font) w.font part room, State.askDue, block]
    rfl
  case discarded =>
    have free' : ¬s.line.holds Descriptor.isInbound = true := Bool.eq_false_iff.mp notHeld
    have offered : s.line.offer s.station.takesPart .fontWanted 0 (fontWantedBody w.font) .inbound = (s.line, false) := by
      rcases discard with listening | full
      · rw [listening]
        rfl
      · exact Line.offer_of_full _ (s.line.waitingReport_eq_none fun _ h => FrameOwner.noConfusion h) full
          s.line.displaceable_two
    rw [run, if_neg free', State.queueAsk_of_discard (s.askDue w.font) w.font offered, State.askDue,
      FontStore.startAskingWait, block]
    have waits : FontStore.updateWant
        { s.fonts.updateWant w.font (Want.asked first) with inbound := { Inbound.rest with askDue := true } } w.font
          (fun w => { w with timer := some Config.askingWait }) =
        { s.fonts.updateWant w.font (fun w => { w with state := .asking, timer := some 120, firstBlock := first }) with
          inbound := { Inbound.rest with askDue := true } } := by
      have merged := FontStore.updateWant_updateWant (fs := s.fonts) (font := w.font) (f := Want.asked first)
        (g := fun w => { w with timer := some Config.askingWait }) (by intro _; rfl)
      exact congrArg (fun fs : FontStore => { fs with inbound := { Inbound.rest with askDue := true } }) merged
    rw [waits]
    rfl

theorem noEntryTaken : Claims.NoEntryTaken := by
  intro s reason
  have none : s.takeable = none := by
    unfold State.takeable
    split
    case isTrue may =>
      obtain ⟨idle, free, gone⟩ := may
      rcases reason with busy | serving | empty | ⟨f, flight, withdrawn, owner, kind⟩
      · exact absurd idle busy
      · exact absurd (Option.isNone_iff_eq_none.mp free) serving
      · rw [empty]
        rfl
      · simp [Line.askWithdrawn, flight, withdrawn, owner, kind] at gone
    case isFalse => rfl
  show execInboundTakesEntry s = _
  rw [execInboundTakesEntry, none]

/-- Settles O38. -/
theorem entryTakenIntoService : Obligations.EntryTakenIntoService := ⟨waitingEntryTaken, noEntryTaken⟩

end Sys2Proof.Machine
end

section
/-! The proofs of the want list's timers (R106, R107, R113, R114) and of the cartridge in and out (R101, R109, R110). -/

namespace Sys2Proof.Machine

variable {s t : State} {fs : FontStore} {font : Nat}

/-! ## A demand entry that is given up stays so (R104, R106) -/

/-- A demand entry given up, its attempts as they stood and its retry wait just started. -/
def Want.GivenUpWith (attempts : Nat) (w : Want) : Prop :=
  w.state = .unavailable ∧ w.attempts = attempts ∧ w.timer = some 10000 ∧ w.demand = true

/-- The font's want entry is a demand entry given up, and no font has two entries. -/
structure FontStore.GivenUp (font attempts : Nat) (fs : FontStore) : Prop where
  once : (fs.wants.map Want.font).Nodup
  entry : ∃ w, fs.want font = some w ∧ w.GivenUpWith attempts

variable {attempts : Nat}

theorem FontStore.GivenUp.of_wants {a b : FontStore} (h : a.GivenUp font attempts) (wants : b.wants = a.wants) :
    b.GivenUp font attempts := by
  obtain ⟨once, w, wanted, givenUp⟩ := h
  refine ⟨by rw [wants]; exact once, w, ?_, givenUp⟩
  unfold FontStore.want at *
  rw [wants, wanted]

theorem FontStore.updateWant_fonts {f : Want → Want} (keeps : ∀ w, (f w).font = w.font := by intro _; rfl) :
    (fs.updateWant font f).wants.map Want.font = fs.wants.map Want.font := by
  unfold FontStore.updateWant
  rw [List.map_map]
  refine List.map_congr_left fun w _ => ?_
  simp only [Function.comp_apply]
  split
  · exact keeps w
  · rfl

theorem FontStore.updateWant_congr {f g : Want → Want} (same : ∀ w ∈ fs.wants, w.font = font → f w = g w) :
    fs.updateWant font f = fs.updateWant font g := by
  unfold FontStore.updateWant
  congr 1
  refine List.map_congr_left fun w mem => ?_
  split
  · exact same w mem ‹_›
  · rfl

theorem FontStore.GivenUp.demanded (h : fs.GivenUp font attempts) (other : Nat) :
    (fs.updateWant other Want.demanded).GivenUp font attempts := by
  obtain ⟨once, w, wanted, state, count, timer, demand⟩ := h
  refine ⟨by rw [FontStore.updateWant_fonts]; exact once, ?_⟩
  by_cases same : font = other
  · subst same
    refine ⟨w.demanded, by rw [FontStore.want_updateWant, wanted]; rfl, state, count, ?_, rfl⟩
    unfold Want.demanded
    rw [state, timer]
  · exact ⟨w, by rw [FontStore.want_updateWant_of_ne same, wanted], state, count, timer, demand⟩

theorem FontStore.GivenUp.addWant (h : fs.GivenUp font attempts) {other : Nat} (new : fs.want other = none) (demand : Bool) :
    (fs.addWant other demand).GivenUp font attempts := by
  obtain ⟨once, w, wanted, givenUp⟩ := h
  refine ⟨?_, w, ?_, givenUp⟩
  · rw [FontStore.addWant, List.map_append, List.nodup_append]
    refine ⟨once, List.nodup_singleton _, ?_⟩
    rintro f mem _ (_ | ⟨_, ⟨⟩⟩) rfl
    obtain ⟨x, there, rfl⟩ := List.mem_map.mp mem
    exact absurd (List.find?_eq_none.mp new x there) (by simp)
  · rw [FontStore.addWant, FontStore.want_append, wanted]
    rfl

theorem FontStore.GivenUp.removeWant (h : fs.GivenUp font attempts) {w : Want} (mem : w ∈ fs.wants)
    (noDemand : w.demand = false) : (fs.removeWant w.font).GivenUp font attempts := by
  obtain ⟨once, x, wanted, state, count, timer, demand⟩ := h
  refine ⟨once.sublist (List.filter_sublist.map _), x, ?_, state, count, timer, demand⟩
  have ne : x.font ≠ w.font := by
    intro same
    rw [List.inj_on_of_nodup_map once (List.mem_of_find?_eq_some wanted) mem same, noDemand] at demand
    cases demand
  unfold FontStore.want FontStore.removeWant at *
  rw [List.find?_filter, ← wanted]
  congr 1
  funext y
  have own : x.font = font := FontStore.want_font (fs := fs) wanted
  by_cases same : y.font = font
  · simp [same, ← own, ne]
  · simp [same]

theorem State.suspend_fonts (s : State) (id : GalleyId) (why : Suspension) : (s.suspend id why).fonts = s.fonts := by
  rw [State.suspend_alone]

theorem State.suspendForFonts_fonts (s : State) : s.suspendForFonts.fonts = s.fonts := by
  unfold State.suspendForFonts
  split
  · rfl
  · dsimp only
    split
    · exact State.suspend_fonts ..
    · rfl

theorem State.suspendForFont_fonts (s : State) (font : Nat) : (s.suspendForFont font).fonts = s.fonts := by
  unfold State.suspendForFont
  split
  · split
    · exact State.suspendForFonts_fonts s
    · rfl
  · rfl

theorem State.dropWant_wants (s : State) (w : Want) : (s.dropWant w).fonts.wants = (s.fonts.removeWant w.font).wants := by
  unfold State.dropWant
  dsimp only
  split <;> rfl

theorem FontStore.GivenUp.demandOnce (h : s.fonts.GivenUp font attempts) (party : Party) (other : Nat) :
    (s.demandOnce party other).fonts.GivenUp font attempts := by
  unfold State.demandOnce
  split
  case h_1 =>
    dsimp only
    split
    · rw [State.suspendForFont_fonts]
      exact h.demanded other
    · exact h.demanded other
  case h_2 new =>
    split
    · exact h.addWant new true
    split
    case h_1 w replaced =>
      obtain ⟨mem, noDemand, -⟩ := replaceable_mem replaced
      have removed : (s.dropWant w).fonts.GivenUp font attempts :=
        (h.removeWant mem noDemand).of_wants (s.dropWant_wants w)
      refine removed.addWant ?_ true
      unfold FontStore.want
      rw [State.dropWant_wants]
      exact List.find?_eq_none.mpr fun x there => List.find?_eq_none.mp new x (List.mem_of_mem_filter there)
    case h_2 =>
      split
      · exact h
      · exact h.of_wants rfl

theorem FontStore.GivenUp.demandAgain (h : s.fonts.GivenUp font attempts) (d : Party × Nat) :
    (s.demandAgain d).fonts.GivenUp font attempts := by
  unfold State.demandAgain
  dsimp only
  split
  · exact h.of_wants rfl
  split
  · exact (h.demandOnce ..).of_wants rfl
  · exact h.demandOnce ..

theorem FontStore.GivenUp.wantRemoved (h : s.fonts.GivenUp font attempts) : s.wantRemoved.fonts.GivenUp font attempts := by
  unfold State.wantRemoved
  generalize s.fonts.refused = refused
  induction refused generalizing s with
  | nil => exact h
  | cons d rest ih => exact ih (h.demandAgain d)

theorem FontStore.GivenUp.raiseDemand (h : s.fonts.GivenUp font attempts) (party : Party) (other : Nat) :
    (s.raiseDemand party other).fonts.GivenUp font attempts := by
  unfold State.raiseDemand
  dsimp only
  split
  · exact (h.demandOnce ..).wantRemoved
  · exact h.demandOnce ..

theorem FontStore.GivenUp.holdComposer (h : s.fonts.GivenUp font attempts) (id : GalleyId) (other : Nat) :
    (s.holdComposer id other).fonts.GivenUp font attempts := by
  have same : (s.holdComposer id other).fonts = s.fonts := State.suspend_fonts ..
  rwa [same]

theorem FontStore.GivenUp.waitForFont (h : s.fonts.GivenUp font attempts) (other : Nat) :
    (s.waitForFont other).fonts.GivenUp font attempts :=
  h.raiseDemand .composer other

/-- The font policy leaves a demand entry that is given up alone, and the queue and the transport (R47). -/
theorem State.applyPolicy_stay {g : Galley} {other : Nat} (stays : s.applyPolicy g other = .stay t) :
    (∀ font attempts, s.fonts.GivenUp font attempts → t.fonts.GivenUp font attempts) ∧ t.queue = s.queue ∧
      t.transport = s.transport := by
  have held (s : State) (id : GalleyId) (f : Nat) : (s.holdComposer id f).queue = s.queue ∧
      (s.holdComposer id f).transport = s.transport := by
    unfold State.holdComposer
    rw [State.suspend_alone]
    exact ⟨rfl, rfl⟩
  unfold State.applyPolicy at stays
  split at stays
  · cases stays
    exact ⟨fun _ _ h => h.holdComposer .., held ..⟩
  split at stays
  · cases stays
  split at stays
  all_goals cases stays
  · obtain ⟨queue, transport⟩ := held (s.raiseDemand .composer g.fallback) g.id g.fallback
    exact ⟨fun _ _ h => (h.raiseDemand ..).holdComposer .., queue.trans (s.raiseDemand_examined ..).queue,
      transport.trans (s.raiseDemand_demandKept ..).transport⟩
  · exact ⟨fun _ _ h => h.waitForFont _, (s.raiseDemand_examined ..).queue, (s.raiseDemand_demandKept ..).transport⟩

theorem State.composerGivenUp_spec (s : State) (other : Nat) :
    (∀ font attempts, s.fonts.GivenUp font attempts → (s.composerGivenUp other).fonts.GivenUp font attempts) ∧
      (s.composerGivenUp other).queue = s.queue ∧ (s.composerGivenUp other).transport = s.transport := by
  unfold State.composerGivenUp
  split
  · split
    · exact ⟨fun _ _ => id, rfl, rfl⟩
    split
    · refine ⟨fun _ _ h => h.holdComposer .., ?_⟩
      unfold State.holdComposer
      rw [State.suspend_alone]
      exact ⟨rfl, rfl⟩
    split
    · exact ⟨fun _ _ h => h.of_wants rfl, rfl, rfl⟩
    · exact State.applyPolicy_stay ‹_›
  · exact ⟨fun _ _ => id, rfl, rfl⟩

/-- A demand entry that is given up: its retry wait runs, whatever follows for the composer and the walk (R106, R129). -/
theorem State.giveUp_spec {w : Want} (once : (s.fonts.wants.map Want.font).Nodup) (wanted : s.fonts.want font = some w)
    (demand : w.demand = true) :
    (s.giveUp font).fonts.GivenUp font w.attempts ∧ (s.giveUp font).queue = s.queue ∧
      (s.giveUp font).transport = s.transport := by
  set u := s.mapFonts fun fs => fs.updateWant font Want.givenUp with hu
  have started : u.fonts.GivenUp font w.attempts := by
    refine ⟨by rw [hu]; show (s.fonts.updateWant font Want.givenUp).wants.map Want.font |>.Nodup
               rw [FontStore.updateWant_fonts]; exact once,
      w.givenUp, ?_, rfl, rfl, ?_, demand⟩
    · show (s.fonts.updateWant font Want.givenUp).want font = _
      rw [FontStore.want_updateWant, wanted]
      rfl
    · simp [Want.givenUp, demand, Config.retryWait]
  obtain ⟨stands, queue, transport⟩ := u.composerGivenUp_spec font
  have given : s.giveUp font = (u.composerGivenUp font).suspendForFont font := rfl
  rw [given]
  refine ⟨(stands _ _ started).of_wants (by rw [State.suspendForFont_fonts]), ?_, ?_⟩
  · rw [(State.suspendForFont_examined ..).queue, queue]
    rfl
  · rw [(State.suspendForFont_kept ..).transport, transport]
    rfl

/-- Settles O39. -/
theorem wantTimers : Obligations.WantTimers := by
  intro font w s once wanted running
  refine ⟨fun unavailable => ?retry, fun deferred demand => ?limit,
    fun serving asking => ⟨fun unsent => ?unsent, fun sent few => ?again, fun sent many demand => ?givenUp⟩⟩
  case retry =>
    show execRetryWait font s = _
    unfold execRetryWait
    rw [wanted]
    exact congrArg _ (if_pos ⟨unavailable, running⟩)
  case limit =>
    have run : exec (.deferralLimit font) s = .next (s.giveUp font) := by
      show execDeferralLimit font s = _
      unfold execDeferralLimit
      rw [wanted]
      exact congrArg _ (if_pos ⟨deferred, running⟩)
    obtain ⟨⟨-, w', wanted', state, count, timer, -⟩, queue, transport⟩ := State.giveUp_spec once wanted demand
    exact ⟨_, w', run, wanted', state, count, timer, queue, transport⟩
  all_goals
    have own : w.font = font := FontStore.want_font wanted
    have run : exec .askingWait s =
        if s.fonts.inbound.unsent then
          .next (s.mapFonts fun fs => { fs.updateWant w.font Want.waitingAgain with inbound := Inbound.rest })
        else .next (s.countFailure w.font) := by
      show execAskingWait s = _
      unfold execAskingWait
      rw [serving]
      exact if_pos ⟨asking, running⟩
    rw [own] at run
  case unsent =>
    rw [run, if_pos unsent]
    rfl
  case again =>
    have failed : (s.fonts.updateWant font Want.failed).want font =
        some { w with attempts := w.attempts + 1, state := .waiting, timer := none } := by
      rw [FontStore.want_updateWant, wanted, Option.map_some]
      have count : min 3 (w.attempts + 1) = w.attempts + 1 := by omega
      have more : w.attempts + 1 < 3 := by omega
      simp [Want.failed, count, more]
    have counted : s.countFailure font = s.mapFonts fun fs => fs.updateWant font Want.failed := by
      unfold State.countFailure
      refine if_neg ?_
      show ¬(s.fonts.updateWant font Want.failed).isUnavailable font = true
      rw [FontStore.isUnavailable, failed]
      nofun
    rw [run, sent, counted]
    refine congrArg (fun fs => Host.Outcome.next { s with fonts := fs }) (FontStore.updateWant_congr fun x mem same => ?_)
    have found : x = w := by
      rw [← own] at same
      exact List.inj_on_of_nodup_map once mem (List.mem_of_find?_eq_some wanted) same
    have count : min 3 (w.attempts + 1) = w.attempts + 1 := by omega
    have more : w.attempts + 1 < 3 := by omega
    simp [found, Want.failed, count, more]
  case givenUp =>
    have failed : (s.fonts.updateWant font Want.failed).want font =
        some { w with attempts := 3, state := .unavailable, timer := none } := by
      rw [FontStore.want_updateWant, wanted, Option.map_some]
      have count : min 3 (w.attempts + 1) = 3 := by omega
      have last : ¬w.attempts + 1 < 3 := by omega
      simp [Want.failed, count, last]
    have counted : s.countFailure font = (s.mapFonts fun fs => fs.updateWant font Want.failed).giveUp font := by
      unfold State.countFailure
      refine if_pos ?_
      show (s.fonts.updateWant font Want.failed).isUnavailable font = true
      rw [FontStore.isUnavailable, failed]
      rfl
    have once' : ((s.fonts.updateWant font Want.failed).wants.map Want.font).Nodup := by
      rw [FontStore.updateWant_fonts]
      exact once
    obtain ⟨⟨-, w', wanted', state, count, timer, -⟩, -, -⟩ :=
      State.giveUp_spec (s := s.mapFonts fun fs => fs.updateWant font Want.failed) once' failed demand
    rw [run, sent, counted]
    exact ⟨_, w', rfl, wanted', state, count, timer⟩

/-! ## The catalog (R109) -/

/-- A font entry that the catalog takes, its number not listed before: within its ranges. -/
def InCatalogRange (c : CatalogEntry) : Prop := 1 ≤ c.font ∧ c.font ≤ 1023 ∧ 3 ≤ c.total ∧ c.total ≤ 252

/-- The fonts of a cartridge that are within their ranges and not listed before, before the catalog is held to its 16. -/
def listedFonts (fonts : List CatalogEntry) : List CatalogEntry :=
  fonts.foldl
    (fun kept c =>
      if 1 ≤ c.font ∧ c.font ≤ 1023 ∧ 3 ≤ c.total ∧ c.total ≤ 252 ∧ kept.all (fun k => k.font != c.font) then kept ++ [c]
      else kept)
    []

theorem catalogOf_eq (fonts : List CatalogEntry) : catalogOf fonts = (listedFonts fonts).take 16 := rfl

theorem listedFonts_append_singleton (fonts : List CatalogEntry) (c : CatalogEntry) :
    InCatalogRange c ∧ c.font ∉ (listedFonts fonts).map CatalogEntry.font ∧ listedFonts (fonts ++ [c]) = listedFonts fonts ++ [c] ∨
      ¬(InCatalogRange c ∧ c.font ∉ (listedFonts fonts).map CatalogEntry.font) ∧ listedFonts (fonts ++ [c]) = listedFonts fonts := by
  have step : listedFonts (fonts ++ [c]) =
      if 1 ≤ c.font ∧ c.font ≤ 1023 ∧ 3 ≤ c.total ∧ c.total ≤ 252 ∧
        (listedFonts fonts).all (fun k => k.font != c.font) then listedFonts fonts ++ [c] else listedFonts fonts := by
    unfold listedFonts
    rw [List.foldl_append]
    rfl
  have absent : (listedFonts fonts).all (fun k => k.font != c.font) = true ↔
      c.font ∉ (listedFonts fonts).map CatalogEntry.font := by
    simp only [List.all_eq_true, bne_iff_ne, List.mem_map, not_exists, not_and]
  rw [step]
  by_cases taken : 1 ≤ c.font ∧ c.font ≤ 1023 ∧ 3 ≤ c.total ∧ c.total ≤ 252 ∧
      (listedFonts fonts).all (fun k => k.font != c.font) = true
  · obtain ⟨low, high, few, many, new⟩ := taken
    exact .inl ⟨⟨low, high, few, many⟩, absent.mp new, if_pos ⟨low, high, few, many, new⟩⟩
  · refine .inr ⟨?_, if_neg taken⟩
    rintro ⟨⟨low, high, few, many⟩, new⟩
    exact taken ⟨low, high, few, many, absent.mpr new⟩

theorem listedFonts_spec (fonts : List CatalogEntry) :
    (listedFonts fonts).Sublist fonts ∧ ((listedFonts fonts).map CatalogEntry.font).Nodup ∧
      ∀ c ∈ listedFonts fonts, InCatalogRange c := by
  induction fonts using List.reverseRecOn with
  | nil => exact ⟨.slnil, .nil, nofun⟩
  | append_singleton fonts c ih =>
    obtain ⟨sub, once, ranges⟩ := ih
    rcases listedFonts_append_singleton fonts c with ⟨range, new, same⟩ | ⟨-, same⟩
    · rw [same]
      refine ⟨sub.append (.refl _), ?_, ?_⟩
      · rw [List.map_append, List.nodup_append]
        refine ⟨once, List.nodup_singleton _, ?_⟩
        rintro f mem _ (_ | ⟨_, ⟨⟩⟩) rfl
        exact new mem
      · intro k mem
        rcases List.mem_append.mp mem with old | last
        · exact ranges k old
        · rw [List.mem_singleton.mp last]
          exact range
    · rw [same]
      exact ⟨sub.trans (List.sublist_append_left ..), once, ranges⟩

theorem listedFonts_prefix (before behind : List CatalogEntry) : listedFonts before <+: listedFonts (before ++ behind) := by
  induction behind using List.reverseRecOn with
  | nil => rw [List.append_nil]
  | append_singleton behind c ih =>
    rw [← List.append_assoc]
    rcases listedFonts_append_singleton (before ++ behind) c with ⟨-, -, same⟩ | ⟨-, same⟩
    · rw [same]
      exact ih.trans (List.prefix_append ..)
    · rwa [same]

/-- A font within its ranges and not listed before is in the catalog, or the catalog is full of fonts before it. -/
theorem mem_catalogOf {before behind : List CatalogEntry} {c : CatalogEntry} (range : InCatalogRange c)
    (new : ∀ b ∈ before, b.font = c.font → ¬(3 ≤ b.total ∧ b.total ≤ 252)) :
    c ∈ catalogOf (before ++ c :: behind) ∨
      (catalogOf (before ++ c :: behind)).length = 16 ∧ ∀ k ∈ catalogOf (before ++ c :: behind), k ∈ before := by
  obtain ⟨sub, -, ranges⟩ := listedFonts_spec before
  have absent : c.font ∉ (listedFonts before).map CatalogEntry.font := by
    intro mem
    obtain ⟨b, listed, same⟩ := List.mem_map.mp mem
    obtain ⟨-, -, few, many⟩ := ranges b listed
    exact new b (sub.subset listed) same ⟨few, many⟩
  have next : listedFonts (before ++ [c]) = listedFonts before ++ [c] := by
    rcases listedFonts_append_singleton before c with ⟨-, -, same⟩ | ⟨not, -⟩
    · exact same
    · exact absurd ⟨range, absent⟩ not
  obtain ⟨rest, whole⟩ := listedFonts_prefix (before ++ [c]) behind
  rw [next, List.append_assoc, List.append_assoc] at whole
  rw [catalogOf_eq, show before ++ c :: behind = before ++ ([c] ++ behind) from rfl, ← whole]
  by_cases room : (listedFonts before).length < 16
  · left
    obtain ⟨free, count⟩ : ∃ free, 16 - (listedFonts before).length = free + 1 := ⟨15 - (listedFonts before).length, by omega⟩
    rw [List.take_append, List.singleton_append, count, List.take_succ_cons]
    exact List.mem_append_right _ List.mem_cons_self
  · right
    rw [List.take_append_of_le_length (by omega)]
    exact ⟨by rw [List.length_take]; omega, fun k mem => sub.subset (List.mem_of_mem_take mem)⟩

theorem catalogTaken : Claims.CatalogTaken := by
  refine fun fonts s => ⟨fun empty => ?_, fun reading => ?_⟩
  · exact congrArg (fun fs => Host.Outcome.next { s with fonts := fs }) (if_pos empty)
  · have run : exec (.catalogRead fonts) s = .next { s with fonts := { s.fonts with
        slot := .present, catalog := catalogOf fonts, catalogTimer := none
        wants := s.fonts.wants.map fun w =>
          if w.state = .unavailable ∧ (catalogOf fonts).any (fun c => c.font == w.font) then w.freshAgain else w } } := by
      show execCatalogRead fonts s = _
      simp only [execCatalogRead, State.mapFonts, if_pos reading]
    obtain ⟨sub, once, ranges⟩ := listedFonts_spec fonts
    refine ⟨_, run, rfl, rfl, List.length_take_le .., once.sublist ((List.take_sublist ..).map _),
      (List.take_sublist ..).trans sub, fun c mem => ranges c (List.mem_of_mem_take mem), ?_, ?_, rfl, rfl, rfl, rfl, rfl⟩
    · rintro before c behind rfl low high few many new
      exact mem_catalogOf ⟨low, high, few, many⟩ new
    · refine List.map_congr_left fun w _ => ?_
      have listed : (catalogOf fonts).any (fun c => c.font == w.font) = true ↔
          w.font ∈ (catalogOf fonts).map CatalogEntry.font := by
        simp only [List.any_eq_true, beq_iff_eq, List.mem_map]
      by_cases fresh : w.state = .unavailable ∧ w.font ∈ (catalogOf fonts).map CatalogEntry.font
      · rw [if_pos ⟨fresh.1, listed.mpr fresh.2⟩, if_pos fresh]
        rfl
      · rw [if_neg fun both => fresh ⟨both.1, listed.mp both.2⟩, if_neg fresh]

/-! ## The cartridge removed (R101, R110) -/

/-- A directory entry when the attempt for a font has ended (R101). -/
def DirEntry.endedFor (font : Nat) (e : DirEntry) : DirEntry :=
  if e.font = font ∧ e.state = .loading then DirEntry.unused
  else if e.font = font ∧ e.state = .metrics then { e with blocks := e.blocks.take 2, present := 2 }
  else e

theorem FontStore.endAttempt_eq (fs : FontStore) (font : Nat) :
    (fs.endAttempt font).directory = fs.directory.map (DirEntry.endedFor font) := rfl

/-- A RESIDENT entry outlasts any attempt that ends. -/
theorem FontStore.entry_endAttempt {e : DirEntry} {other : Nat} (found : fs.entry font = some e)
    (resident : e.state = .resident) : (fs.endAttempt other).entry font = some e := by
  obtain ⟨held, before, behind, split, others⟩ := List.find?_eq_some_iff_append.mp found
  have kept : e.endedFor other = e := by simp [DirEntry.endedFor, resident]
  refine List.find?_eq_some_iff_append.mpr
    ⟨held, before.map (DirEntry.endedFor other), behind.map (DirEntry.endedFor other), ?_, ?_⟩
  · rw [FontStore.endAttempt_eq, split, List.map_append, List.map_cons, kept]
  · intro a mem
    obtain ⟨x, member, rfl⟩ := List.mem_map.mp mem
    have other := others x member
    unfold DirEntry.endedFor
    split
    · rfl
    split <;> exact other

theorem Want.restarted_state (w : Want) : w.restarted.state ≠ .deferred := by
  unfold Want.restarted
  split
  · exact show WantState.waiting ≠ .deferred by decide
  · assumption

theorem cartridgeRemoved : Claims.CartridgeRemoved := by
  intro s
  have run : exec .cartridgeRemoval s = .next (s.mapFonts fun fs =>
      match fs.slot with
      | .empty => fs
      | .reading => { fs with slot := .empty, catalogTimer := none }
      | .present => FontStore.abandonCartridge { fs with slot := .empty, catalog := [] }) := rfl
  refine ⟨fun empty => ?_, fun reading => ?_, fun present => ?_⟩
  · rw [run]
    simp only [State.mapFonts, empty]
  · rw [run]
    simp only [State.mapFonts, reading]
  · simp only [State.mapFonts, present] at run
    by_cases loading : s.fonts.inbound.mode = .cartLoad
    · have ended : FontStore.abandonCartridge { s.fonts with slot := .empty, catalog := [] } =
          { (FontStore.endAttempt { s.fonts with slot := .empty, catalog := [] } s.fonts.inbound.font).updateWant
              s.fonts.inbound.font Want.waitingAgain with
            inbound := Inbound.rest } := if_pos loading
      rw [ended] at run
      refine ⟨_, run, rfl, rfl, fun notLoading => absurd loading notLoading, fun _ => ⟨rfl, fun w wanted state => ?_, ?_, ?_⟩,
        fun font e found resident => ?_, rfl, rfl, rfl, rfl, rfl⟩
      · show (FontStore.updateWant (FontStore.endAttempt _ _) _ _).want _ = _
        rw [FontStore.want_updateWant, FontStore.endAttempt_want (fs := { s.fonts with slot := .empty, catalog := [] }) wanted,
          Want.restarted_of_ne (by rw [state]; nofun)]
        rfl
      · intro w mem
        obtain ⟨x, there, rfl⟩ := List.mem_map.mp mem
        obtain ⟨y, -, rfl⟩ : ∃ y ∈ s.fonts.wants, y.restarted = x := List.mem_map.mp there
        by_cases own : y.restarted.font = s.fonts.inbound.font
        · rw [if_pos own]
          exact show WantState.waiting ≠ .deferred by decide
        · rw [if_neg own]
          exact y.restarted_state
      · intro i e at'
        have after : ((s.fonts.directory.map (DirEntry.endedFor s.fonts.inbound.font))[i]?) =
            some (e.endedFor s.fonts.inbound.font) := by
          rw [List.getElem?_map, at']
          rfl
        refine ⟨fun own state => ?_, fun own state => ?_, fun spared => ?_⟩
        · show ((s.fonts.directory.map (DirEntry.endedFor s.fonts.inbound.font))[i]?).map _ = _
          rw [after, DirEntry.endedFor, if_pos ⟨own, state⟩]
          rfl
        · show (s.fonts.directory.map (DirEntry.endedFor s.fonts.inbound.font))[i]? = _
          rw [after, DirEntry.endedFor, if_neg (by rw [state]; nofun), if_pos ⟨own, state⟩]
        · show (s.fonts.directory.map (DirEntry.endedFor s.fonts.inbound.font))[i]? = _
          rw [after, DirEntry.endedFor, if_neg (by tauto), if_neg (by tauto)]
      · exact FontStore.entry_endAttempt (fs := { s.fonts with slot := .empty, catalog := [] }) found resident
    · have kept : FontStore.abandonCartridge { s.fonts with slot := .empty, catalog := [] } =
          { s.fonts with slot := .empty, catalog := [] } := if_neg loading
      rw [kept] at run
      exact ⟨_, run, rfl, rfl, fun _ => ⟨rfl, rfl, rfl⟩, fun isLoading => absurd isLoading loading, fun _ _ found _ => found,
        rfl, rfl, rfl, rfl, rfl⟩

/-- Settles O40. -/
theorem cartridgeInAndOut : Obligations.CartridgeInAndOut := ⟨catalogTaken, cartridgeRemoved⟩

end Sys2Proof.Machine
end

section
/-! The proofs of the block store (R94, R100, R111, R118): a block reads back, and a block of a load is stored at its place. -/

namespace Sys2Proof.Machine

variable {s t : State} {fs : FontStore} {font : Nat}

/-! ## Reading behind a write (R94) -/

theorem Memory.read_append_left {m n : Memory} {x : Nat} (absent : ∀ c ∈ n, c.1 ≠ x) :
    Memory.read (m ++ n) x = Memory.read m x := by
  have none : n.find? (fun c => c.1 = x) = none := List.find?_eq_none.mpr fun c mem => by simpa using absent c mem
  unfold Memory.read
  rw [List.find?_append, none, Option.or_none]

theorem Memory.read_append_right {m n : Memory} {x : Nat} (absent : ∀ c ∈ m, c.1 ≠ x) :
    Memory.read (m ++ n) x = Memory.read n x := by
  have none : m.find? (fun c => c.1 = x) = none := List.find?_eq_none.mpr fun c mem => by simpa using absent c mem
  unfold Memory.read
  rw [List.find?_append, none, Option.none_or]

theorem Memory.read_filter {m : Memory} {x : Nat} {p : Host.Cell → Bool} (passes : ∀ c : Host.Cell, c.1 = x → p c = true) :
    Memory.read (m.filter p) x = Memory.read m x := by
  have same : (fun c : Host.Cell => decide (p c = true ∧ decide (c.1 = x) = true)) = fun c => decide (c.1 = x) := by
    funext c
    by_cases here : c.1 = x
    · simp [here, passes c here]
    · simp [here]
  unfold Memory.read
  rw [List.find?_filter, same]

theorem Memory.read_cellsFrom (data : List Byte) (a i : Nat) : Memory.read (cellsFrom a data) (a + i) = data.getD i 0 := by
  induction data generalizing a i with
  | nil => rfl
  | cons b rest ih =>
    unfold cellsFrom
    have later : ∀ c ∈ cellsFrom (a + 1) rest, c.1 ≠ a := fun c mem => by
      have := ((cellsFrom_spec rest (a + 1)).2 c mem).1
      omega
    cases i with
    | zero =>
      split
      case isTrue zero =>
        rw [← List.append_nil (cellsFrom (a + 1) rest), ← List.nil_append (cellsFrom (a + 1) rest),
          List.append_assoc, Memory.read_append_left (by simpa using later), zero]
        rfl
      case isFalse => simp [Memory.read]
    | succ i =>
      have shifted : a + (i + 1) = a + 1 + i := by omega
      split
      · rw [shifted, ih]
        rfl
      · rw [← List.singleton_append, Memory.read_append_right (by simp), shifted, ih]
        rfl

theorem blockReadsBack : Claims.BlockReadsBack := by
  intro m block data _ long
  have cells := (cellsFrom_spec (data.take 256) (256 * block)).2
  have whole : data.take 256 = data := List.take_of_length_le long.le
  rw [whole, long] at cells
  have written : m.writeBlock block data =
      m.filter (fun c => c.1 < 256 * block) ++ cellsFrom (256 * block) data ++
        m.filter (fun c => 256 * (block + 1) ≤ c.1) := by
    unfold Memory.writeBlock
    rw [show Config.blockBytes = 256 from rfl, whole]
  have below : ∀ c ∈ m.filter (fun c => c.1 < 256 * block), c.1 < 256 * block := fun c mem => by
    simpa using (List.mem_filter.mp mem).2
  have above : ∀ c ∈ m.filter (fun c => 256 * (block + 1) ≤ c.1), 256 * (block + 1) ≤ c.1 := fun c mem => by
    simpa using (List.mem_filter.mp mem).2
  refine ⟨List.ext_getElem (by simp [Memory.readBlock, long, Config.blockBytes]) fun i inBlock inData => ?_, fun a other => ?_⟩
  · have small : i < 256 := long ▸ inData
    have byte : Memory.read (m.writeBlock block data) (256 * block + i) = data.getD i 0 := by
      rw [written, Memory.read_append_left fun c mem => by have := above c mem; omega,
        Memory.read_append_right fun c mem => by have := below c mem; omega, Memory.read_cellsFrom]
    simp only [Memory.readBlock, List.getElem_map, List.getElem_range]
    rw [show Config.blockBytes = 256 from rfl, byte]
    simp [List.getD_eq_getElem?_getD, inData]
  · rw [written]
    rcases other with low | high
    · rw [Memory.read_append_left fun c mem => by have := above c mem; omega,
        Memory.read_append_left fun c mem => by have := cells c mem; omega,
        Memory.read_filter fun c here => by simpa [here] using low]
    · rw [List.append_assoc, Memory.read_append_right fun c mem => by have := below c mem; omega,
        Memory.read_append_right fun c mem => by have := cells c mem; omega,
        Memory.read_filter fun c here => by simpa [here] using high]

/-! ## A block stored (R100) -/

/-- A directory entry with one block more (R100). -/
def DirEntry.stored (memory : Memory) (e : DirEntry) : DirEntry :=
  { e with
    present := e.present + 1
    metrics :=
      if e.present + 1 = 2 ∧ e.metrics.isNone then some (readMetrics (Memory.readBlock memory (e.blocks.getD 0 0)))
      else e.metrics
    state := if e.present + 1 = e.total then .resident else if e.present + 1 = 2 then .metrics else e.state }

theorem FontStore.storeBlock_spec {e : DirEntry} (found : fs.entry font = some e) (data : List Byte) :
    ∃ memory directory, memory = Memory.writeBlock fs.memory (e.blocks.getD e.present 0) data ∧
      fs.storeBlock font data = { fs with memory := memory, directory := directory } ∧
      (fs.storeBlock font data).entry font = some (e.stored memory) := by
  obtain ⟨-, held, same⟩ := FontStore.entry_spec found
  set memory := Memory.writeBlock fs.memory (e.blocks.getD e.present 0) data with hm
  have stored : fs.storeBlock font data = FontStore.updateEntry { fs with memory := memory } font fun x =>
      { x with
        present := (e.stored memory).present, metrics := (e.stored memory).metrics, state := (e.stored memory).state } := by
    unfold FontStore.storeBlock
    rw [found]
    rfl
  have state : (e.stored memory).state ≠ .free := by
    unfold DirEntry.stored
    dsimp only
    split
    · nofun
    split
    · nofun
    · exact held
  refine ⟨memory, _, rfl, stored, ?_⟩
  rw [stored, FontStore.entry_map (a := { fs with memory := memory }) (f := fun x =>
    if x.state ≠ .free ∧ x.font = font then
      { x with
        present := (e.stored memory).present, metrics := (e.stored memory).metrics, state := (e.stored memory).state }
    else x) rfl]
  · show (fs.entry font).map _ = _
    rw [found, Option.map_some, if_pos ⟨held, same⟩]
    rfl
  · intro x
    by_cases own : x.state ≠ .free ∧ x.font = font
    · rw [if_pos own]
      exact ⟨fun _ => own, fun _ => ⟨state, own.2⟩⟩
    · rw [if_neg own]

/-! ## The font's coming (R100, R108) -/

@[simp] theorem State.finishGalley_fonts (s : State) (id : GalleyId) : (s.finishGalley id).fonts = s.fonts := by
  show (s.report id .done 0).fonts = _
  rw [State.report_alone]

@[simp] theorem State.enterDraining_fonts (s : State) (id : GalleyId) : (s.enterDraining id).fonts = s.fonts := by
  unfold State.enterDraining
  dsimp only
  split
  · rfl
  · rw [State.finishGalley_fonts]
    rfl

@[simp] theorem State.report_fonts (s : State) (id : GalleyId) (event : ReportEvent) (reason : Nat) :
    (s.report id event reason).fonts = s.fonts := by
  rw [State.report_alone]

@[simp] theorem State.resume_fonts (s : State) (id : GalleyId) : (s.resume id).fonts = s.fonts := by
  unfold State.resume
  split
  · rfl
  split
  · dsimp only
    split
    · rw [State.enterDraining_fonts, State.report_fonts]
    · split
      · exact State.report_fonts s id .resumed 0
      · exact State.report_fonts s id .resumed 0
  · rfl

@[simp] theorem State.resumeAll_fonts (s : State) (p : Suspension → Bool) : (s.resumeAll p).fonts = s.fonts := by
  unfold State.resumeAll
  generalize s.suspendedFor p = ids
  induction ids generalizing s with
  | nil => rfl
  | cons id ids ih => rw [List.foldl_cons, ih, State.resume_fonts]

/-- The composer when a font has come (R42, R47). -/
def State.composerServed (s : State) (font : Nat) : State :=
  if (s.composer.state = .waitFont ∨ s.composer.state = .held) ∧ s.composer.awaited = some font then
    s.mapComposer fun c => { c with state := .running, awaited := none }
  else s

theorem State.fontArrived_eq (s : State) (font : Nat) : s.fontArrived font =
    (s.composerServed font).resumeAll ((s.composerServed font).fonts.clears font) := rfl

theorem State.composerServed_kept (s : State) (font : Nat) :
    State.MachineryKept s (s.composerServed font) ∧ (s.composerServed font).queue = s.queue ∧
      (s.composerServed font).fonts = s.fonts := by
  unfold State.composerServed
  split
  · exact ⟨s.mapComposer_kept _, rfl, rfl⟩
  · exact ⟨.refl s, rfl, rfl⟩

theorem State.fontArrived_spec (s : State) (font : Nat) :
    State.MachineryKept s (s.fontArrived font) ∧ (s.fontArrived font).queue = s.queue ∧
      (s.fontArrived font).fonts = s.fonts := by
  obtain ⟨kept, queue, fonts⟩ := s.composerServed_kept font
  rw [State.fontArrived_eq]
  exact ⟨kept.trans (State.resumeAll_kept _ _), (State.resumeAll_queue ..).trans queue,
    (State.resumeAll_fonts ..).trans fonts⟩

/-- No composer waits on the font. -/
def Composer.WaitsNotOn (font : Nat) (c : Composer) : Prop := ¬(c.state = .waitFont ∧ c.awaited = some font)

theorem State.resume_waitsNotOn (id : GalleyId) (h : s.composer.WaitsNotOn font) :
    (s.resume id).composer.WaitsNotOn font := by
  have reported (s : State) : (s.report id .resumed 0).composer = s.composer := by rw [State.report_alone]
  have finished (s : State) : (s.finishGalley id).composer = s.composer := by
    show (s.report id .done 0).composer = _
    rw [State.report_alone]
  have drained (s : State) : (s.enterDraining id).composer = s.composer := by
    unfold State.enterDraining
    dsimp only
    split
    · rfl
    · rw [finished]
      rfl
  unfold State.resume
  split
  · exact h
  split
  · dsimp only
    split
    · rw [drained, reported]
      exact h
    · split
      · rintro ⟨waits, -⟩
        cases waits
      · rw [State.mapGalleys_composer, reported]
        exact h
  · exact h

theorem State.fontArrived_waitsNotOn (s : State) (font : Nat) : (s.fontArrived font).composer.WaitsNotOn font := by
  rw [State.fontArrived_eq]
  have served : (s.composerServed font).composer.WaitsNotOn font := by
    unfold State.composerServed
    split
    case isTrue =>
      rintro ⟨waits, -⟩
      cases waits
    case isFalse not => exact fun ⟨waits, awaited⟩ => not ⟨.inl waits, awaited⟩
  unfold State.resumeAll
  generalize (s.composerServed font).suspendedFor _ = ids
  generalize s.composerServed font = u at served
  induction ids generalizing u with
  | nil => exact served
  | cons id ids ih => exact ih _ (State.resume_waitsNotOn id served)

/-- The font has come: nobody is blocked on it, it is not wanted, and the inbound channel is at rest. -/
structure State.Served (font : Nat) (s : State) : Prop where
  unwanted : s.fonts.want font = none
  inbound : s.fonts.inbound = Inbound.rest
  resident : s.fonts.isResident font = true
  composer : s.composer.WaitsNotOn font

theorem State.Served.not_blocked (h : s.Served font) (party : Party) : s.blockedOn party font = false := by
  unfold State.blockedOn
  cases party with
  | composer =>
    by_contra blocked
    simp only [Bool.not_eq_false, Bool.and_eq_true, beq_iff_eq] at blocked
    exact h.composer blocked
  | exposure =>
    dsimp only
    split
    · simp [h.resident]
    · rfl

theorem State.Served.of_examined (h : s.Served font) (k : State.Examined s t) (unwanted : t.fonts.want font = none)
    (inbound : t.fonts.inbound = Inbound.rest) : t.Served font :=
  ⟨unwanted, inbound, (FontStore.isResident_eq k.directory font).trans h.resident, k.composer ▸ h.composer⟩

theorem FontStore.want_removeWant_of_none {other : Nat} (absent : fs.want font = none) :
    (fs.removeWant other).want font = none :=
  List.find?_eq_none.mpr fun w mem => List.find?_eq_none.mp absent w (List.mem_of_mem_filter mem)

theorem State.dropWant_inbound (w : Want) (rest : s.fonts.inbound = Inbound.rest) :
    (s.dropWant w).fonts.inbound = Inbound.rest := by
  unfold State.dropWant
  dsimp only
  split
  · show s.fonts.inbound.unasked = _
    rw [rest]
    rfl
  · exact rest

theorem State.Served.demandOnce (h : s.Served font) (party : Party) {other : Nat} (ne : font ≠ other) :
    (s.demandOnce party other).Served font := by
  refine h.of_examined (s.demandOnce_examined party other) ?_ ?_
  all_goals unfold State.demandOnce
  · split
    · dsimp only
      have updated : (s.fonts.updateWant other Want.demanded).want font = none := by
        rw [FontStore.want_updateWant_of_ne ne, h.unwanted]
      split
      · rw [State.suspendForFont_fonts]
        exact updated
      · exact updated
    have added (fs : FontStore) (absent : fs.want font = none) : (fs.addWant other true).want font = none := by
      rw [FontStore.addWant, FontStore.want_append, absent, Option.none_or, if_neg (Ne.symm ne)]
    split
    · exact added _ h.unwanted
    split
    · refine added _ ?_
      unfold FontStore.want
      rw [State.dropWant_wants]
      exact FontStore.want_removeWant_of_none h.unwanted
    split
    · exact h.unwanted
    · exact h.unwanted
  · split
    · dsimp only
      split
      · rw [State.suspendForFont_fonts]
        exact h.inbound
      · exact h.inbound
    split
    · exact h.inbound
    split
    · exact State.dropWant_inbound _ h.inbound
    split
    · exact h.inbound
    · exact h.inbound

theorem State.Served.demandAgain (h : s.Served font) (d : Party × Nat) : (s.demandAgain d).Served font := by
  unfold State.demandAgain
  dsimp only
  split
  · exact ⟨h.unwanted, h.inbound, h.resident, h.composer⟩
  case isFalse blocked =>
    have ne : font ≠ d.2 := by
      rintro rfl
      exact blocked (.inl (h.not_blocked d.1))
    have raised := h.demandOnce d.1 ne
    split
    · exact ⟨raised.unwanted, raised.inbound, raised.resident, raised.composer⟩
    · exact raised

theorem State.Served.wantRemoved (h : s.Served font) : s.wantRemoved.Served font := by
  unfold State.wantRemoved
  generalize s.fonts.refused = refused
  induction refused generalizing s with
  | nil => exact h
  | cons d rest ih => exact ih (h.demandAgain d)

theorem FontStore.want_removeWant_self (fs : FontStore) (font : Nat) : (fs.removeWant font).want font = none :=
  List.find?_eq_none.mpr fun w mem => by simpa using (List.mem_filter.mp mem).2

/-! ## A block of a load (R100, R111, R118) -/

/-- What a stored block does to the font's entry, its want entry, and the channel (R100). -/
theorem State.blockStored_spec {e : DirEntry} (found : s.fonts.entry font = some e) (data : List Byte) :
    ∃ e', (s.blockStored font data).fonts.memory = Memory.writeBlock s.fonts.memory (e.blocks.getD e.present 0) data ∧
      (s.blockStored font data).fonts.entry font = some e' ∧ e'.present = e.present + 1 ∧ e'.blocks = e.blocks ∧
      e'.total = e.total ∧ e'.lendable = e.lendable ∧
      e'.state = (if e.present + 1 = e.total then .resident else if e.present + 1 = 2 then .metrics else e.state) ∧
      (e'.state = .resident →
        (s.blockStored font data).fonts.want font = none ∧ (s.blockStored font data).fonts.inbound = Inbound.rest) ∧
      (e'.state ≠ .resident → (s.blockStored font data).fonts.inbound = s.fonts.inbound) ∧
      (s.blockStored font data).queue = s.queue ∧
      ((s.blockStored font data).galleys.table.map Galley.id).Sublist (s.galleys.table.map Galley.id) ∧
      (s.blockStored font data).imaging = s.imaging ∧ (s.blockStored font data).transport = s.transport ∧
      (s.blockStored font data).proofer = s.proofer ∧ (s.blockStored font data).hyphenation = s.hyphenation := by
  obtain ⟨memory, directory, hm, stored, entry⟩ := FontStore.storeBlock_spec found data
  refine ⟨e.stored memory, ?_⟩
  have run : s.blockStored font data =
      if (e.stored memory).state = .resident then
        State.wantRemoved (State.fontArrived (s.mapFonts fun fs =>
          { (fs.storeBlock font data).removeWant font with inbound := Inbound.rest }) font)
      else if (e.stored memory).present = 2 then State.fontArrived (s.mapFonts fun fs => fs.storeBlock font data) font
      else s.mapFonts fun fs => fs.storeBlock font data := by
    unfold State.blockStored
    dsimp only [State.mapFonts]
    rw [entry]
  rw [run]
  by_cases last : (e.stored memory).state = .resident
  · rw [if_pos last]
    set u := s.mapFonts fun fs => { (fs.storeBlock font data).removeWant font with inbound := Inbound.rest } with hu
    obtain ⟨kept, queue, fonts⟩ := u.fontArrived_spec font
    have demands := (u.fontArrived font).wantRemoved_demandKept
    have examined := (u.fontArrived font).wantRemoved_examined
    have entered : u.fonts.entry font = some (e.stored memory) := entry
    have served : (u.fontArrived font).wantRemoved.Served font := by
      refine State.Served.wantRemoved ⟨?_, ?_, ?_, u.fontArrived_waitsNotOn font⟩
      all_goals rw [fonts]
      · exact FontStore.want_removeWant_self _ font
      · rfl
      · exact FontStore.isResident_of_entry entered last
    refine ⟨?_, ?_, rfl, rfl, rfl, rfl, rfl, fun _ => ⟨served.unwanted, served.inbound⟩, fun not => absurd last not, ?_,
      demands.held.trans kept.held, ?_, ?_, ?_, ?_⟩
    · rw [demands.memory, fonts, hu]
      show (s.fonts.storeBlock font data).memory = _
      rw [stored, hm]
    · have same : (u.fontArrived font).wantRemoved.fonts.directory = u.fonts.directory := by rw [examined.directory, fonts]
      unfold FontStore.entry at *
      rw [same, entered]
    · exact examined.queue.trans queue
    · exact demands.imaging.trans kept.imaging
    · exact demands.transport.trans kept.transport
    · exact demands.proofer.trans kept.proofer
    · exact demands.hyphenation.trans kept.hyphenation
  · have kept' : (s.mapFonts fun fs => fs.storeBlock font data).fonts.inbound = s.fonts.inbound := by
      show (s.fonts.storeBlock font data).inbound = _
      rw [stored]
    have memory' : (s.mapFonts fun fs => fs.storeBlock font data).fonts.memory =
        Memory.writeBlock s.fonts.memory (e.blocks.getD e.present 0) data := by
      show (s.fonts.storeBlock font data).memory = _
      rw [stored, hm]
    rw [if_neg last]
    split
    · set u := s.mapFonts fun fs => fs.storeBlock font data
      obtain ⟨kept, queue, fonts⟩ := u.fontArrived_spec font
      rw [fonts]
      exact ⟨memory', entry, rfl, rfl, rfl, rfl, rfl, fun resident => absurd resident last, fun _ => kept', queue,
        kept.held, kept.imaging, kept.transport, kept.proofer, kept.hyphenation⟩
    · exact ⟨memory', entry, rfl, rfl, rfl, rfl, rfl, fun resident => absurd resident last, fun _ => kept', rfl,
        .refl _, rfl, rfl, rfl, rfl⟩

theorem blockLoaded : Claims.BlockLoaded := by
  intro i data e s found source
  have stored {u : State} (run : exec i s = .next (u.blockStored s.fonts.inbound.font data))
      (entry : u.fonts.entry s.fonts.inbound.font = some e) (memory : u.fonts.memory = s.fonts.memory)
      (next : u.fonts.inbound.next = s.fonts.inbound.next + 1) (mode : u.fonts.inbound.mode = s.fonts.inbound.mode)
      (rest : u.queue = s.queue ∧ u.galleys = s.galleys ∧ u.imaging = s.imaging ∧ u.transport = s.transport ∧
        u.proofer = s.proofer ∧ u.hyphenation = s.hyphenation) :
      ∃ t e', exec i s = .next t ∧
        t.fonts.memory = Memory.writeBlock s.fonts.memory (e.blocks.getD e.present 0) data ∧
        t.fonts.entry s.fonts.inbound.font = some e' ∧ e'.present = e.present + 1 ∧ e'.blocks = e.blocks ∧
        e'.total = e.total ∧ e'.lendable = e.lendable ∧
        e'.state = (if e.present + 1 = e.total then .resident else if e.present + 1 = 2 then .metrics else e.state) ∧
        (e'.state = .resident → t.fonts.want s.fonts.inbound.font = none ∧ t.fonts.inbound = Inbound.rest) ∧
        (e'.state ≠ .resident →
          t.fonts.inbound.next = s.fonts.inbound.next + 1 ∧ t.fonts.inbound.mode = s.fonts.inbound.mode) ∧
        t.queue = s.queue ∧ (t.galleys.table.map Galley.id).Sublist (s.galleys.table.map Galley.id) ∧
        t.imaging = s.imaging ∧ t.transport = s.transport ∧ t.proofer = s.proofer ∧ t.hyphenation = s.hyphenation := by
    obtain ⟨queue, galleys, imaging, transport, proofer, hyphenation⟩ := rest
    obtain ⟨e', memory', entry', present, blocks, total, lendable, state, resident, waits, queue', held, imaging', transport',
      proofer', hyphenation'⟩ := State.blockStored_spec entry data
    refine ⟨_, e', run, memory ▸ memory', entry', present, blocks, total, lendable, state, resident, fun not => ?_,
      queue'.trans queue, galleys ▸ held, imaging'.trans imaging, transport'.trans transport, proofer'.trans proofer,
      hyphenation'.trans hyphenation⟩
    rw [waits not]
    exact ⟨next, mode⟩
  rcases source with ⟨rfl, loading⟩ | ⟨h, rfl, loading, heard, lender⟩
  · exact stored (u := s.mapInbound fun i => { i with next := i.next + 1, read := some Config.cartridgeRead })
      (if_pos loading) found rfl rfl rfl ⟨rfl, rfl, rfl, rfl, rfl, rfl⟩
  · refine stored (u := s.frameEnded.mapInbound fun i => { i with next := i.next + 1, stall := some Config.stallTimer })
      ?_ found rfl rfl rfl ⟨rfl, rfl, rfl, rfl, rfl, rfl⟩
    rw [exec_fontBlock_of_hears heard loading lender]
    have notBelow : ¬s.fonts.inbound.next < s.fonts.inbound.next := lt_irrefl _
    exact congrArg _ ((if_neg notBelow).trans (if_pos rfl))

/-- Settles O36. -/
theorem blockStored : Obligations.BlockStored := ⟨blockReadsBack, blockLoaded⟩

end Sys2Proof.Machine
end

section
/-! SUPPORT for the proofs below. What settling leaves of the galleys and, where the composer has no record on its hands, of the
queue: galleys end, records leave and take marks of walks they do not need, and nothing else happens. -/

namespace Sys2Proof.Machine

variable {s t u : State}

/-! ## The galleys and their counts of lines -/

/-- From `a` to `b` galleys have gone, and the counts of lines exposed and proofed of the others are as they were. -/
def GalleyUnit.Carried (a b : GalleyUnit) : Prop :=
  ∃ keep : GalleyId → Bool, b.table.map Galley.tally = (a.table.map Galley.tally).filter fun k => keep k.1

variable {a b c : GalleyUnit}

theorem GalleyUnit.Carried.of_tallies (same : b.table.map Galley.tally = a.table.map Galley.tally) : a.Carried b :=
  ⟨fun _ => true, by rw [same, List.filter_eq_self.mpr fun _ _ => rfl]⟩

theorem GalleyUnit.Carried.refl (a : GalleyUnit) : a.Carried a := .of_tallies rfl

theorem GalleyUnit.Carried.trans (h : a.Carried b) (k : b.Carried c) : a.Carried c := by
  obtain ⟨keep, same⟩ := h
  obtain ⟨keep', same'⟩ := k
  refine ⟨fun id => keep id && keep' id, ?_⟩
  rw [same', same, List.filter_filter]
  congr 1
  funext k
  exact Bool.and_comm ..

theorem GalleyUnit.Carried.update (gu : GalleyUnit) (id : GalleyId) {f : Galley → Galley}
    (keeps : ∀ g, (f g).tally = g.tally) : gu.Carried (gu.update id f) :=
  .of_tallies (gu.update_tallies id keeps)

/-- Of the galleys held behind, each was held before with its counts. -/
theorem GalleyUnit.Carried.exists_mem (h : a.Carried b) {g' : Galley} (mem : g' ∈ b.table) :
    ∃ g ∈ a.table, g.tally = g'.tally := by
  obtain ⟨keep, same⟩ := h
  have there : g'.tally ∈ b.table.map Galley.tally := List.mem_map_of_mem mem
  rw [same] at there
  exact List.mem_map.mp (List.mem_of_mem_filter there)

/-- A lookup by id reads nothing else of a record than its id. -/
theorem GalleyUnit.find_tally (gu : GalleyUnit) (id : GalleyId) :
    (gu.find id).map Galley.tally = (gu.table.map Galley.tally).find? fun k => k.1 = id := by
  rw [List.find?_map]
  rfl

/-- A galley that is held behind was held before, with its counts. -/
theorem GalleyUnit.Carried.find (h : a.Carried b) {id : GalleyId} {g' : Galley} (held : b.find id = some g') :
    ∃ g, a.find id = some g ∧ g.tally = g'.tally := by
  obtain ⟨keep, same⟩ := h
  have there := b.find_tally id
  rw [held, Option.map_some, same, List.find?_filter] at there
  have kept : keep id = true := by
    have here := List.find?_some there.symm
    have id' : g'.tally.1 = id := GalleyUnit.find_id held
    simp only [decide_eq_true_eq] at here
    rw [← id']
    exact here.1
  have alike : (fun k : GalleyId × Nat × Nat => decide (keep k.1 = true ∧ decide (k.1 = id) = true)) =
      fun k => decide (k.1 = id) := by
    funext k
    by_cases own : k.1 = id
    · simp [own, kept]
    · simp [own]
  rw [alike, ← a.find_tally] at there
  exact Option.map_eq_some_iff.mp there.symm

/-- What settling does to the galley unit, and to the galley the composer is on: galleys end, and the composer may be released. -/
structure State.Carried (s t : State) : Prop where
  galleys : s.galleys.Carried t.galleys
  galley : t.composer.galley = s.composer.galley ∨ t.composer.galley = none

theorem State.Carried.of_same (galleys : t.galleys = s.galleys) (galley : t.composer.galley = s.composer.galley) :
    s.Carried t := ⟨by rw [galleys]; exact .refl _, .inl galley⟩

theorem State.Carried.refl (s : State) : s.Carried s := .of_same rfl rfl

theorem State.Carried.trans (h : s.Carried t) (k : t.Carried u) : s.Carried u :=
  ⟨h.galleys.trans k.galleys, k.galley.elim (fun same => h.galley.imp same.trans same.trans) .inr⟩

theorem State.Carried.updateGalley (s : State) (id : GalleyId) {f : Galley → Galley}
    (keeps : ∀ g, (f g).tally = g.tally) : State.Carried s (s.mapGalleys fun gu => gu.update id f) :=
  ⟨.update _ _ keeps, .inl rfl⟩

theorem State.Carried.mapComposer (s : State) {f : Composer → Composer} (same : (f s.composer).galley = s.composer.galley) :
    State.Carried s (s.mapComposer f) :=
  .of_same rfl same

theorem State.Carried.report (s : State) (id : GalleyId) (event : ReportEvent) (reason : Nat) :
    State.Carried s (s.report id event reason) :=
  .of_same (s.report_galleys id event reason) (by rw [State.report_alone])

theorem State.Carried.evaluateCredit (s : State) : State.Carried s s.evaluateCredit := by
  have same := congrArg (List.map Galley.tally) s.evaluateCredit_uncredited.1
  rw [List.map_map, List.map_map] at same
  exact ⟨.of_tallies same, .inl rfl⟩

theorem State.Carried.removeGalley (s : State) (id : GalleyId) : State.Carried s (s.removeGalley id) := by
  have removed : s.galleys.Carried { s.galleys with table := s.galleys.table.filter fun g => g.id ≠ id } :=
    ⟨fun i => i ≠ id, by rw [List.filter_map]; rfl⟩
  exact State.Carried.trans (t := s.mapGalleys fun gu => { gu with table := gu.table.filter fun g => g.id ≠ id })
    ⟨removed, .inl rfl⟩ (.evaluateCredit _)

theorem State.Carried.finishGalley (s : State) (id : GalleyId) : State.Carried s (s.finishGalley id) :=
  (State.Carried.report ..).trans (.removeGalley ..)

theorem State.Carried.enterDraining (s : State) (id : GalleyId) : State.Carried s (s.enterDraining id) := by
  have drained := (State.Carried.updateGalley s id (f := fun g =>
    { g with
      state := .draining, suspension := none, compositionEnded := true, segments := [], unitsRead := 0, granted := none })
    fun _ => rfl).trans (.evaluateCredit _)
  unfold State.enterDraining
  dsimp only
  split
  · exact drained
  · exact drained.trans (.finishGalley ..)

theorem State.Carried.releaseComposer (s : State) : State.Carried s s.releaseComposer := ⟨.refl _, .inr rfl⟩

theorem State.Carried.freeComposer (s : State) (id : GalleyId) : State.Carried s (s.freeComposer id) := by
  unfold State.freeComposer
  split
  · exact .releaseComposer s
  · exact .refl s

theorem State.Carried.checkDone (s : State) (id : GalleyId) : State.Carried s (s.checkDone id) := by
  unfold State.checkDone
  split
  · exact .refl s
  split
  · exact .refl s
  split
  · exact (State.Carried.freeComposer s id).trans (.finishGalley ..)
  · exact .refl s

theorem State.Carried.suspend (s : State) (id : GalleyId) (why : Suspension) : State.Carried s (s.suspend id why) := by
  unfold State.suspend
  split
  · exact .refl s
  split
  · dsimp only
    split
    · exact .updateGalley s id (f := fun g => { g with state := .suspended, suspension := some why }) fun _ => rfl
    · exact (State.Carried.updateGalley s id
        (f := fun g => { g with state := .suspended, suspension := some why }) fun _ => rfl).trans (.report ..)
  · exact .refl s

theorem Counters.appended_tally (c : Counters) (f : Flags) :
    (c.appended f).exposed = c.exposed ∧ (c.appended f).proofed = c.proofed := ⟨rfl, rfl⟩

theorem State.Carried.appendRecord (s : State) (r : SetLine) : State.Carried s (s.appendRecord r) := by
  have added : State.Carried s
      { s with
        queue := s.queue ++
          [{ line := r, exposed := false, proofed := false, attached := true, exposing := false, rasterizing := false }]
        galleys := s.galleys.update r.galley fun g => { g with counters := g.counters.appended r.flags }
        fonts := s.fonts.stampUse r.fonts } := ⟨.update _ _ fun _ => rfl, .inl rfl⟩
  unfold State.appendRecord
  dsimp only
  split
  · exact added.trans (.suspend ..)
  · exact added

theorem State.Carried.takeWaiting (s : State) : State.Carried s s.takeWaiting := by
  unfold State.takeWaiting
  split
  · split
    · exact (State.Carried.appendRecord s _).trans (.of_same rfl rfl)
    · exact .refl s
  · exact .refl s

theorem State.Carried.departure (left : s.departure = some t) : State.Carried s t := by
  have leave (q : List QueueRecord) : State.Carried s (State.takeWaiting (State.recount { s with queue := q })) :=
    State.Carried.trans (t := State.recount { s with queue := q }) (.of_same rfl rfl) (.takeWaiting _)
  unfold State.departure at left
  split at left
  · cases left
    exact leave _
  split at left
  · split at left
    · cases left
      exact (leave _).trans (.checkDone ..)
    · cases left
  · cases left

theorem State.Carried.finishComposition (s : State) (id : GalleyId) : State.Carried s (s.finishComposition id) := by
  unfold State.finishComposition
  dsimp only
  split
  · exact .releaseComposer s
  split
  · exact ((State.Carried.releaseComposer s).trans (.updateGalley _ _
      (f := fun g => { g with compositionEnded := true }) fun _ => rfl)).trans (.evaluateCredit _)
  · exact (State.Carried.releaseComposer s).trans (.enterDraining ..)

theorem State.Carried.askNext (s : State) : State.Carried s s.askNext := by
  unfold State.askNext
  split
  · exact .refl s
  split
  · exact State.Carried.trans
      (t := { s with
        composer := { s.composer with state := .waitText }
        galleys := { s.galleys with textTimer := some Config.textTimer } })
      ⟨.of_tallies rfl, .inl rfl⟩ (.evaluateCredit _)
  · exact .refl s

/-! ## The composer stays on its galley while it settles -/

theorem Composer.place_galley (c : Composer) (boxes : List Box) : (c.place boxes).galley = c.galley := rfl

theorem Composer.closeLine_galley (c : Composer) (g : Galley) (closing : Closing) :
    (c.closeLine g closing).1.galley = c.galley := rfl

theorem Composer.closeUnit_galley (c : Composer) (g : Galley) : (c.closeUnit g).galley = c.galley := rfl

theorem Composer.closePara_galley (c : Composer) (g : Galley) : (c.closePara g).galley = c.galley := rfl

theorem Composer.takeSpace_galley (c : Composer) (fs : FontStore) : (c.takeSpace fs).galley = c.galley := by
  unfold Composer.takeSpace
  split <;> rfl

theorem Composer.testWord_galley (c : Composer) (u : Hyphenation) (fs : FontStore) (g : Galley) :
    (c.testWord u fs g).galley = c.galley := by
  unfold Composer.testWord
  dsimp only
  split
  · rfl
  split
  · split <;> rfl
  split
  · rfl
  split <;> rfl

theorem State.Carried.perform (s : State) (g : Galley) (task : Task) (rest : List Task) :
    State.Carried s (s.perform g task rest) := by
  have taken : State.Carried s (s.mapComposer fun c => { c with todo := rest }) := .of_same rfl rfl
  unfold State.perform
  dsimp only
  cases task with
  | test => exact taken.trans (.mapComposer _ (Composer.testWord_galley ..))
  | offer r =>
    dsimp only
    split
    · exact taken.trans (.appendRecord ..)
    · exact taken.trans (.of_same rfl rfl)
  | space => exact taken.trans (.mapComposer _ (Composer.takeSpace_galley ..))
  | begin b substituted => exact taken.trans (.of_same rfl rfl)
  | close para =>
    refine taken.trans (.mapComposer _ ?_)
    split
    · exact Composer.closePara_galley ..
    · exact Composer.closeUnit_galley ..
  | closeLast =>
    refine taken.trans (.mapComposer _ ?_)
    split
    · rfl
    · exact Composer.closePara_galley ..
  | closeCut =>
    refine taken.trans (.mapComposer _ ?_)
    split
    · exact Composer.closeUnit_galley ..
    · rfl
  | finish => exact taken.trans (.finishComposition ..)
  | ask => exact taken.trans (.askNext _)

theorem State.Carried.composerTask (done : s.composerTask = some t) : State.Carried s t := by
  unfold State.composerTask at done
  split at done
  · cases done
    exact (State.Carried.perform ..).trans (.of_same rfl rfl)
  · cases done

theorem State.Carried.settleStep (done : s.settleStep = some t) : State.Carried s t := by
  have marked : State.Carried s s.markNotNeeded := .of_same rfl rfl
  unfold State.settleStep at done
  dsimp only at done
  split at done
  · rename_i left
    cases done
    exact marked.trans (.departure left)
  · exact marked.trans (.composerTask done)

theorem State.Carried.settleFor (fuel : Nat) (s : State) : State.Carried s (State.settleFor fuel s) := by
  induction fuel generalizing s with
  | zero => exact .of_same rfl rfl
  | succ fuel ih =>
    unfold State.settleFor
    split
    · exact (State.Carried.settleStep ‹_›).trans (ih _)
    · exact .of_same rfl rfl

theorem State.Carried.settle (s : State) : State.Carried s s.settle := .settleFor _ s

theorem State.Carried.examine (s : State) (old : Option (GalleyId × Nat)) : State.Carried s (s.examine old) :=
  ⟨.of_tallies (s.examine_examined old).tallies, .inl (by rw [State.examine_composer])⟩

/-- What an event leaves of the galleys behind its own effect. -/
theorem State.Carried.event (s : State) (f : State → State) : State.Carried (f s) (s.event f) :=
  (State.Carried.settle _).trans (.examine ..)

theorem State.Carried.dropRecords (s : State) (id : GalleyId) : State.Carried s (s.dropRecords id) := by
  have dropped : State.Carried s (State.recount { s with queue := removeRecords id s.queue }) := .of_same rfl rfl
  unfold State.dropRecords
  dsimp only
  split
  · exact dropped.trans (.takeWaiting _)
  · exact dropped

/-- An abort is the end of its galley, with the composer released from it (R19). -/
theorem State.Carried.abort (s : State) (id : GalleyId) (why : AbortReason) : State.Carried s (s.abort id why) := by
  unfold State.abort
  split
  · exact .refl s
  · exact ((State.Carried.freeComposer s id).trans (.dropRecords ..)).trans
      (State.Carried.trans (t := State.sendReport _ id .aborted why.code _) (.of_same rfl rfl) (.removeGalley ..))

theorem State.Carried.applyCancel (s : State) (id : GalleyId) : State.Carried s (s.applyCancel id) := by
  unfold State.applyCancel
  split
  · split
    · exact .abort ..
    · exact .refl s
  · exact .refl s

/-! ## The records of the queue -/

/-- The record `r` has become `r'`: it may have taken a mark, or have been detached. -/
structure QueueRecord.Raised (r r' : QueueRecord) : Prop where
  line : r'.line = r.line
  attached : r'.attached = true → r.attached = true
  exposed : r.exposed = true → r'.exposed = true
  proofed : r.proofed = true → r'.proofed = true
  exposing : r'.exposing = r.exposing
  rasterizing : r'.rasterizing = r.rasterizing

theorem QueueRecord.Raised.refl (r : QueueRecord) : r.Raised r := ⟨rfl, id, id, id, rfl, rfl⟩

theorem QueueRecord.Raised.trans {a b c : QueueRecord} (h : a.Raised b) (k : b.Raised c) : a.Raised c :=
  ⟨k.line.trans h.line, h.attached ∘ k.attached, k.exposed ∘ h.exposed, k.proofed ∘ h.proofed,
    k.exposing.trans h.exposing, k.rasterizing.trans h.rasterizing⟩

theorem QueueRecord.Raised.name {r r' : QueueRecord} (h : r.Raised r') : r'.name = r.name := by
  unfold QueueRecord.name
  rw [h.line]

/-- The composer has no record on its hands, and none to come. -/
def State.EmptyHanded (s : State) : Prop := s.composer.waiting = none ∧ s.composer.todo = []

/-- Each record of the queue behind stood there before, or has come from the composer's hands; from empty hands none comes. -/
structure State.QueueFrom (s t : State) : Prop where
  records : ∀ r' ∈ t.queue,
    (∃ r ∈ s.queue, r.Raised r') ∨ ¬ s.EmptyHanded ∧ r'.exposing = false ∧ r'.rasterizing = false
  hands : s.EmptyHanded → t.EmptyHanded

theorem State.QueueFrom.of_sublist (queue : t.queue.Sublist s.queue) (hands : s.EmptyHanded → t.EmptyHanded) :
    State.QueueFrom s t :=
  ⟨fun r mem => .inl ⟨r, queue.subset mem, .refl r⟩, hands⟩

theorem State.QueueFrom.of_same (queue : t.queue = s.queue) (composer : t.composer = s.composer) : State.QueueFrom s t :=
  .of_sublist (by rw [queue]) (by unfold State.EmptyHanded; rw [composer]; exact id)

theorem State.QueueFrom.refl (s : State) : State.QueueFrom s s := .of_same rfl rfl

theorem State.QueueFrom.trans (h : State.QueueFrom s t) (k : State.QueueFrom t u) : State.QueueFrom s u where
  records r'' mem := by
    obtain ⟨r', mem', raised'⟩ | ⟨hands, fresh⟩ := k.records r'' mem
    · obtain ⟨r, mem, raised⟩ | ⟨hands, exposing, rasterizing⟩ := h.records r' mem'
      · exact .inl ⟨r, mem, raised.trans raised'⟩
      · exact .inr ⟨hands, raised'.exposing.trans exposing, raised'.rasterizing.trans rasterizing⟩
    · exact .inr ⟨hands ∘ h.hands, fresh⟩
  hands := k.hands ∘ h.hands

theorem State.QueueFrom.raised (h : State.QueueFrom s t) (hands : s.EmptyHanded) {r' : QueueRecord} (mem : r' ∈ t.queue) :
    ∃ r ∈ s.queue, r.Raised r' :=
  (h.records r' mem).resolve_right fun fresh => fresh.1 hands

theorem mem_markExposure {queue : List QueueRecord} {r' : QueueRecord} (mem : r' ∈ markExposure queue) :
    ∃ r ∈ queue, r.Raised r' := by
  induction queue with
  | nil => exact absurd mem (List.not_mem_nil)
  | cons r rest ih =>
    have further (mem : r' ∈ markExposure rest) : ∃ x ∈ r :: rest, x.Raised r' :=
      (ih mem).imp fun _ => .imp_left (List.mem_cons_of_mem _)
    unfold markExposure at mem
    split at mem
    · split at mem
      · exact ⟨r', mem, .refl _⟩
      · obtain rfl | mem := List.mem_cons.mp mem
        · exact ⟨r, List.mem_cons_self, rfl, id, fun _ => rfl, id, rfl, rfl⟩
        · exact further mem
    · obtain rfl | mem := List.mem_cons.mp mem
      · exact ⟨_, List.mem_cons_self, .refl _⟩
      · exact further mem

theorem mem_markProof {queue : List QueueRecord} {r' : QueueRecord} (mem : r' ∈ markProof queue) :
    ∃ r ∈ queue, r.Raised r' := by
  induction queue with
  | nil => exact absurd mem (List.not_mem_nil)
  | cons r rest ih =>
    have further (mem : r' ∈ markProof rest) : ∃ x ∈ r :: rest, x.Raised r' :=
      (ih mem).imp fun _ => .imp_left (List.mem_cons_of_mem _)
    unfold markProof at mem
    split at mem
    · split at mem
      · exact ⟨r', mem, .refl _⟩
      · obtain rfl | mem := List.mem_cons.mp mem
        · exact ⟨r, List.mem_cons_self, rfl, id, id, fun _ => rfl, rfl, rfl⟩
        · exact further mem
    · obtain rfl | mem := List.mem_cons.mp mem
      · exact ⟨_, List.mem_cons_self, .refl _⟩
      · exact further mem

theorem State.QueueFrom.markNotNeeded (s : State) : State.QueueFrom s s.markNotNeeded where
  records r'' mem := by
    obtain ⟨r', mem', raised'⟩ := mem_markProof mem
    obtain ⟨r, mem, raised⟩ := mem_markExposure mem'
    exact .inl ⟨r, mem, raised.trans raised'⟩
  hands := id

theorem State.suspend_composer (s : State) (id : GalleyId) (why : Suspension) :
    (s.suspend id why).composer = s.composer := by
  rw [s.suspend_alone id why]

theorem State.appendRecord_queue (s : State) (r : SetLine) :
    (s.appendRecord r).queue = s.queue ++
      [{ line := r, exposed := false, proofed := false, attached := true, exposing := false, rasterizing := false }] := by
  unfold State.appendRecord
  dsimp only
  split
  · exact State.suspend_queue ..
  · rfl

theorem State.appendRecord_composer (s : State) (r : SetLine) : (s.appendRecord r).composer = s.composer := by
  unfold State.appendRecord
  dsimp only
  split
  · exact State.suspend_composer ..
  · rfl

/-- A record of the queue behind an append stood there before, or is the record appended. -/
theorem State.mem_appendRecord {r : SetLine} {r' : QueueRecord} (mem : r' ∈ (s.appendRecord r).queue) :
    r' ∈ s.queue ∨ r'.exposing = false ∧ r'.rasterizing = false := by
  rw [State.appendRecord_queue, List.mem_append, List.mem_singleton] at mem
  exact mem.imp_right fun fresh => by rw [fresh]; exact ⟨rfl, rfl⟩

theorem State.QueueFrom.takeWaiting (s : State) : State.QueueFrom s s.takeWaiting := by
  unfold State.takeWaiting
  split
  · rename_i r waiting
    split
    · have full : ¬ s.EmptyHanded := fun hands => absurd (waiting.symm.trans hands.1) nofun
      refine ⟨fun r' mem => ?_, fun hands => absurd hands full⟩
      exact (State.mem_appendRecord mem).imp (fun old => ⟨r', old, .refl _⟩) fun fresh => ⟨full, fresh⟩
    · exact .refl s
  · exact .refl s

theorem State.QueueFrom.releaseComposer (s : State) : State.QueueFrom s s.releaseComposer :=
  .of_sublist (.refl _) fun _ => ⟨rfl, rfl⟩

theorem State.QueueFrom.freeComposer (s : State) (id : GalleyId) : State.QueueFrom s (s.freeComposer id) := by
  unfold State.freeComposer
  split
  · exact .releaseComposer s
  · exact .refl s

theorem State.removeGalley_queue (s : State) (id : GalleyId) : (s.removeGalley id).queue = s.queue := rfl

theorem State.finishGalley_composer (s : State) (id : GalleyId) : (s.finishGalley id).composer = s.composer := by
  show (s.report id .done 0).composer = s.composer
  rw [State.report_alone]

theorem State.QueueFrom.checkDone (s : State) (id : GalleyId) : State.QueueFrom s (s.checkDone id) := by
  unfold State.checkDone
  split
  · exact .refl s
  split
  · exact .refl s
  split
  · exact (State.QueueFrom.freeComposer s id).trans (.of_same (State.finishGalley_queue ..) (State.finishGalley_composer ..))
  · exact .refl s

theorem State.QueueFrom.departure (left : s.departure = some t) : State.QueueFrom s t := by
  have leave {q : List QueueRecord} (fewer : q.Sublist s.queue) :
      State.QueueFrom s (State.takeWaiting (State.recount { s with queue := q })) :=
    State.QueueFrom.trans (t := State.recount { s with queue := q }) (.of_sublist fewer id) (.takeWaiting _)
  unfold State.departure at left
  split at left
  · cases left
    exact leave (List.eraseIdx_sublist ..)
  split at left
  · rename_i r rest queue
    split at left
    · cases left
      exact (leave (by rw [queue]; exact List.sublist_cons_self ..)).trans (.checkDone ..)
    · cases left
  · cases left

theorem State.finishComposition_queue (s : State) (id : GalleyId) : (s.finishComposition id).queue = s.queue := by
  unfold State.finishComposition
  dsimp only
  split
  · rfl
  split
  · rfl
  · exact State.enterDraining_queue ..

/-- A task of the composer adds to the queue no record but the one it offers. -/
theorem State.mem_perform {g : Galley} {task : Task} {rest : List Task} {r' : QueueRecord}
    (mem : r' ∈ (s.perform g task rest).queue) : r' ∈ s.queue ∨ r'.exposing = false ∧ r'.rasterizing = false := by
  unfold State.perform at mem
  dsimp only at mem
  cases task with
  | offer r =>
    dsimp only at mem
    split at mem
    · exact State.mem_appendRecord (s := s.mapComposer fun c => { c with todo := rest }) mem
    · exact .inl mem
  | finish =>
    dsimp only at mem
    rw [State.finishComposition_queue] at mem
    exact .inl mem
  | ask =>
    dsimp only at mem
    rw [State.askNext_queue] at mem
    exact .inl mem
  | test | space | begin | close | closeLast | closeCut => exact .inl mem

theorem State.QueueFrom.composerTask (done : s.composerTask = some t) : State.QueueFrom s t := by
  unfold State.composerTask at done
  split at done
  · rename_i todo _
    cases done
    have full : ¬ s.EmptyHanded := fun hands => absurd (todo.symm.trans hands.2) nofun
    refine ⟨fun r' mem => ?_, fun hands => absurd hands full⟩
    exact (State.mem_perform mem).imp (fun old => ⟨r', old, .refl _⟩) fun fresh => ⟨full, fresh⟩
  · cases done

theorem State.QueueFrom.settleStep (done : s.settleStep = some t) : State.QueueFrom s t := by
  unfold State.settleStep at done
  dsimp only at done
  split at done
  · rename_i left
    cases done
    exact (State.QueueFrom.markNotNeeded s).trans (.departure left)
  · exact (State.QueueFrom.markNotNeeded s).trans (.composerTask done)

theorem State.QueueFrom.settleFor (fuel : Nat) (s : State) : State.QueueFrom s (State.settleFor fuel s) := by
  induction fuel generalizing s with
  | zero => exact .markNotNeeded s
  | succ fuel ih =>
    unfold State.settleFor
    split
    · exact (State.QueueFrom.settleStep ‹_›).trans (ih _)
    · exact .markNotNeeded s

theorem State.QueueFrom.settle (s : State) : State.QueueFrom s s.settle := .settleFor _ s

/-- What an event leaves of the queue behind its own effect. -/
theorem State.QueueFrom.event (s : State) (f : State → State) : State.QueueFrom (f s) (s.event f) :=
  (State.QueueFrom.settle _).trans (.of_same (State.examine_queue ..) (State.examine_composer ..))

/-! ## The records of an aborted galley -/

theorem mem_removeRecords {id : GalleyId} {queue : List QueueRecord} {r' : QueueRecord} (mem : r' ∈ removeRecords id queue) :
    (∃ r ∈ queue, r.Raised r') ∧ (r'.attached = true → r'.line.galley ≠ id) := by
  obtain ⟨r, there, rfl⟩ := List.mem_map.mp (List.mem_of_mem_filter mem)
  clear mem
  by_cases own : r.attached = true ∧ r.line.galley = id
  · simp only [if_pos own]
    exact ⟨⟨r, there, rfl, nofun, fun h => h, fun h => h, rfl, rfl⟩, nofun⟩
  · simp only [if_neg own]
    exact ⟨⟨r, there, .refl r⟩, fun attached same => own ⟨attached, same⟩⟩

theorem State.QueueFrom.dropRecords (s : State) (id : GalleyId) : State.QueueFrom s (s.dropRecords id) := by
  have dropped : State.QueueFrom s (State.recount { s with queue := removeRecords id s.queue }) :=
    ⟨fun _ mem => .inl (mem_removeRecords mem).1, fun h => h⟩
  unfold State.dropRecords
  dsimp only
  split
  · exact dropped.trans (.takeWaiting _)
  · exact dropped

theorem State.QueueFrom.abort (s : State) (id : GalleyId) (why : AbortReason) : State.QueueFrom s (s.abort id why) := by
  unfold State.abort
  split
  · exact .refl s
  · exact ((State.QueueFrom.freeComposer s id).trans (.dropRecords ..)).trans (.of_same rfl rfl)

theorem State.QueueFrom.applyCancel (s : State) (id : GalleyId) : State.QueueFrom s (s.applyCancel id) := by
  unfold State.applyCancel
  split
  · split
    · exact .abort ..
    · exact .refl s
  · exact .refl s

theorem State.takeWaiting_of_emptyHanded (hands : s.EmptyHanded) : s.takeWaiting = s := by
  unfold State.takeWaiting
  rw [hands.1]

/-- From empty hands an abort leaves none of the galley's records attached (R90). -/
theorem State.abort_detaches {id : GalleyId} {g : Galley} {why : AbortReason} (held : s.galleys.find id = some g)
    (hands : s.EmptyHanded) {r' : QueueRecord} (mem : r' ∈ (s.abort id why).queue) (attached : r'.attached = true) :
    r'.line.galley ≠ id := by
  have released := (State.QueueFrom.freeComposer s id).hands hands
  have here : (s.abort id why).queue = ((s.freeComposer id).dropRecords id).queue := by
    unfold State.abort
    rw [held]
    rfl
  have dropped : ((s.freeComposer id).dropRecords id).queue = removeRecords id (s.freeComposer id).queue := by
    unfold State.dropRecords
    dsimp only
    split
    · exact congrArg State.queue (State.takeWaiting_of_emptyHanded
        (s := State.recount { s.freeComposer id with queue := removeRecords id (s.freeComposer id).queue }) released)
    · rfl
  rw [here, dropped] at mem
  exact (mem_removeRecords mem).2 attached

theorem GalleyUnit.find_eq_none_iff (gu : GalleyUnit) (id : GalleyId) :
    gu.find id = none ↔ id ∉ gu.table.map Galley.id := by
  simp only [GalleyUnit.find, List.find?_eq_none, List.mem_map, decide_eq_true_eq, not_exists, not_and]

theorem State.removeGalley_find (s : State) (id : GalleyId) : (s.removeGalley id).galleys.find id = none := by
  rw [GalleyUnit.find_eq_none_iff]
  show id ∉ (State.evaluateCredit _).galleys.table.map Galley.id
  rw [State.evaluateCredit_ids]
  simp [State.mapGalleys]

/-- An abort removes its galley from the table (R19). -/
theorem State.abort_find (s : State) (id : GalleyId) (why : AbortReason) : (s.abort id why).galleys.find id = none := by
  unfold State.abort
  split
  · assumption
  · exact State.removeGalley_find ..

/-- An abort releases the composer from its galley (R19). -/
theorem State.abort_galley {id : GalleyId} {g : Galley} (why : AbortReason) (held : s.galleys.find id = some g) :
    (s.abort id why).composer.galley ≠ some id := by
  have free : (s.freeComposer id).composer.galley ≠ some id := by
    unfold State.freeComposer
    split
    · exact nofun
    · assumption
  have here : (s.abort id why).composer = ((s.freeComposer id).dropRecords id).composer := by
    unfold State.abort
    rw [held]
    rfl
  rw [here]
  obtain same | gone := (State.Carried.dropRecords (s.freeComposer id) id).galley
  · rwa [same]
  · rw [gone]
    exact nofun

theorem State.Carried.find_none (h : State.Carried s t) {id : GalleyId} (gone : s.galleys.find id = none) :
    t.galleys.find id = none := by
  rw [Option.eq_none_iff_forall_ne_some]
  intro g' held
  obtain ⟨g, held, _⟩ := h.galleys.find held
  exact absurd (gone.symm.trans held) nofun

theorem State.Carried.galley_ne (h : State.Carried s t) {id : GalleyId} (other : s.composer.galley ≠ some id) :
    t.composer.galley ≠ some id := by
  obtain same | gone := h.galley
  · rwa [same]
  · rw [gone]
    exact nofun

end Sys2Proof.Machine
end

section
/-! The proof controller: rasterizing, its dots, the printer and its paper (chapter Proof Printing). -/

namespace Sys2Proof.Machine

variable {s : State}

/-- A command that is an event: what follows it is what follows its own effect. -/
theorem State.exists_followUp {i : Instr} {f : State → State} {u : State} (done : exec i s = .next (s.event f))
    (effect : f s = u) : ∃ t, exec i s = .next t ∧ State.FollowUp u t :=
  ⟨_, done, effect ▸ s.event_followUp f⟩

/-! ## The printer -/

theorem Proofer.beginRow_of_cons {p : Proofer} {dots : DotRow} {rest : List DotRow} (ring : p.ring = dots :: rest) :
    p.beginRow = { p with printer := { p.printer with state := .printing, row := some { dots := dots, inRing := true } } } := by
  unfold Proofer.beginRow
  rw [ring]

/-- The end of a row's print takes the row out of the ring (R160). -/
theorem Proofer.endRow_of_inRing {p : Proofer} {r : PrintRow} (row : p.printer.row = some r) (inRing : r.inRing = true) :
    p.endRow =
      let p : Proofer := { p with ring := p.ring.tail, printer := { p.printer with row := none } }
      if p.printer.state = .printing then
        if p.ring = [] then { p with printer := { p.printer with state := .ready } } else p.beginRow
      else p := by
  unfold Proofer.endRow
  rw [row]
  dsimp only
  rw [if_pos inRing]

theorem exec_rowPrinted_of_row {r : PrintRow} (row : s.proofer.printer.row = some r) :
    exec .rowPrinted s = .next (s.event fun s => s.mapProofer Proofer.endRow) := by
  show Host.Outcome.next _ = _
  rw [if_pos (by rw [row]; rfl)]

/-- Settles O56: the effects of the two commands, by the ring and the printer's state. -/
theorem printing : Obligations.Printing := by
  intro dots rest s ring
  refine ⟨fun ready none => ?_, fun r row inRing => ⟨fun next rest' busy more => ?_, fun busy last => ?_, fun idle => ?_⟩⟩
  · have begun : s.mapProofer Proofer.beginRow =
        { s with
          proofer :=
            { s.proofer with
              printer := { s.proofer.printer with state := .printing, row := some { dots := dots, inRing := true } } } } :=
      congrArg (fun p => { s with proofer := p }) (Proofer.beginRow_of_cons ring)
    refine State.exists_followUp (congrArg Host.Outcome.next (if_pos ⟨ready, ?_, ?_⟩)) begun
    · rw [none]
      rfl
    · rw [ring]
      exact List.cons_ne_nil dots rest
  · subst more
    have ended : s.proofer.endRow =
        { s.proofer with
          ring := next :: rest'
          printer := { s.proofer.printer with row := some { dots := next, inRing := true } } } := by
      rw [Proofer.endRow_of_inRing row inRing]
      dsimp only
      rw [if_pos busy, ring, List.tail_cons, if_neg (List.cons_ne_nil next rest'), Proofer.beginRow_of_cons rfl, ← busy]
    exact State.exists_followUp (exec_rowPrinted_of_row row) (congrArg (fun p => { s with proofer := p }) ended)
  · subst last
    have ended : s.proofer.endRow =
        { s.proofer with ring := [], printer := { s.proofer.printer with state := .ready, row := none } } := by
      rw [Proofer.endRow_of_inRing row inRing]
      dsimp only
      rw [if_pos busy, ring, List.tail_cons, if_pos rfl]
    exact State.exists_followUp (exec_rowPrinted_of_row row) (congrArg (fun p => { s with proofer := p }) ended)
  · have ended : s.proofer.endRow = { s.proofer with ring := rest, printer := { s.proofer.printer with row := none } } := by
      rw [Proofer.endRow_of_inRing row inRing]
      dsimp only
      rw [if_neg idle, ring, List.tail_cons]
    exact State.exists_followUp (exec_rowPrinted_of_row row) (congrArg (fun p => { s with proofer := p }) ended)

/-! ## The printer's timers and the abandonment -/

theorem claims_printerTimersAndPaper : Claims.PrinterTimersAndPaper := by
  rintro p s rfl
  refine ⟨fun ready idle => ?_, fun settling => ?_, fun waking => ?_, fun paper => ⟨?_, ?_⟩, fun out => ⟨?_, ?_⟩⟩
  · exact State.exists_followUp (congrArg Host.Outcome.next (if_pos ⟨ready, idle⟩)) rfl
  · exact State.exists_followUp (congrArg Host.Outcome.next (if_pos settling)) rfl
  · exact State.exists_followUp (congrArg Host.Outcome.next (if_pos waking)) rfl
  · exact congrArg Host.Outcome.next (if_neg paper)
  · exact State.exists_followUp (congrArg Host.Outcome.next (if_neg paper)) rfl
  · exact congrArg Host.Outcome.next (if_pos out)
  · exact State.exists_followUp (congrArg Host.Outcome.next (if_pos out)) rfl

/-- The queue with the proofs abandoned (R164). -/
def abandoned (queue : List QueueRecord) : List QueueRecord :=
  queue.map fun r => if r.unproofed then { r with proofed := true } else r

/-- An abandonment marks the records, and its reports change the galleys' records in nothing and the line. -/
theorem State.abandonProofs_alone (s : State) :
    State.GalleysAndLineAlone { s with queue := abandoned s.queue } s.abandonProofs :=
  .foldl (fun s id => s.report_alone id .proofAbandoned 0) _ _

theorem State.abandonProofs_galleys (s : State) : s.abandonProofs.galleys = s.galleys := by
  have fold (ids : List GalleyId) (s : State) :
      (ids.foldl (fun s id => s.report id .proofAbandoned 0) s).galleys = s.galleys := by
    induction ids generalizing s with
    | nil => rfl
    | cons id ids ih => exact (ih _).trans (s.report_galleys ..)
  exact fold _ _

theorem State.abandonProofs_kept (s : State) : State.MachineryKept s s.abandonProofs := by
  have marked : State.MachineryKept s { s with queue := abandoned s.queue } :=
    s.kept_of (l := s.line) (gu := s.galleys) (c := s.composer) (fs := s.fonts) (.refl _) (.refl _) (.refl _)
  have fold (ids : List GalleyId) (s : State) :
      State.MachineryKept s (ids.foldl (fun s id => s.report id .proofAbandoned 0) s) := by
    induction ids generalizing s with
    | nil => exact .refl s
    | cons id ids ih => exact (s.report_kept ..).trans (ih _)
  exact marked.trans (fold _ _)

theorem proofed_of_mem_abandoned {queue : List QueueRecord} {r : QueueRecord} (mem : r ∈ abandoned queue)
    (attached : r.attached = true) (needs : r.line.needsProof = true) : r.proofed = true := by
  obtain ⟨q, _, rfl⟩ := List.mem_map.mp mem
  by_cases un : q.unproofed = true
  · rw [if_pos un]
  · rw [if_neg un] at attached needs ⊢
    simpa [QueueRecord.unproofed, attached, needs] using un

theorem claims_proofsAbandoned : Claims.ProofsAbandoned := by
  intro s out running
  let rested := s.mapPrinter fun p => { p with abandonment := none }
  have done : exec .abandonmentTimer s = .next (s.event fun s =>
      (s.mapPrinter fun p => { p with abandonment := none }).abandonProofs) :=
    congrArg Host.Outcome.next (if_pos ⟨out, running⟩)
  have composer : rested.abandonProofs.composer = s.composer := by rw [rested.abandonProofs_alone]; rfl
  have queue : rested.abandonProofs.queue = abandoned s.queue := by rw [rested.abandonProofs_alone]; rfl
  have galleys : rested.abandonProofs.galleys = s.galleys := rested.abandonProofs_galleys
  refine ⟨_, done, .of_kept rested.abandonProofs_kept (State.event_followUp ..), ?_, ?_⟩
  · intro waiting todo r' mem attached needs
    have hands : rested.abandonProofs.EmptyHanded := by
      unfold State.EmptyHanded
      rw [composer]
      exact ⟨waiting, todo⟩
    obtain ⟨r, mem, raised⟩ := (State.QueueFrom.event s fun s =>
      (s.mapPrinter fun p => { p with abandonment := none }).abandonProofs).raised hands mem
    rw [queue] at mem
    exact raised.proofed (proofed_of_mem_abandoned mem (raised.attached attached) (by rw [← raised.line]; exact needs))
  · intro g' mem
    have carried := (State.Carried.event s fun s =>
      (s.mapPrinter fun p => { p with abandonment := none }).abandonProofs).galleys
    obtain ⟨g, held, same⟩ := carried.exists_mem mem
    rw [galleys] at held
    exact ⟨g, held, congrArg Prod.fst same, congrArg (fun k => k.2.2) same⟩

/-- Settles O57, from the printer's timers with its paper sensor and the abandonment. -/
theorem printerStates : Obligations.PrinterStates := ⟨claims_printerTimersAndPaper, claims_proofsAbandoned⟩

/-! ## The dots of a band -/

theorem proofDot_bounds (x : Int) : 72 * (proofDot x - 16) ≤ 5 * x ∧ 5 * x < 72 * (proofDot x - 16) + 72 := by
  unfold proofDot
  omega

/-- A dot of a cell stands at its own place (R157). -/
theorem placeDots_getLsbD (dots : BitVec 5) (dot : Int) (d : Nat) (inside : d < 1024) :
    (placeDots dots dot).getLsbD d =
      (decide (dot ≤ d) && decide ((d : Int) < dot + 5) && dots.getLsbD ((d : Int) - dot).toNat) := by
  have past (k : Nat) (beyond : 5 ≤ k) : dots.getLsbD k = false := BitVec.getLsbD_of_ge _ _ beyond
  unfold placeDots
  split
  · have right : ¬ dot ≤ d := by omega
    simp [right]
  split
  · obtain ⟨n, rfl⟩ := Int.eq_ofNat_of_zero_le ‹0 ≤ dot›
    have place : ((d : Int) - n).toNat = d - n := by omega
    rw [BitVec.getLsbD_shiftLeft, BitVec.getLsbD_setWidth, Int.toNat_natCast, place]
    have bound : d - n < 1024 := by omega
    by_cases left : d < n
    · have left' : ¬ (n : Int) ≤ d := by omega
      simp [left, left']
    by_cases right : (d : Int) < n + 5
    · have left' : (n : Int) ≤ d := by omega
      simp [left, left', right, bound, inside]
    · rw [past (d - n) (by omega)]
      simp
  · obtain ⟨n, hn⟩ := Int.eq_ofNat_of_zero_le (show 0 ≤ -dot by omega)
    have place : ((d : Int) - dot).toNat = n + d := by omega
    have left : dot ≤ d := by omega
    rw [BitVec.getLsbD_ushiftRight, BitVec.getLsbD_setWidth, hn, Int.toNat_natCast, place]
    by_cases right : (d : Int) < dot + 5
    · have bound : n + d < 1024 := by omega
      simp [left, right, bound]
    · rw [past (n + d) (by omega)]
      simp

/-- A span of ones, as a number. -/
theorem shiftLeft_sub_one {w n : Nat} (narrow : n < w) : (1#w <<< n) - 1#w = BitVec.ofNat w (2 ^ n - 1) := by
  have power : (1#w <<< n).toNat = 2 ^ n := by
    rw [← BitVec.twoPow_eq, BitVec.toNat_twoPow_of_lt narrow]
  have one : (1#w).toNat = 1 := Nat.mod_eq_of_lt (Nat.one_lt_two_pow (by omega))
  have positive : 0 < 2 ^ n := Nat.two_pow_pos n
  have small : 2 ^ n < 2 ^ w := Nat.pow_lt_pow_right (by decide) narrow
  apply BitVec.eq_of_toNat_eq
  rw [BitVec.toNat_sub_of_le (by rw [BitVec.le_def, one, power]; exact positive), power, one, BitVec.toNat_ofNat,
    Nat.mod_eq_of_lt (by omega)]

/-- The span of a reverse line: the dots 16 to 15 + md (R159). -/
theorem inversionSpan_getLsbD (measure d : Nat) (short : measure ≤ 14400) (inside : d < 1024) :
    (inversionSpan measure).getLsbD d = (decide (16 ≤ d) && decide (d < 16 + measure * 5 / 72)) := by
  have narrow : measure * 5 / 72 < 1024 := by omega
  have ones : (1#1024 <<< measureDots measure) - 1 = BitVec.ofNat 1024 (2 ^ (measure * 5 / 72) - 1) :=
    shiftLeft_sub_one narrow
  unfold inversionSpan
  rw [ones, BitVec.getLsbD_shiftLeft, BitVec.getLsbD_ofNat, Nat.testBit_two_pow_sub_one]
  by_cases left : d < 16
  · have left' : ¬ 16 ≤ d := by omega
    simp [left, left']
  · have left' : 16 ≤ d := by omega
    have bound : d - 16 < 1024 := by omega
    have same : (d - 16 < measure * 5 / 72) ↔ d < 16 + measure * 5 / 72 := by omega
    simp [left, left', bound, inside, same]

theorem claims_bandDots : Claims.BandDots := by
  refine ⟨proofDot_bounds, placeDots_getLsbD, fun b row d inside => ⟨fun blank => ?_, fun text short => ?_⟩⟩
  · unfold Raster.row
    rw [blank]
    exact BitVec.getLsbD_zero
  · unfold Raster.row
    rw [text]
    dsimp only
    by_cases inverted : b.reverse = true ∧ b.runs ≠ []
    · rw [if_pos inverted, BitVec.getLsbD_xor, inversionSpan_getLsbD _ _ short inside]
      simp [inverted]
    · rw [if_neg inverted]
      by_cases reverse : b.reverse = true
      · have bare : b.runs = [] := by
          by_contra runs
          exact inverted ⟨reverse, runs⟩
        simp [bare]
      · simp [reverse]

/-! ## Rasterizing -/

theorem State.mayRasterize_of {r : QueueRecord} (next : s.proofNext = some r) (runs : s.station.mode = .running)
    (idle : s.proofer.raster = none) (printer : s.proofer.printer.state = .ready ∨ s.proofer.printer.state = .printing)
    (room : s.proofer.ring.length + 12 ≤ 192)
    (wanted : ∀ g, s.galleys.find r.line.galley = some g → g.cancelPending = false) : s.mayRasterize = true := by
  have notCancelled : s.notCancelled r = true := by
    unfold State.notCancelled
    split
    · rw [wanted _ ‹_›]
      rfl
    · rfl
  have wanting : s.proofWanting = true := by
    unfold State.proofWanting
    rw [next]
    simp [notCancelled, runs]
  unfold State.mayRasterize
  simp only [idle, wanting, Option.isNone_none, Bool.true_and, Bool.and_eq_true, Bool.or_eq_true, beq_iff_eq,
    decide_eq_true_eq]
  exact ⟨printer, room⟩

/-- The state with a band's twelfth row written, its record's mark and counter aside. -/
def State.bandWritten (s : State) (b : Raster) : State :=
  { s with proofer := { s.proofer with ring := s.proofer.ring ++ [b.row 12], raster := none } }

theorem State.endRaster_kept (s : State) : State.MachineryKept { s with proofer := { s.proofer with raster := none } } s.endRaster := by
  unfold State.endRaster
  dsimp only
  split
  · exact .refl _
  · rename_i r _
    split
    · exact State.kept_of (s := { s with proofer := { s.proofer with raster := none } }) (l := s.line) (c := s.composer)
        (.refl _) (GalleyUnit.update_kept _ _ _ fun _ => rfl) (FontStore.stampUse_kept ..)
    · exact State.kept_of (s := { s with proofer := { s.proofer with raster := none } }) (l := s.line) (c := s.composer)
        (.refl _) (.refl _) (FontStore.stampUse_kept ..)

theorem State.endRaster_of_attached {r : QueueRecord} (found : s.queue.find? QueueRecord.rasterizing = some r)
    (attached : r.attached = true) :
    s.endRaster.composer = s.composer ∧
      s.endRaster.queue =
        (s.queue.map fun q => if q.rasterizing then { q with proofed := true, rasterizing := false } else q) ∧
      s.endRaster.galleys = s.galleys.update r.line.galley fun g =>
        { g with counters := { g.counters with proofed := raised g.counters.proofed } } := by
  have found' : (s.mapProofer fun p => { p with raster := none }).queue.find? QueueRecord.rasterizing = some r := found
  unfold State.endRaster
  dsimp only
  rw [found']
  dsimp only
  rw [if_pos attached]
  exact ⟨rfl, rfl, rfl⟩

/-- Of records with different names, the one in operation is the one of its name. -/
theorem eq_of_name {queue : List QueueRecord} (names : (queue.map QueueRecord.name).Nodup) {q r : QueueRecord}
    (memq : q ∈ queue) (memr : r ∈ queue) (same : q.name = r.name) : q = r :=
  List.inj_on_of_nodup_map names memq memr same

theorem State.writeRow_of_more {b : Raster} (raster : s.proofer.raster = some b) (more : b.rows + 1 < 12) :
    s.writeRow =
      { s with
        proofer :=
          { s.proofer with
            ring := s.proofer.ring ++ [b.row (b.rows + 1)]
            raster := some { b with rows := b.rows + 1, timer := 1 } } } := by
  unfold State.writeRow
  rw [raster]
  exact if_pos more

/-- The twelfth row written, with the band's end to come. -/
def State.twelfthRow (s : State) (b : Raster) : State :=
  { s with
    proofer :=
      { s.proofer with
        ring := s.proofer.ring ++ [b.row (b.rows + 1)]
        raster := some { b with rows := b.rows + 1, timer := 1 } } }

theorem State.writeRow_of_last {b : Raster} (raster : s.proofer.raster = some b) (last : b.rows + 1 = 12) :
    s.writeRow = (s.twelfthRow b).endRaster := by
  unfold State.writeRow
  rw [raster]
  exact if_neg (by rw [last]; decide)

theorem claims_bandsWritten : Claims.BandsWritten := by
  refine fun s => ⟨fun r next runs idle printer room wanted => ?_, fun b raster => ⟨fun more => ?_, fun last => ?_⟩⟩
  · refine ⟨s.event fun s => s.startRaster r, ?_, .of_kept ?_ (State.event_followUp ..)⟩
    · show execRasterizeStart s = _
      unfold execRasterizeStart
      rw [next]
      exact congrArg Host.Outcome.next (if_pos (State.mayRasterize_of next runs idle printer room wanted))
    · exact ⟨rfl, rfl, .refl _, rfl, rfl, rfl, rfl, rfl, rfl, rfl, rfl, rfl, rfl, rfl, rfl, rfl, rfl, rfl, List.Sublist.refl _⟩
  · exact State.exists_followUp (congrArg Host.Outcome.next (if_pos (by rw [raster]; rfl)))
      (State.writeRow_of_more raster more)
  · have done : exec .rowWritten s = .next (s.event State.writeRow) :=
      congrArg Host.Outcome.next (if_pos (by rw [raster]; rfl))
    have written := State.writeRow_of_last raster last
    have band : { s.twelfthRow b with proofer := { (s.twelfthRow b).proofer with raster := none } } = s.bandWritten b := by
      unfold State.twelfthRow State.bandWritten
      rw [last]
    have kept := (s.twelfthRow b).endRaster_kept
    rw [band, ← written] at kept
    refine ⟨_, done, .of_kept kept (State.event_followUp ..), ?_, ?_⟩
    · intro r found attached names waiting todo q mem same
      obtain ⟨composer, queue, -⟩ := State.endRaster_of_attached (s := s.twelfthRow b) found attached
      rw [← written] at composer queue
      have hands : s.writeRow.EmptyHanded := by
        unfold State.EmptyHanded
        rw [composer]
        exact ⟨waiting, todo⟩
      obtain ⟨q', mem, raised⟩ := (State.QueueFrom.event s State.writeRow).raised hands mem
      rw [queue] at mem
      obtain ⟨q₀, there, rfl⟩ := List.mem_map.mp mem
      have named : q₀.name = r.name := by
        rw [← same, raised.name]
        split <;> rfl
      obtain rfl := eq_of_name names there (List.mem_of_find?_eq_some found) named
      have busy : q₀.rasterizing = true := List.find?_some found
      rw [if_pos busy] at raised
      exact ⟨raised.proofed rfl, raised.rasterizing⟩
    · intro r g g' found attached held held'
      obtain ⟨-, -, galleys⟩ := State.endRaster_of_attached (s := s.twelfthRow b) found attached
      rw [← written] at galleys
      obtain ⟨g₁, held₁, same⟩ := (State.Carried.event s State.writeRow).galleys.find held'
      rw [galleys] at held₁
      have counted : g₁ = { g with counters := { g.counters with proofed := raised g.counters.proofed } } := by
        rw [GalleyUnit.find_update (by exact fun _ => rfl)] at held₁
        have own : g.id = r.line.galley := GalleyUnit.find_id held
        have found : (s.twelfthRow b).galleys.find r.line.galley = some g := held
        rw [found, Option.map_some, if_pos own] at held₁
        exact (Option.some.inj held₁).symm
      have proofed : g₁.counters.proofed = g'.counters.proofed := congrArg (fun k => k.2.2) same
      rw [← proofed, counted]
      rfl

/-- Settles O55, from the rows and the mark of a band and from its dots. -/
theorem rasterizing : Obligations.Rasterizing := ⟨claims_bandsWritten, claims_bandDots⟩

end Sys2Proof.Machine
end

section
/-! Galleys ended by a cancel, a text fault and the text timeout, cancels that wait for an exposure (R15 to R19), and the
composer's taking of the head (R8, R27). -/

namespace Sys2Proof.Machine

variable {s : State}

/-! ## Aborts and cancels -/

theorem State.exposingGalley_eq_false {id : GalleyId} (idle : ∀ r ∈ s.queue, r.line.galley = id → r.exposing = false) :
    s.exposingGalley id = false := by
  unfold State.exposingGalley
  rw [List.any_eq_false]
  intro r mem
  by_cases own : r.line.galley = id
  · simp [idle r mem own]
  · simp [own]

theorem exec_galleyCancel_of_unexposed {h : Header} {id : GalleyId} {g : Galley} (heard : s.hears .galleyCancel h = true)
    (held : s.galleys.find id = some g) (fresh : g.cancelPending = false)
    (idle : ∀ r ∈ s.queue, r.line.galley = id → r.exposing = false) :
    exec (.galleyCancel h id) s = .next (s.frameEnded.event fun s => s.abort id .cancelled) := by
  have held' : s.frameEnded.galleys.find id = some g := held
  have idle' : s.frameEnded.exposingGalley id = false := State.exposingGalley_eq_false (s := s.frameEnded) idle
  rw [exec_galleyCancel, execGalleyCancel, State.onFrame_of_hears heard, held']
  simp only [fresh, idle', Bool.false_eq_true, if_false]

/-- A segment that is no segment expected is a text fault (R15). -/
theorem exec_textSegment_of_fault {h : Header} {id : GalleyId} {g : Galley} {number : Nat} {units : List CodeWord}
    (heard : s.hears .textSegment h = true) (held : s.galleys.find id = some g) (fresh : g.cancelPending = false)
    (taking : g.state ≠ .draining) (more : g.compositionEnded = false)
    (fault : g.nextSegment < number ∨ number = g.nextSegment ∧
      (g.granted = none ∨ (∃ limit, g.granted = some limit ∧ limit < number) ∨ units.length ≠ g.unitsOf number)) :
    exec (.textSegment h id number units) s = .next (s.frameEnded.event fun s => s.abort id .textFault) := by
  have held' : s.frameEnded.galleys.find id = some g := held
  have expected : ¬ number < g.nextSegment := by
    rcases fault with skipped | ⟨rfl, _⟩ <;> omega
  have refused : ¬ (number = g.nextSegment ∧ g.within number = true ∧ units.length = g.unitsOf number) := by
    rintro ⟨rfl, within, whole⟩
    obtain skipped | ⟨_, ungranted | ⟨limit, granted, beyond⟩ | short⟩ := fault
    · omega
    · simp [Galley.within, ungranted] at within
    · simp only [Galley.within, granted, decide_eq_true_eq] at within
      omega
    · exact short whole
  show Host.Outcome.next _ = _
  rw [State.onFrame_of_hears heard]
  unfold State.hearSegment
  rw [held']
  dsimp only
  rw [if_neg (by simp [fresh, taking, more, expected]), if_neg refused]

theorem State.abortUnlessCancelled_of_held {id : GalleyId} {g : Galley} {why : AbortReason}
    (held : s.galleys.find id = some g) (fresh : g.cancelPending = false) :
    s.abortUnlessCancelled id why = s.abort id why := by
  unfold State.abortUnlessCancelled
  rw [held]
  exact if_neg (by rw [fresh]; exact nofun)

theorem exec_textTimeout_of_waiting {id : GalleyId} (running : s.galleys.textTimer.isSome = true)
    (on : s.composer.galley = some id) :
    exec .textTimeout s = .next (s.event fun s => s.abortUnlessCancelled id .textTimeout) := by
  obtain ⟨left, timer⟩ := Option.isSome_iff_exists.mp running
  show execTextTimeout s = _
  unfold execTextTimeout
  rw [timer, on]

/-- What an event leaves of a galley that its own effect aborts. -/
theorem State.event_of_abort {id : GalleyId} {g : Galley} {why : AbortReason} {f : State → State}
    (effect : f s = s.abort id why) (held : s.galleys.find id = some g) :
    (s.event f).galleys.find id = none ∧ (s.event f).composer.galley ≠ some id ∧ State.FollowUp s (s.event f) ∧
      (s.EmptyHanded → ∀ r ∈ (s.event f).queue, r.attached = true → r.line.galley ≠ id) := by
  have carried := State.Carried.event s f
  have queue := State.QueueFrom.event s f
  have follow := s.event_followUp f
  rw [effect] at carried queue follow
  refine ⟨carried.find_none (State.abort_find ..), carried.galley_ne (State.abort_galley why held),
    .of_kept (s.abort_kept ..) follow, fun hands r mem attached own => ?_⟩
  obtain ⟨q, mem, raised⟩ := queue.raised ((State.QueueFrom.abort s id why).hands hands) mem
  exact State.abort_detaches held hands mem (raised.attached attached) (by rw [← raised.line]; exact own)

theorem claims_abortsEndTheGalley : Claims.AbortsEndTheGalley := by
  intro id g s held fresh i reason
  have framed {f : State → State} {why : AbortReason} (done : exec i s = .next (s.frameEnded.event f))
      (effect : f s.frameEnded = s.frameEnded.abort id why) (frame : i ≠ .textTimeout) :
      ∃ t, exec i s = .next t ∧ t.galleys.find id = none ∧ t.composer.galley ≠ some id ∧
        State.FollowUp { s with line := { s.line with idleBits := if i = .textTimeout then s.line.idleBits else 0 } } t ∧
        (s.composer.waiting = none → s.composer.todo = [] → ∀ r ∈ t.queue, r.attached = true → r.line.galley ≠ id) := by
    obtain ⟨gone, released, follow, queue⟩ := State.event_of_abort (s := s.frameEnded) effect held
    rw [if_neg frame]
    exact ⟨_, done, gone, released, follow, fun waiting todo => queue ⟨waiting, todo⟩⟩
  rcases reason with ⟨h, rfl, heard, idle⟩ | ⟨h, number, units, rfl, heard, taking, more, fault⟩ | ⟨rfl, running, on⟩
  · exact framed (exec_galleyCancel_of_unexposed heard held fresh idle) rfl nofun
  · exact framed (exec_textSegment_of_fault heard held fresh taking more fault) rfl nofun
  · obtain ⟨gone, released, follow, queue⟩ := State.event_of_abort (s := s)
      (f := fun s => s.abortUnlessCancelled id .textTimeout) (State.abortUnlessCancelled_of_held held fresh) held
    rw [if_pos rfl]
    exact ⟨_, exec_textTimeout_of_waiting running on, gone, released, follow, fun waiting todo => queue ⟨waiting, todo⟩⟩

/-- A cancel that waits marks its galley and releases the composer from it, and touches nothing else but credit (R18). -/
theorem State.pendCancel_spec {id : GalleyId} {g : Galley} (held : s.galleys.find id = some g) :
    (∃ g', (s.pendCancel id).galleys.find id = some g' ∧ g'.cancelPending = true) ∧
      (s.pendCancel id).composer.galley ≠ some id ∧ (s.pendCancel id).queue = s.queue ∧
      (s.pendCancel id).imaging = s.imaging ∧ (s.pendCancel id).transport = s.transport ∧
      (s.pendCancel id).proofer = s.proofer := by
  have marked : (s.galleys.update id fun g => { g with cancelPending := true }).find id =
      some { g with cancelPending := true } := by
    rw [GalleyUnit.find_update (by exact fun _ => rfl), held, Option.map_some, if_pos (GalleyUnit.find_id held)]
  unfold State.pendCancel
  dsimp only
  split
  · obtain ⟨g', found, same⟩ := State.evaluateCredit_find
      (s := (s.mapGalleys fun gu => gu.update id fun g => { g with cancelPending := true }).releaseComposer) marked
    exact ⟨⟨g', found, congrArg Galley.cancelPending same⟩, nofun, rfl, rfl, rfl, rfl⟩
  · rename_i other
    exact ⟨⟨_, marked, rfl⟩, other, rfl, rfl, rfl, rfl⟩

theorem claims_cancelWaitsForTheExposure : Claims.CancelWaitsForTheExposure := by
  intro h id g s heard held
  have held' : s.frameEnded.galleys.find id = some g := held
  refine ⟨fun fresh ⟨r, mem, attached, exposing, own⟩ => ?_, fun pending => ?_⟩
  · have exposed : s.frameEnded.exposingGalley id = true := by
      unfold State.exposingGalley
      rw [List.any_eq_true]
      exact ⟨r, mem, by simp [attached, exposing, own]⟩
    have done : exec (.galleyCancel h id) s = .next (s.frameEnded.pendCancel id) := by
      rw [exec_galleyCancel, execGalleyCancel, State.onFrame_of_hears heard, held']
      simp only [fresh, exposed, Bool.false_eq_true, if_false, if_true]
    obtain ⟨⟨g', found, cancelled⟩, rest⟩ := State.pendCancel_spec held'
    exact ⟨_, g', done, found, cancelled, rest⟩
  · rw [exec_galleyCancel, execGalleyCancel, State.onFrame_of_hears heard, held']
    simp only [pending, if_true]
    rfl

/-- Settles O14, from the three ends of a galley and the cancel that waits. -/
theorem cancelsAndAborts : Obligations.CancelsAndAborts := ⟨claims_abortsEndTheGalley, claims_cancelWaitsForTheExposure⟩

/-! ## The order of lists -/

section Order

variable {α : Type} {before : α → α → Bool} {R : α → α → Prop}

/-- Insertion keeps a list in order. -/
theorem pairwise_insertBy (trans : ∀ a b c, R a b → R b c → R a c) {x : α} {xs : List α} (sorted : xs.Pairwise R)
    (behind : ∀ y ∈ xs, before x y = false → R y x) (ahead : ∀ y ∈ xs, before x y = true → R x y) :
    (insertBy before x xs).Pairwise R := by
  induction xs with
  | nil => exact List.pairwise_singleton ..
  | cons y rest ih =>
    obtain ⟨first, sorted⟩ := List.pairwise_cons.mp sorted
    unfold insertBy
    split
    · rename_i here
      have xy := ahead y List.mem_cons_self here
      refine List.pairwise_cons.mpr ⟨fun z mem => ?_, List.pairwise_cons.mpr ⟨first, sorted⟩⟩
      obtain rfl | mem := List.mem_cons.mp mem
      · exact xy
      · exact trans _ _ _ xy (first z mem)
    · rename_i here
      refine List.pairwise_cons.mpr ⟨fun z mem => ?_, ih sorted (fun z mem => behind z (List.mem_cons_of_mem _ mem))
        fun z mem => ahead z (List.mem_cons_of_mem _ mem)⟩
      obtain rfl | mem := mem_insertBy.mp mem
      · exact behind y List.mem_cons_self (Bool.not_eq_true _ ▸ here)
      · exact first z mem

theorem pairwise_orderBy (trans : ∀ a b c, R a b → R b c → R a c) (behind : ∀ x y, before x y = false → R y x)
    (ahead : ∀ x y, before x y = true → R x y) (xs : List α) : (orderBy before xs).Pairwise R := by
  have fold (xs acc : List α) (sorted : acc.Pairwise R) :
      (xs.foldl (fun acc x => insertBy before x acc) acc).Pairwise R := by
    induction xs generalizing acc with
    | nil => exact sorted
    | cons x xs ih => exact ih _ (pairwise_insertBy trans sorted (fun y _ => behind x y) fun y _ => ahead x y)
  exact fold xs [] List.Pairwise.nil

theorem mem_orderBy {x : α} {xs : List α} : x ∈ orderBy before xs ↔ x ∈ xs := by
  have fold (xs acc : List α) : x ∈ xs.foldl (fun acc x => insertBy before x acc) acc ↔ x ∈ xs ∨ x ∈ acc := by
    induction xs generalizing acc with
    | nil => simp
    | cons y xs ih => rw [List.foldl_cons, ih, mem_insertBy, List.mem_cons]; tauto
  exact (fold xs []).trans (by simp)

end Order

/-! ## The compose head -/

/-- A galley does not stand behind another in compose order (R8). -/
def Galley.NotBehind (a b : Galley) : Prop :=
  a.priority.rank < b.priority.rank ∨ a.priority.rank = b.priority.rank ∧ a.stamp ≤ b.stamp

theorem GalleyUnit.composeOrder_sorted (gu : GalleyUnit) : gu.composeOrder.Pairwise Galley.NotBehind := by
  refine pairwise_orderBy ?_ ?_ ?_ _
  · unfold Galley.NotBehind
    omega
  · intro x y notBefore
    simp only [Galley.precedes, Bool.or_eq_false_iff, Bool.and_eq_false_iff, decide_eq_false_iff_not, beq_eq_false_iff_ne]
      at notBefore
    unfold Galley.NotBehind
    omega
  · intro x y isBefore
    simp only [Galley.precedes, Bool.or_eq_true, Bool.and_eq_true, decide_eq_true_eq, beq_iff_eq] at isBefore
    unfold Galley.NotBehind
    omega

theorem claims_headIsFirstInComposeOrder : Claims.HeadIsFirstInComposeOrder := by
  intro gu id head
  obtain ⟨g, found, rfl⟩ := Option.map_eq_some_iff.mp head
  obtain ⟨waiting, before, behind, order, others⟩ := List.find?_eq_some_iff_append.mp found
  have mem : g ∈ gu.table := mem_orderBy.mp (List.mem_of_find?_eq_some found)
  refine ⟨g, mem, rfl, of_decide_eq_true waiting, fun g' mem' waiting' => ?_⟩
  have sorted := gu.composeOrder_sorted
  have there : g' ∈ gu.composeOrder := mem_orderBy.mpr mem'
  rw [order] at sorted there
  obtain early | rfl | late : g' ∈ before ∨ g' = g ∨ g' ∈ behind := by simpa using there
  · exact absurd (others g' early) (by simp [waiting'])
  · exact .inr ⟨rfl, le_refl _⟩
  · exact (List.pairwise_cons.mp (List.pairwise_append.mp sorted).2.1).1 g' late

/-- The galley taken is COMPOSING, and the composer is on it at the start values. -/
def State.headTaken (s : State) (g : Galley) : State :=
  { s with composer := Composer.start g, galleys := s.galleys.update g.id fun g => { g with state := .composing } }

theorem State.takeHead_eq (s : State) (g : Galley) :
    s.takeHead g = (((s.headTaken g).report g.id .started 0).evaluateCredit).askNext := rfl

theorem State.takeHead_kept (s : State) (g : Galley) : State.MachineryKept s (s.takeHead g) := by
  have taken : State.MachineryKept s (s.headTaken g) :=
    s.kept_of (l := s.line) (q := s.queue) (fs := s.fonts) (.refl _) (GalleyUnit.update_kept _ _ _ fun _ => rfl) (.refl _)
  exact taken.trans ((State.report_kept ..).trans ((State.evaluateCredit_kept _).trans (State.askNext_kept _)))

/-- Asking leaves the galleys' records but for credit, and a composer that waits for text has the timer started (R17). -/
theorem State.askNext_galley (s : State) {id : GalleyId} {g : Galley} (held : s.galleys.find id = some g) :
    (∃ g', s.askNext.galleys.find id = some g' ∧ g'.uncredited = g.uncredited) ∧
      (s.askNext.composer.state = s.composer.state ∨
        s.askNext.composer.state = .waitText ∧ s.askNext.galleys.textTimer = some 5000) := by
  unfold State.askNext
  split
  · exact ⟨⟨g, held, rfl⟩, .inl rfl⟩
  split
  · let waits : State :=
      { s with
        composer := { s.composer with state := .waitText }
        galleys := { s.galleys with textTimer := some Config.textTimer } }
    exact ⟨waits.evaluateCredit_find held, .inr ⟨rfl, waits.evaluateCredit_uncredited.2⟩⟩
  · exact ⟨⟨g, held, rfl⟩, .inl rfl⟩

theorem exec_composerTakesHead_of_head {id : GalleyId} {g : Galley} (idle : s.composer.state = .idle)
    (head : s.galleys.head none = some id) (held : s.galleys.find id = some g) :
    exec .composerTakesHead s = .next (s.takeHead g) := by
  show execComposerTakesHead s = _
  unfold execComposerTakesHead
  rw [if_pos idle, head]
  dsimp only
  rw [held]

theorem claims_headTaken : Claims.HeadTaken := by
  intro id g s idle head held
  obtain rfl : g.id = id := GalleyUnit.find_id held
  have done := exec_composerTakesHead_of_head idle head held
  have composing : (s.headTaken g).galleys.find g.id = some { g with state := .composing } := by
    show (s.galleys.update g.id fun g => { g with state := .composing }).find g.id = _
    rw [GalleyUnit.find_update (by exact fun _ => rfl), held, Option.map_some, if_pos rfl]
  let reported := (s.headTaken g).report g.id .started 0
  have alone : (s.headTaken g).GalleysAndLineAlone reported := State.report_alone ..
  have composing' : reported.galleys.find g.id = some { g with state := .composing } := by
    rw [State.report_galleys]
    exact composing
  obtain ⟨g₁, found₁, same₁⟩ := reported.evaluateCredit_find composing'
  obtain ⟨⟨g₂, found₂, same₂⟩, ends⟩ := reported.evaluateCredit.askNext_galley found₁
  have same : g₂.uncredited = { g with state := .composing }.uncredited := same₂.trans same₁
  have composer : reported.evaluateCredit.composer = Composer.start g := by
    rw [State.evaluateCredit_composer, alone]
    rfl
  have asked := reported.evaluateCredit.askNext_composer
  rw [composer] at asked ends
  have queue : (s.takeHead g).queue = s.queue := by
    rw [State.takeHead_eq, State.askNext_queue, State.evaluateCredit_queue, State.report_queue]
    rfl
  have fonts : (s.takeHead g).fonts = s.fonts := by
    rw [State.takeHead_eq, State.askNext_fonts, State.evaluateCredit_fonts, State.report_fonts]
    rfl
  have started : (s.takeHead g).composer = { Composer.start g with state := (s.takeHead g).composer.state } := asked
  have counters : g₂.counters = g.counters := by
    have same := congrArg Galley.counters same
    exact same
  refine ⟨s.takeHead g, g₂, done, s.takeHead_kept g, queue, fonts, found₂, congrArg Galley.state same,
    counters, ?_⟩
  have field {α : Type} (f : Composer → α) : f (s.takeHead g).composer =
      f { Composer.start g with state := (s.takeHead g).composer.state } := congrArg f started
  exact ⟨field Composer.galley, field Composer.nextLine, field Composer.line, field Composer.word, field Composer.space,
    field Composer.waiting, field Composer.params, ends⟩

/-- Settles O18, from the head's taking and the order it is taken in. -/
theorem composerTakesTheHead : Obligations.ComposerTakesTheHead := ⟨claims_headTaken, claims_headIsFirstInComposeOrder⟩

end Sys2Proof.Machine
end

section
/-! The credit evaluation (R13). -/

namespace Sys2Proof.Machine

/-! ## A report owned as a credit -/

/-- A waiting galley of 8 segments, none of them granted. -/
def ungrantedGalley (serial : Nat) : Galley where
  id := ⟨2, serial⟩
  priority := .normal
  mode := .film
  firstLine := 1
  lastLine := 0
  fonts := [300]
  policy := .hold
  fallback := 300
  length := 2000
  expected := 8
  nextSegment := 0
  granted := none
  creditUnsent := false
  segments := []
  unitsRead := 0
  consumed := 0
  state := .waiting
  suspension := none
  compositionEnded := false
  cancelPending := false
  counters := Counters.zero
  stamp := serial

/-- A full transmit queue, whose only report carries the credit of galley 1 as its owner: no frame that the station offers, but
a frame of a state that the statement does not shut out. -/
def disguisedReportQueue : List Descriptor :=
  { kind := .galleyReport, dest := 2, body := [], owner := .credit ⟨2, 1⟩, age := 0 } ::
    List.replicate 15 { kind := .galleyClaim, dest := 0, body := [], owner := .hyphenation, age := 0 }

/-- Two galleys wait for their credit behind that queue. -/
def disguisedReportState : State :=
  { State.reset with
    station := { State.reset.station with number := 9 }
    line := { State.reset.line with queue := disguisedReportQueue }
    galleys := { State.reset.galleys with table := [ungrantedGalley 0, ungrantedGalley 1] } }

/-- The head's TEXT CREDIT displaces that report, and galley 1, whose credit it was, is then granted its 8 segments. -/
theorem disguisedReportState_granted :
    (disguisedReportState.evaluateCredit.galleys.find ⟨2, 1⟩).map Galley.granted = some (some 7) := by
  decide

/-- Refutes O19. A descriptor that is a GALLEY REPORT by its kind and a TEXT CREDIT by its owner can be displaced by another
galley's TEXT CREDIT within the evaluation, and the galley of its owner is then no longer passed over. -/
theorem not_creditStaysWithinTheTextStore : ¬ Obligations.CreditStaysWithinTheTextStore := by
  rintro ⟨-, -, passedOver⟩
  have unchanged := passedOver disguisedReportState ⟨2, 1⟩ (ungrantedGalley 1) (by decide) (by decide)
    (.inr (.inr (.inr (by decide))))
  have granted := disguisedReportState_granted
  rw [unchanged] at granted
  exact absurd granted (by decide)

end Sys2Proof.Machine
end

section
/-! Arbitration, the transmit queue and the reports of a galley (R169 to R174, R22). -/

namespace Sys2Proof.Machine

variable {s : State}

/-! ## Arbitration (R169) -/

/-- Bits that are all among another word's bits make no greater number. -/
theorem le_of_and_not_eq_zero {w : Nat} {x y : BitVec w} (within : x &&& ~~~y = 0) : x.toNat ≤ y.toNat := by
  have both : x &&& y = x := by
    ext i hi
    have bit := congrArg (fun z : BitVec w => z[i]) within
    simp only [BitVec.getElem_and, BitVec.getElem_not, BitVec.ofNat_eq_ofNat, BitVec.getElem_zero] at bit
    rw [BitVec.getElem_and]
    cases hx : x[i] <;> simp_all
  rw [← both, BitVec.toNat_and]
  exact Nat.and_le_right

theorem arbitrationField_toNat (kind : FrameKind) {sender : Nat} (station : sender < 32) :
    (arbitrationField kind sender).toNat = 32 * kind.cls + (31 - sender) := by
  have cls : kind.cls < 4 := by cases kind <;> decide
  unfold arbitrationField
  rw [BitVec.toNat_append, BitVec.toNat_ofNat, BitVec.toNat_ofNat, Nat.mod_eq_of_lt cls, Nat.mod_eq_of_lt (by omega),
    ← Nat.shiftLeft_add_eq_or_of_lt (by omega), Nat.shiftLeft_eq]
  omega

/-- The greater field loses: it sends a recessive bit where the lower one sends a dominant one. -/
theorem lostArbitration_of_lt {sent read : BitVec 7} (lower : read.toNat < sent.toNat) : lostArbitration sent read = true := by
  unfold lostArbitration
  rw [bne_iff_ne]
  intro within
  have := le_of_and_not_eq_zero within
  omega

theorem lostArbitration_self (field : BitVec 7) : lostArbitration field field = false := by
  unfold lostArbitration
  rw [BitVec.and_not_self]
  rfl

theorem exec_endOfArbitration_of_lost {f : Flight} {read : BitVec 7} (flight : s.line.flight = some f)
    (contends : f.stage = .arbitrating) (lost : lostArbitration (arbitrationField f.desc.kind s.station.number) read = true) :
    exec (.endOfArbitration read) s =
      .next (if f.withdrawn ∧ f.desc.owner = .outbound then (s.mapLine fun l => l.lose f).offerDueFrame
        else s.mapLine fun l => l.lose f) := by
  show execEndOfArbitration read s = _
  unfold execEndOfArbitration
  rw [flight]
  dsimp only
  rw [contends]
  dsimp only
  rw [if_pos lost]

theorem exec_endOfArbitration_of_won {f : Flight} {read : BitVec 7} (flight : s.line.flight = some f)
    (contends : f.stage = .arbitrating) (won : lostArbitration (arbitrationField f.desc.kind s.station.number) read = false) :
    exec (.endOfArbitration read) s = .next (s.mapLine fun l => { l with flight := some { f with stage := .sending } }) := by
  show execEndOfArbitration read s = _
  unfold execEndOfArbitration
  rw [flight]
  dsimp only
  rw [contends]
  dsimp only
  rw [if_neg (by rw [won]; exact nofun)]

theorem State.offerDueFrame_of_not_due (rest : s.fonts.outbound.due = false) : s.offerDueFrame = s := by
  unfold State.offerDueFrame
  rw [rest]
  rfl

/-- Settles O6: the field with the lower class, or the same class and the higher station number, is the lower number. -/
theorem arbitrationOrder : Obligations.ArbitrationOrder := by
  intro s f flight contends
  refine ⟨fun kind n station station' order => ?_, exec_endOfArbitration_of_won flight contends (lostArbitration_self _)⟩
  have lost : lostArbitration (arbitrationField f.desc.kind s.station.number) (arbitrationField kind n) = true := by
    apply lostArbitration_of_lt
    rw [arbitrationField_toNat _ station, arbitrationField_toNat _ station']
    omega
  rw [exec_endOfArbitration_of_lost flight contends lost]
  refine ⟨fun kept absent => ?_, fun younger kept waits => ?_, fun withdrawn still => ?_⟩
  · rw [if_neg (by rw [kept]; exact fun h => absurd h.1 nofun)]
    have back : s.line.lose f =
        { s.line with queue := insertBy Descriptor.precedes f.desc s.line.queue, flight := none, driven := [] } := by
      unfold Line.lose Line.returned
      rw [absent, kept]
      rfl
    exact congrArg (fun l => Host.Outcome.next { s with line := l }) back
  · rw [if_neg (by rw [kept]; exact fun h => absurd h.1 nofun)]
    have merged : s.line.lose f =
        { s.line with
          queue := insertBy Descriptor.precedes { younger with age := f.desc.age } (s.line.queue.erase younger)
          flight := none, driven := [] } := by
      unfold Line.lose Line.returned
      rw [waits, kept]
      rfl
    exact congrArg (fun l => Host.Outcome.next { s with line := l }) merged
  · have gone : s.mapLine (fun l => l.lose f) = { s with line := { s.line with flight := none, driven := [] } } := by
      unfold State.mapLine Line.lose
      rw [withdrawn]
      rfl
    rw [gone]
    split
    · rename_i outbound
      have rest : s.fonts.outbound.due = false := still.resolve_left fun other => other outbound.2
      exact congrArg Host.Outcome.next (State.offerDueFrame_of_not_due
        (s := { s with line := { s.line with flight := none, driven := [] } }) rest)
    · rfl

/-! ## The transmit queue (R171, R173) -/

theorem Descriptor.precedes_iff (a b : Descriptor) :
    a.precedes b = true ↔ a.kind.cls < b.kind.cls ∨ a.kind.cls = b.kind.cls ∧ a.age < b.age := by
  simp only [Descriptor.precedes, Bool.or_eq_true, Bool.and_eq_true, decide_eq_true_eq, beq_iff_eq]

/-- A new frame takes its place in the order of a queue that is older than it. -/
theorem Line.enqueue_sorted {l : Line} (sorted : l.queue.Pairwise fun a b => a.precedes b = true)
    (older : ∀ d ∈ l.queue, d.age < l.nextAge) (d : Descriptor) :
    (l.enqueue d).queue.Pairwise fun a b => a.precedes b = true := by
  refine pairwise_insertBy (fun a b c ab bc => ?_) sorted (fun e mem behind => ?_) fun e _ ahead => ahead
  · rw [Descriptor.precedes_iff] at *
    omega
  · have age := older e mem
    rw [← Bool.not_eq_true, Descriptor.precedes_iff] at behind
    rw [Descriptor.precedes_iff]
    dsimp only at *
    omega

theorem Line.mem_enqueue (l : Line) (d : Descriptor) : { d with age := l.nextAge } ∈ (l.enqueue d).queue :=
  mem_insertBy.mpr (.inl rfl)

theorem Line.offer_of_displaced {l : Line} {kind : FrameKind} {dest : BitVec 5} {body : List Byte} {owner : FrameOwner}
    {lost : Descriptor} (alone : l.waitingReport owner = none) (full : l.count = 16)
    (displaced : l.displaceable kind.cls = some lost) :
    l.offer true kind dest body owner =
      (Line.enqueue { l with queue := l.queue.erase lost }
        { kind := kind, dest := dest, body := body, owner := owner, age := l.nextAge }, true) := by
  have room : ¬ l.count < Config.transmitCapacity := by
    rw [full]
    decide
  unfold Line.offer
  simp only [alone, displaced, if_neg room]
  rfl

/-- In an ordered queue no descriptor stands twice. -/
theorem Line.nodup_of_sorted {l : Line} (sorted : l.queue.Pairwise fun a b => a.precedes b = true) : l.queue.Nodup := by
  refine sorted.imp fun {a b} before same => ?_
  subst same
  rw [Descriptor.precedes_iff] at before
  omega

/-- Settles O8, by the three ways of an offer: room, a report to displace, and neither. -/
theorem transmitQueueBounded : Obligations.TransmitQueueBounded := by
  intro l kind dest body owner bound
  refine ⟨Line.offer_count_le true kind dest body owner bound, fun alone sorted older => ?_⟩
  by_cases room : l.count < 16
  · rw [l.offer_of_room kind dest body owner alone room]
    refine ⟨Line.enqueue_sorted sorted older { kind := kind, dest := dest, body := body, owner := owner, age := l.nextAge },
      fun _ => ⟨rfl, mem_insertBy.mpr (.inl rfl), l.count_withWaiting ..⟩, fun _ full => absurd full (by omega),
      fun full => absurd full (by omega)⟩
  have full : l.count = 16 := by omega
  cases displaced : l.displaceable kind.cls with
  | none =>
    have discarded : l.offer true kind dest body owner = (l, false) := Line.offer_of_full true alone full.ge displaced
    rw [discarded]
    exact ⟨sorted, fun room' => absurd room' room, fun _ _ => nofun, fun _ _ => rfl⟩
  | some lost =>
    rw [Line.offer_of_displaced alone full displaced]
    have fewer : (l.queue.erase lost).Sublist l.queue := List.erase_sublist
    refine ⟨Line.enqueue_sorted (l := { l with queue := l.queue.erase lost }) (sorted.sublist fewer)
        (fun d mem => older d (fewer.subset mem)) _,
      fun room' => absurd room' room, fun lost' _ same => ⟨rfl, Line.mem_enqueue _ _, fun mem => ?_⟩, fun _ => nofun⟩
    obtain rfl := Option.some.inj same
    obtain new | old := mem_insertBy.mp mem
    · have age := older lost (Line.displaceable_mem displaced).1
      rw [new] at age
      exact absurd age (lt_irrefl _)
    · exact (Line.nodup_of_sorted sorted).not_mem_erase old

end Sys2Proof.Machine
end

section
/-! The reports of a galley (R9, R11, R19, R22, R172). -/

namespace Sys2Proof.Machine

variable {s : State}

/-! ## A report in the place of the waiting one (R172) -/

theorem claims_reportTakesThePlaceOfTheWaitingOne : Claims.ReportTakesThePlaceOfTheWaitingOne := by
  intro before behind l old id dest body queue own others
  have other (d : Descriptor) (mem : d ∈ before ++ behind) : decide (d.owner = .report id) = false :=
    decide_eq_false (others d mem)
  have before' : before.filter (fun d => decide (d.owner = .report id)) = [] :=
    List.filter_eq_nil_iff.mpr fun d mem => by rw [other d (List.mem_append_left _ mem)]; nofun
  have behind' : behind.filter (fun d => decide (d.owner = .report id)) = [] :=
    List.filter_eq_nil_iff.mpr fun d mem => by rw [other d (List.mem_append_right _ mem)]; nofun
  have waits : l.waitingReport (.report id) = some old := by
    show (l.queue.filter fun d => decide (d.owner = .report id)).getLast? = some old
    rw [queue, List.filter_append, List.filter_cons_of_pos (by exact decide_eq_true own), before', behind']
    rfl
  have kept {ds : List Descriptor} (among : ∀ d ∈ ds, d ∈ before ++ behind) (new : Descriptor) :
      ds.map (fun e => if e = old then new else e) = ds := by
    calc ds.map (fun e => if e = old then new else e)
        = ds.map (fun e => e) := List.map_congr_left fun e mem => if_neg fun same =>
            others e (among e mem) (by rw [same]; exact own)
      _ = ds := List.map_id' ds
  unfold Line.offer
  dsimp only
  rw [waits]
  dsimp only
  rw [queue, List.map_append, List.map_cons, if_pos rfl, kept fun d mem => List.mem_append_left _ mem,
    kept fun d mem => List.mem_append_right _ mem]
  rfl

/-! ## The reports of a galley -/

theorem State.sendReport_eq (s : State) {id : GalleyId} (addressable : id.poster < 32) (event : ReportEvent) (reason : Nat)
    (c : Counters) : s.sendReport id event reason c = { s with line := s.lineReported id event.code reason c } := by
  unfold State.sendReport
  rw [posterField_of_lt addressable]
  rfl

theorem State.report_eq {id : GalleyId} {g : Galley} (held : s.galleys.find id = some g) (addressable : id.poster < 32)
    (event : ReportEvent) (reason : Nat) :
    s.report id event reason = { s with line := s.lineReported id event.code reason g.counters } := by
  rw [State.report_of_find held, State.sendReport_eq s addressable]

theorem State.find_update_self {id : GalleyId} {g : Galley} {f : Galley → Galley} (keeps : ∀ g, (f g).id = g.id)
    (held : s.galleys.find id = some g) : (s.galleys.update id f).find id = some (f g) := by
  rw [GalleyUnit.find_update keeps, held, Option.map_some, if_pos (GalleyUnit.find_id held)]

/-- The galley suspended, before its report. -/
def State.suspended (s : State) (id : GalleyId) (why : Suspension) : State :=
  s.mapGalleys fun gu => gu.update id (Galley.suspendedFor why)

theorem State.suspend_eq {id : GalleyId} {g : Galley} (held : s.galleys.find id = some g) (addressable : id.poster < 32)
    (active : g.Suspendable) (why : Suspension) :
    s.suspend id why =
      { s with
        galleys := s.galleys.update id (Galley.suspendedFor why)
        line := if g.cancelPending then s.line else s.lineReported id 2 why.code g.counters } := by
  have suspended : (s.suspended id why).galleys.find id = some (g.suspendedFor why) :=
    State.find_update_self (by exact fun _ => rfl) held
  have reported := State.report_eq (s := s.suspended id why) suspended addressable .suspended why.code
  unfold State.suspend
  rw [held]
  dsimp only
  rw [if_pos (show g.state = .composing ∨ g.state = .draining from active)]
  split
  · rename_i pending
    rfl
  · exact reported

theorem State.resume_eq {id : GalleyId} {g : Galley} (held : s.galleys.find id = some g) (addressable : id.poster < 32)
    (suspended : g.state = .suspended) (more : g.compositionEnded = false) :
    s.resume id =
      { s with
        galleys := s.galleys.update id fun g => { g with state := .composing, suspension := none }
        line := s.lineReported id 3 0 g.counters
        composer :=
          if s.composer.galley = some id ∧ s.composer.state = .held then
            { s.composer with state := .running, awaited := none }
          else s.composer } := by
  unfold State.resume
  rw [held]
  dsimp only
  rw [if_pos suspended, more, State.report_eq held addressable]
  simp only [Bool.false_eq_true, if_false]
  show (if s.composer.galley = some id ∧ s.composer.state = .held then _ else _) = _
  split <;> rfl

theorem State.finishGalley_eq {id : GalleyId} {g : Galley} (held : s.galleys.find id = some g) (addressable : id.poster < 32) :
    s.finishGalley id =
      State.evaluateCredit
        { s with
          galleys := { s.galleys with table := s.galleys.table.filter fun g => g.id ≠ id }
          line := s.lineReported id 4 0 g.counters } := by
  unfold State.finishGalley
  rw [State.report_eq held addressable]
  rfl

theorem State.abort_eq {id : GalleyId} {g : Galley} (held : s.galleys.find id = some g) (addressable : id.poster < 32)
    (elsewhere : s.composer.galley ≠ some id) (waiting : s.composer.waiting = none) (why : AbortReason) :
    s.abort id why =
      State.evaluateCredit
        { State.recount { s with queue := removeRecords id s.queue } with
          galleys := { s.galleys with table := s.galleys.table.filter fun g => g.id ≠ id }
          line := s.lineReported id 5 why.code g.counters } := by
  have free : s.freeComposer id = s := if_neg elsewhere
  have dropped : s.dropRecords id = State.recount { s with queue := removeRecords id s.queue } := by
    unfold State.dropRecords
    dsimp only
    split
    · unfold State.takeWaiting
      rw [show (State.recount { s with queue := removeRecords id s.queue }).composer.waiting = none from waiting]
    · rfl
  unfold State.abort
  rw [held]
  dsimp only
  rw [free, dropped, State.sendReport_eq _ addressable]
  rfl

theorem State.unproofedGalleys_of_one {id : GalleyId} (some' : ∃ r ∈ s.queue, r.unproofed = true)
    (only : ∀ r ∈ s.queue, r.unproofed = true → r.line.galley = id) : s.unproofedGalleys = [id] := by
  have again (rs : List QueueRecord) (own : ∀ r ∈ rs, r.line.galley = id) :
      rs.foldl (fun ids r => if r.line.galley ∈ ids then ids else ids ++ [r.line.galley]) [id] = [id] := by
    induction rs with
    | nil => rfl
    | cons r rs ih =>
      rw [List.foldl_cons, if_pos (by rw [own r List.mem_cons_self]; exact List.mem_singleton.mpr rfl)]
      exact ih fun q mem => own q (List.mem_cons_of_mem _ mem)
  have own (r : QueueRecord) (mem : r ∈ s.queue.filter QueueRecord.unproofed) : r.line.galley = id :=
    only r (List.mem_filter.mp mem).1 (List.mem_filter.mp mem).2
  unfold State.unproofedGalleys
  cases filtered : s.queue.filter QueueRecord.unproofed with
  | nil =>
    obtain ⟨r, mem, un⟩ := some'
    exact absurd (List.mem_filter.mpr ⟨mem, un⟩) (by rw [filtered]; exact List.not_mem_nil)
  | cons r rs =>
    rw [filtered] at own
    rw [List.foldl_cons, if_neg List.not_mem_nil, own r List.mem_cons_self]
    exact again rs fun q mem => own q (List.mem_cons_of_mem _ mem)

theorem claims_reportsOfAGalley : Claims.ReportsOfAGalley := by
  intro s id g held addressable
  refine ⟨fun why code active reason => ?_, State.resume_eq held addressable, State.finishGalley_eq held addressable,
    fun why code reason elsewhere waiting => ?_, fun some' only => ?_⟩
  · have coded : why.code = code := by
      obtain ⟨font, fonts, mem⟩ := reason
      simp only [List.mem_cons, Prod.mk.injEq, List.not_mem_nil, or_false] at mem
      rcases mem with ⟨rfl, rfl⟩ | ⟨rfl, rfl⟩ | ⟨rfl, rfl⟩ | ⟨rfl, rfl⟩ | ⟨rfl, rfl⟩ <;> rfl
    rw [State.suspend_eq held addressable active why, coded]
    rfl
  · have coded : why.code = code := by
      simp only [List.mem_cons, Prod.mk.injEq, List.not_mem_nil, or_false] at reason
      rcases reason with ⟨rfl, rfl⟩ | ⟨rfl, rfl⟩ | ⟨rfl, rfl⟩ <;> rfl
    rw [State.abort_eq held addressable elsewhere waiting, coded]
  · unfold State.abandonProofs
    rw [State.unproofedGalleys_of_one some' only]
    exact State.report_eq (s := { s with queue := abandoned s.queue }) held addressable .proofAbandoned 0

theorem claims_refusalToNoStation : Claims.RefusalToNoStation := by
  intro h id first last s heard _ unheld
  have unheld' : s.frameEnded.galleys.find id = none := unheld
  refine ⟨posterField id.poster, ?_⟩
  rw [exec_proofWanted_of_hears heard]
  unfold State.hearProofWanted
  rw [unheld']
  rfl

/-! ## Reports that wait -/

/-- A report offered where there is room waits, and no other galley's frame goes for it (R172, R173). -/
theorem Line.offer_report {l : Line} (room : l.count < 16) (dest : BitVec 5) (body : List Byte) (id : GalleyId) :
    (∃ d ∈ (l.offer true .galleyReport dest body (.report id)).1.queue,
        d.kind = .galleyReport ∧ d.dest = dest ∧ d.owner = .report id ∧ d.body = body) ∧
      (∀ d ∈ l.queue, d.owner ≠ .report id → d ∈ (l.offer true .galleyReport dest body (.report id)).1.queue) ∧
      (l.offer true .galleyReport dest body (.report id)).1.count ≤ l.count + 1 := by
  cases waits : l.waitingReport (.report id) with
  | none =>
    rw [l.offer_of_room _ _ _ _ waits room]
    exact ⟨⟨_, mem_insertBy.mpr (.inl rfl), rfl, rfl, rfl, rfl⟩, fun d mem _ => mem_insertBy.mpr (.inr mem),
      (l.count_withWaiting ..).le⟩
  | some old =>
    have there := List.mem_filter.mp (List.mem_of_getLast? (show (l.queue.filter _).getLast? = some old from waits))
    have place : l.offer true .galleyReport dest body (.report id) =
        ({ l with queue := l.queue.map fun e =>
            if e = old then { kind := .galleyReport, dest := dest, body := body, owner := .report id, age := old.age }
            else e }, true) := by
      unfold Line.offer
      dsimp only
      rw [waits]
      rfl
    rw [place]
    refine ⟨⟨_, List.mem_map.mpr ⟨old, there.1, if_pos rfl⟩, rfl, rfl, rfl, rfl⟩, fun d mem other => ?_, ?_⟩
    · refine List.mem_map.mpr ⟨d, mem, if_neg ?_⟩
      rintro rfl
      exact other (of_decide_eq_true there.2)
    · unfold Line.count
      rw [List.length_map]
      exact Nat.le_succ _

theorem State.lineReported_waits (takesPart : s.station.takesPart = true) (room : s.line.count < 16) (id : GalleyId)
    (event reason : Nat) (c : Counters) : (s.lineReported id event reason c).ReportWaits id event reason c := by
  unfold State.lineReported
  rw [takesPart]
  exact (Line.offer_report room ..).1

theorem State.lineReported_count (takesPart : s.station.takesPart = true) (room : s.line.count < 16) (id : GalleyId)
    (event reason : Nat) (c : Counters) : (s.lineReported id event reason c).count ≤ s.line.count + 1 := by
  unfold State.lineReported
  rw [takesPart]
  exact (Line.offer_report room ..).2.2

theorem Line.ReportWaits.grown {l m : Line} {n : Nat} {id : GalleyId} {event reason : Nat} {c : Counters}
    (waits : l.ReportWaits id event reason c) (grown : Line.GrowsBy n l m) : m.ReportWaits id event reason c := by
  obtain ⟨d, mem, is⟩ := waits
  exact ⟨d, grown.stays d mem, is⟩

theorem State.evaluateCredit_length (s : State) : s.evaluateCredit.galleys.table.length = s.galleys.table.length := by
  have same := congrArg List.length s.evaluateCredit_ids
  rwa [List.length_map, List.length_map] at same

/-- A suspension offers at most a report of its galley. -/
theorem State.suspend_line (s : State) (id : GalleyId) (why : Suspension) :
    (s.suspend id why).line = s.line ∨
      ∃ dest body, (s.suspend id why).line = (s.line.offer s.station.takesPart .galleyReport dest body (.report id)).1 := by
  unfold State.suspend
  split
  · exact .inl rfl
  split
  · dsimp only
    split
    · exact .inl rfl
    · unfold State.report
      split
      · exact .inr ⟨_, _, rfl⟩
      · exact .inl rfl
  · exact .inl rfl

theorem State.suspend_grows (takesPart : s.station.takesPart = true) (room : s.line.count < 16) (id : GalleyId)
    (why : Suspension) :
    (∀ d ∈ s.line.queue, d.owner ≠ .report id → d ∈ (s.suspend id why).line.queue) ∧
      (s.suspend id why).line.count ≤ s.line.count + 1 := by
  obtain same | ⟨dest, body, offered⟩ := s.suspend_line id why
  · rw [same]
    exact ⟨fun _ mem _ => mem, Nat.le_succ _⟩
  · rw [offered, takesPart]
    exact (Line.offer_report room ..).2

/-- The report of a suspended galley stays while others are suspended. -/
theorem State.suspendEach_reportWaits_of_suspended {ids : List GalleyId} {id : GalleyId} {g : Galley}
    {event reason : Nat} {c : Counters} (found : s.galleys.find id = some g) (suspended : g.state = .suspended)
    (takesPart : s.station.takesPart = true) (room : s.line.count + ids.length ≤ 16)
    (waits : s.line.ReportWaits id event reason c) : (s.suspendEach ids).line.ReportWaits id event reason c := by
  induction ids generalizing s with
  | nil => exact waits
  | cons i ids ih =>
    rw [List.length_cons] at room
    have held := State.suspendEach_find_of_suspended (ids := [i]) found suspended
    have part : (s.suspend i .halt).station.takesPart = true := by rw [s.suspend_alone]; exact takesPart
    obtain ⟨stays, count⟩ := State.suspend_grows takesPart (by omega) i .halt
    refine ih (s := s.suspend i .halt) held part (by omega) ?_
    by_cases same : i = id
    · subst same
      rwa [State.suspend_of_not_suspendable]
      intro g' found' active
      obtain rfl := Option.some.inj (found.symm.trans found')
      rcases active with h | h <;> rw [h] at suspended <;> cases suspended
    · obtain ⟨d, mem, kind, dest, owner, body⟩ := waits
      refine ⟨d, stays d mem ?_, kind, dest, owner, body⟩
      rw [owner]
      exact fun own => same (FrameOwner.report.inj own).symm

/-- A galley suspended in its turn has its report waiting (R9). -/
theorem State.suspendEach_reportWaits {ids : List GalleyId} {id : GalleyId} {g : Galley} (mem : id ∈ ids)
    (found : s.galleys.find id = some g) (active : g.Suspendable) (wanted : g.cancelPending = false)
    (addressable : id.poster < 32) (takesPart : s.station.takesPart = true) (room : s.line.count + ids.length ≤ 16) :
    (s.suspendEach ids).line.ReportWaits id 2 7 g.counters := by
  induction ids generalizing s with
  | nil => cases mem
  | cons i ids ih =>
    rw [List.length_cons] at room
    have part : (s.suspend i .halt).station.takesPart = true := by rw [s.suspend_alone]; exact takesPart
    have count := (State.suspend_grows takesPart (by omega) i .halt).2
    by_cases same : i = id
    · subst same
      have reported := State.suspend_eq found addressable active .halt
      have held : (s.suspend i .halt).galleys.find i = some (g.suspendedFor .halt) := by
        rw [reported]
        exact State.find_update_self (by exact fun _ => rfl) found
      refine State.suspendEach_reportWaits_of_suspended (s := s.suspend i .halt) held rfl part (by omega) ?_
      rw [reported, wanted]
      exact State.lineReported_waits takesPart (by omega) ..
    · have elsewhere : (s.suspend i .halt).galleys.find id = some g := by
        by_cases active : ∃ g', s.galleys.find i = some g' ∧ g'.Suspendable
        · obtain ⟨g', found', active⟩ := active
          rw [State.suspend_of_suspendable found' active, GalleyUnit.find_update (f := Galley.suspendedFor .halt) fun _ => rfl,
            found, Option.map_some, if_neg (by rw [GalleyUnit.find_id found]; exact fun h => same h.symm)]
        · rw [State.suspend_of_not_suspendable fun g' found' rest => active ⟨g', found', rest⟩]
          exact found
      exact ih (s := s.suspend i .halt) ((List.mem_cons.mp mem).resolve_left fun h => same h.symm) elsewhere part (by omega)

theorem Line.withdraw_count (l : Line) (p : Descriptor → Bool) : (l.withdraw p).count ≤ l.count := by
  unfold Line.count Line.withdraw
  dsimp only
  rw [Option.isSome_map]
  exact Nat.add_le_add_right (List.length_filter_le ..) _

theorem claims_reportsQueued : Claims.ReportsQueued := by
  intro h s id takesPart few galleys addressable nodup
  refine ⟨fun w heard own watched waits room unheld => ?_, fun g idle head held => ?_,
    fun g heard running held active wanted recorded => ?_⟩
  · obtain rfl : w.id = id := GalleyUnit.findWatch_id watched
    let held : State := { s.frameEnded with galleys := s.galleys.holding w }
    have record : held.galleys.find w.id = some (w.record s.galleys.claimCount) := GalleyUnit.find_holding unheld
    have accepted := State.report_eq (s := held) record addressable .accepted 0
    have length : held.galleys.table.length = s.galleys.table.length + 1 := List.length_append
    have waiting := State.lineReported_waits (s := held) takesPart (show s.line.count < 16 by omega) w.id 0 0 Counters.zero
    have count := State.lineReported_count (s := held) takesPart (show s.line.count < 16 by omega) w.id 0 0 Counters.zero
    have same : held.line.count = s.line.count := rfl
    have grown := State.evaluateCredit_growsBy
      (s := { held with line := held.lineReported w.id 0 0 Counters.zero }) (by dsimp only [Config.transmitCapacity]; omega)
    refine ⟨_, exec_galleyClaim_of_own heard own watched (.inl waits) room, ?_⟩
    rw [State.holdGalley_eq]
    show (State.evaluateCredit (held.report w.id .accepted 0)).line.ReportWaits ..
    rw [accepted]
    exact waiting.grown grown
  · obtain rfl : g.id = id := GalleyUnit.find_id held
    have done : exec .composerTakesHead s = .next (s.takeHead g) := exec_composerTakesHead_of_head idle head held
    have record := State.find_update_self (f := fun g => { g with state := .composing }) (by exact fun _ => rfl) held
    have started := State.report_eq (s := s.headTaken g) record addressable .started 0
    have length : (s.headTaken g).galleys.table.length = s.galleys.table.length := GalleyUnit.update_table_length ..
    have room : (s.headTaken g).line.count < 16 := show s.line.count < 16 by omega
    have waiting := State.lineReported_waits (s := s.headTaken g) takesPart room g.id 1 0 g.counters
    have count := State.lineReported_count (s := s.headTaken g) takesPart room g.id 1 0 g.counters
    have same : (s.headTaken g).line.count = s.line.count := rfl
    let reported : State := { s.headTaken g with line := (s.headTaken g).lineReported g.id 1 0 g.counters }
    have grown := State.evaluateCredit_growsBy (s := reported) (by dsimp only [Config.transmitCapacity, reported]; omega)
    have length' : reported.evaluateCredit.galleys.table.length = s.galleys.table.length :=
      reported.evaluateCredit_length.trans length
    have grown' := State.askNext_growsBy (s := reported.evaluateCredit) (by
      have := grown.count
      dsimp only [Config.transmitCapacity, reported] at *
      omega)
    refine ⟨_, done, ?_⟩
    rw [State.takeHead_eq, started]
    exact (waiting.grown grown).grown grown'
  · have run : s.frameEnded.halt = s.halting.suspendHalted := if_pos running
    refine ⟨_, exec_stationHalt_of_hears heard, ?_⟩
    rw [run]
    refine State.suspendEach_reportWaits (s := s.halting) ?_ held active wanted addressable takesPart ?_
    · obtain ⟨r, mem, attached, own, lacking⟩ := recorded
      refine List.mem_filter.mpr ⟨List.mem_map.mpr ⟨g, List.mem_of_find?_eq_some held, GalleyUnit.find_id held⟩, ?_⟩
      exact List.any_eq_true.mpr ⟨r, mem, by simp [attached, own, lacking]⟩
    · have fewer := Line.withdraw_count s.frameEnded.line fun d =>
        s.galleys.watch.any fun w => w.state == .claimQueued && d.owner == .claim w.id
      have line : s.halting.line = s.frameEnded.line.withdraw fun d =>
        s.galleys.watch.any fun w => w.state == .claimQueued && d.owner == .claim w.id := rfl
      have same : s.frameEnded.line.count = s.line.count := rfl
      have ids := List.length_filter_le (fun id => s.queue.any fun r =>
        r.attached && r.line.galley == id && !(r.exposed && r.proofed)) (s.galleys.table.map Galley.id)
      rw [List.length_map] at ids
      rw [line]
      show _ + (List.filter _ (s.galleys.table.map Galley.id)).length ≤ 16
      exact (Nat.add_le_add (fewer.trans (same.le.trans few)) (ids.trans galleys)).trans (by decide)

/-- Settles O9, from the place of a report, the reports of the galley's own changes, and those that wait. -/
theorem reportReplacesWaitingReport : Obligations.ReportReplacesWaitingReport :=
  ⟨claims_reportTakesThePlaceOfTheWaitingOne, claims_reportsOfAGalley, claims_reportsQueued, claims_refusalToNoStation⟩

end Sys2Proof.Machine
end

section
/-! Frames that leave the line, owner by owner (R169 to R171), and frames that reach no block (R167, R175 to R177, R179). -/

namespace Sys2Proof.Machine

variable {s : State}

/-! ## A frame's leaving the line -/

/-- The state with its own frame gone from the line. -/
def State.freed (s : State) : State := { s with line := s.lineFreed }

theorem exec_frameLeftLine_of_disowned {f : Flight} (flight : s.line.flight = some f) (sends : f.stage = .sending)
    (disowned : f.disowned = true) :
    exec .frameLeftLine s = .next { s with line := { s.line with flight := none, driven := [], idleBits := 0 } } := by
  have gone : s.line.released s.station.arbitration f =
      { s.line with flight := none, driven := [], idleBits := 0 } := by
    unfold Line.released
    rw [disowned, Bool.not_true, Bool.and_false, Bool.or_false]
  show execFrameLeftLine s = _
  unfold execFrameLeftLine
  rw [flight]
  dsimp only
  rw [sends]
  dsimp only
  rw [if_pos disowned]
  exact congrArg (fun l => Host.Outcome.next { s with line := l }) gone

theorem exec_frameLeftLine_of_owned {f : Flight} (flight : s.line.flight = some f) (sends : f.stage = .sending)
    (owned : f.disowned = false) : exec .frameLeftLine s = .next (s.freed.ownerTold f).offerDueFrame := by
  have gone : s.line.released s.station.arbitration f = s.lineFreed := by
    unfold Line.released State.lineFreed
    rw [owned, Bool.not_false, Bool.and_true]
  show execFrameLeftLine s = _
  unfold execFrameLeftLine
  rw [flight]
  dsimp only
  rw [sends]
  dsimp only
  rw [if_neg (by rw [owned]; exact nofun)]
  exact congrArg (fun l => Host.Outcome.next ((State.ownerTold { s with line := l } f).offerDueFrame)) gone

/-- What the leaving of a frame does where no block of the outbound channel is due behind it. -/
theorem exec_frameLeftLine_of_told {f : Flight} {t : State} (flight : s.line.flight = some f) (sends : f.stage = .sending)
    (owned : f.disowned = false) (told : s.freed.ownerTold f = t) (rest : t.fonts.outbound.due = false) :
    exec .frameLeftLine s = .next t := by
  rw [exec_frameLeftLine_of_owned flight sends owned, told, State.offerDueFrame_of_not_due rest]

theorem State.inboundLeft_of_idle {f : Flight} (noTake : s.fonts.inbound.takeDue = false)
    (noAsk : s.fonts.inbound.askDue = false) :
    s.inboundLeft f =
      if f.withdrawn then s else if f.desc.kind = .fontWanted then s.askLeft else s.takeLeft := by
  unfold State.inboundLeft
  rw [noTake, noAsk]
  rfl

theorem State.askLeft_of_asking {w : Want} (serves : s.fonts.inService = some w) (asks : w.state = .asking) :
    s.askLeft = s.mapFonts fun fs => fs.updateWant w.font fun w => { w with timer := some 120 } := by
  have started : (match s.fonts.inService with
      | some w => if w.state = .asking then s.fonts.startAskingWait w.font else s.fonts
      | none => s.fonts) = s.fonts.updateWant w.font fun w => { w with timer := some 120 } := by
    rw [serves]
    exact if_pos asks
  exact congrArg (fun fs => { s with fonts := fs }) started

theorem State.askLeft_of_not_asking (none' : ∀ w, s.fonts.inService = some w → w.state ≠ .asking) : s.askLeft = s := by
  have still : (match s.fonts.inService with
      | some w => if w.state = .asking then s.fonts.startAskingWait w.font else s.fonts
      | none => s.fonts) = s.fonts := by
    cases serves : s.fonts.inService with
    | none => rfl
    | some w => exact if_neg (none' w serves)
  exact congrArg (fun fs => { s with fonts := fs }) still

theorem claims_frameLeavesItsOwner : Claims.FrameLeavesItsOwner := by
  intro s f flight sends rest
  refine ⟨exec_frameLeftLine_of_disowned flight sends, ?_⟩
  rintro owned kept l rfl
  have inbound (owner : f.desc.owner = .inbound) : s.freed.ownerTold f = s.freed.inboundLeft f := by
    unfold State.ownerTold
    rw [owner]
  refine ⟨fun owner => ?_, fun id owner => ?_, fun w owner kind serves asks noAsk noTake => ?_,
    fun owner kind loads noAsk noTake => ?_, fun owner kind offered => ?_⟩
  · refine exec_frameLeftLine_of_told (t := s.freed) flight sends owned ?_ rest
    unfold State.ownerTold
    obtain owner | ⟨id, owner⟩ := owner <;> rw [owner]
  · refine exec_frameLeftLine_of_told flight sends owned ?_ rest
    unfold State.ownerTold
    rw [owner]
    dsimp only
    rw [kept]
    rfl
  · refine exec_frameLeftLine_of_told flight sends owned ?_ rest
    rw [inbound owner, State.inboundLeft_of_idle (s := s.freed) noTake noAsk, kept, if_neg nofun, if_pos kind]
    exact State.askLeft_of_asking (s := s.freed) serves asks
  · refine exec_frameLeftLine_of_told flight sends owned ?_ rest
    rw [inbound owner, State.inboundLeft_of_idle (s := s.freed) noTake noAsk, kept, if_neg nofun, kind, if_neg nofun]
    unfold State.takeLeft
    exact congrArg (fun i => { s.freed with fonts := { s.fonts with inbound := i } }) (if_pos loads)
  · refine exec_frameLeftLine_of_told flight sends owned ?_ rest
    unfold State.ownerTold
    rw [owner]
    dsimp only
    rw [kept, if_neg nofun, if_pos kind]
    exact congrArg (fun o => { s.freed with fonts := { s.fonts with outbound := o } }) (if_pos offered)

theorem claims_creditLeaves : Claims.CreditLeaves := by
  intro s f id flight sends owned owner rest
  refine exec_frameLeftLine_of_told flight sends owned ?_ rest
  unfold State.ownerTold
  rw [owner]
  rfl

theorem Line.withdraw_of_none {l : Line} {p : Descriptor → Bool} (flight : l.flight = none)
    (others : ∀ d ∈ l.queue, p d = false) : l.withdraw p = l := by
  unfold Line.withdraw
  rw [List.filter_eq_self.mpr fun d mem => by rw [others d mem]; rfl, flight]
  cases l
  cases flight
  rfl

theorem claims_blockLeaves : Claims.BlockLeaves := by
  intro s f e flight sends owned kept sending found takesPart room others
  have free : s.freed.line.holds Descriptor.isOutbound = false := by
    show (s.line.queue.any Descriptor.isOutbound || false) = false
    rw [Bool.or_false, List.any_eq_false]
    intro d mem
    simp [Descriptor.isOutbound, others d mem]
  have count : s.freed.line.count < 16 := room
  refine ⟨fun owner kind rest => ?_, fun owner due => ?_⟩
  · have told : s.freed.ownerTold f = s.freed.blockLeft := by
      unfold State.ownerTold
      rw [owner]
      dsimp only
      rw [kept, if_neg nofun, kind, if_neg nofun]
    have left : s.freed.blockLeft =
        if s.fonts.outbound.next + 1 < e.total then
          (s.freed.mapOutbound fun o => { o with next := o.next + 1 }).queueLoanFrame
        else s.freed.releaseLoan := by
      have found' : s.freed.fonts.entry s.freed.fonts.outbound.font = some e := found
      have sending' : s.freed.fonts.outbound.mode = .sending := sending
      unfold State.blockLeft
      dsimp only
      rw [if_pos sending', found']
      rfl
    refine ⟨fun more => ?_, fun last => ?_⟩
    · refine exec_frameLeftLine_of_told flight sends owned ?_ rfl
      rw [told, left, if_pos more]
      exact State.queueLoanFrame_of_room (s := s.freed.mapOutbound fun o => { o with next := o.next + 1 })
        (State.loanFrame_of_sending sending found) free takesPart count
    · refine exec_frameLeftLine_of_told flight sends owned ?_ (congrArg Outbound.due (FontStore.recount_outbound ..))
      rw [told, left, if_neg (by omega)]
      have nothing : s.freed.line.withdraw Descriptor.isLoanOffer = s.lineFreed :=
        Line.withdraw_of_none (l := s.lineFreed) rfl fun d mem => by simp [Descriptor.isLoanOffer, others d mem]
      exact congrArg (fun l => State.recount { s with line := l, fonts := { s.fonts with outbound := Outbound.rest } }) nothing
  · have told : s.freed.ownerTold f = s.freed := by
      unfold State.ownerTold
      rw [owner]
    have due' : s.freed.fonts.outbound.due = true := due
    rw [exec_frameLeftLine_of_owned flight sends owned, told]
    unfold State.offerDueFrame
    rw [if_pos due', State.queueLoanFrame_of_room (s := s.freed) (State.loanFrame_of_sending sending found) free takesPart count]
    rfl

theorem claims_dueFrameFollows : Claims.DueFrameFollows := by
  intro s f flight sends owned owner rest
  have told : s.freed.ownerTold f = s.freed.inboundLeft f := by
    unfold State.ownerTold
    rw [owner]
  refine ⟨fun takesPart room => ⟨fun takeDue => ?_, fun w noTake askDue serves => ?_⟩, fun noTake noAsk kind nothing => ?_⟩
  · have taken : s.freed.inboundLeft f = s.freed.queueTake := if_pos takeDue
    refine exec_frameLeftLine_of_told flight sends owned ?_ ?_
    · rw [told, taken]
      exact State.queueTake_of_room s.freed takesPart room
    · exact rest
  · have asked : s.freed.inboundLeft f = s.freed.queueAsk w.font := by
      have noTake' : s.freed.fonts.inbound.takeDue = false := noTake
      have serves' : s.freed.fonts.inService = some w := serves
      have askDue' : s.freed.fonts.inbound.askDue = true := askDue
      unfold State.inboundLeft
      rw [noTake', if_neg nofun, if_pos askDue']
      unfold State.queueDueAsk
      rw [serves']
    refine exec_frameLeftLine_of_told flight sends owned ?_ ?_
    · rw [told, asked]
      exact State.queueAsk_of_room s.freed w.font takesPart room
    · exact rest
  · refine exec_frameLeftLine_of_told (t := s.freed) flight sends owned ?_ rest
    rw [told, State.inboundLeft_of_idle (s := s.freed) noTake noAsk]
    obtain withdrawn | none' := nothing
    · exact if_pos withdrawn
    · rw [if_pos kind]
      split
      · rfl
      · exact State.askLeft_of_not_asking (s := s.freed) none'

/-- Settles O7, owner by owner. -/
theorem frameLeavesLine : Obligations.FrameLeavesLine :=
  ⟨claims_frameLeavesItsOwner, claims_creditLeaves, claims_blockLeaves, claims_dueFrameFollows⟩

/-! ## Frames that reach no block -/

/-- Each command that is a heard frame hands it to a block, or ends it (R175). -/
theorem exec_of_frame {i : Instr} {kind : FrameKind} {h : Header} {body : List Byte} (frame : bodyOf i = some (kind, h, body)) :
    ∃ block, ∀ s, exec i s = .next (s.onFrame kind h block) := by
  unfold bodyOf at frame
  split at frame
  all_goals cases frame
  all_goals exact ⟨_, fun s => rfl⟩

theorem State.onFrame_of_unheard {kind : FrameKind} {h : Header} (unheard : s.hears kind h = false) (block : State → State) :
    s.onFrame kind h block = s.frameEnded := by
  unfold State.onFrame
  rw [if_neg (by rw [unheard]; exact nofun)]

theorem claims_unheardFramesChangeNothing : Claims.UnheardFramesChangeNothing := by
  intro i kind h body s frame reason
  obtain ⟨block, done⟩ := exec_of_frame frame
  have unheard : s.hears kind h = false := by
    unfold State.hears
    obtain quiet | resync | other := reason
    · rw [Option.isNone_eq_false_iff.mpr (Option.isSome_iff_ne_none.mpr quiet)]
      simp
    · simp [resync]
    · simp [other]
  rw [done, State.onFrame_of_unheard unheard]
  rfl

theorem State.discards_of_not_read {bits : List Bool} {inQuiet : Bool} (bad : inQuiet = true ∨ readBits bits = none) :
    s.discards bits inQuiet = true := by
  unfold State.discards
  obtain rfl | absent := bad
  · split
    · rfl
    · rfl
  · rw [absent]
    rfl

theorem readFrame_eq_none {f : Frame} (bad : f.passes = false ∨ FrameKind.ofCode f.kind.toNat = none ∨
      ∃ kind, FrameKind.ofCode f.kind.toNat = some kind ∧ (f.cls.toNat ≠ kind.cls ∨ ∀ h, readBody kind h f.body = none)) :
    readFrame f = none := by
  unfold readFrame
  split
  · rename_i passes
    obtain fails | unknown | ⟨kind, code, cls | body⟩ := bad
    · exact absurd (passes.1.symm.trans fails) nofun
    · rw [unknown]
    · rw [code]
      exact if_neg cls
    · rw [code]
      dsimp only
      rw [body]
      exact ite_self _
  · rfl

theorem claims_badFramesReachNoBlock : Claims.BadFramesReachNoBlock := by
  refine ⟨fun bits s violates => congrArg Host.Outcome.next (if_pos violates), fun bits f inQuiet s whole bad => ?_⟩
  have discarded : s.discards bits inQuiet = true := by
    apply State.discards_of_not_read
    refine bad.imp_right fun bad => ?_
    unfold readBits
    rw [whole]
    exact readFrame_eq_none bad
  refine congrArg Host.Outcome.next (if_pos ?_)
  rw [whole, discarded]
  rfl

theorem State.hears_eq_false_of_resync (busy : s.line.resync = true) (kind : FrameKind) (h : Header) :
    s.hears kind h = false := by
  unfold State.hears
  rw [busy]
  rfl

theorem Line.contend_kept (l : Line) (station : Nat) :
    (l.contend station).quiet = l.quiet ∧ (l.contend station).resync = l.resync := by
  unfold Line.contend
  split <;> exact ⟨rfl, rfl⟩

/-- From the first opportunity on the line is followed again (R167). -/
theorem exec_contentionOpportunity_of_idle (free : s.line.flight = none) (other : Bool) :
    ∃ v, exec (.contentionOpportunity other) s = .next v ∧ v.line.quiet = s.line.quiet ∧ v.line.resync = false ∧
      v.station = s.station := by
  show ∃ v, execContentionOpportunity other s = .next v ∧ _
  unfold execContentionOpportunity
  rw [free, Option.isSome_none, if_neg nofun]
  refine ⟨_, rfl, ?_⟩
  dsimp only [State.mapLine]
  split
  · obtain ⟨quiet, resync⟩ := Line.contend_kept { s.line with idleBits := Config.idleBits, resync := false } s.station.number
    exact ⟨quiet, resync, rfl⟩
  split <;> exact ⟨rfl, rfl, rfl⟩

theorem claims_quietPeriod : Claims.QuietPeriod := by
  refine ⟨fun s => rfl, fun h s heard => ?_, fun kind h s => rfl⟩
  refine ⟨_, _, exec_stationReset_of_hears heard, rfl, fun kind h' => State.hears_eq_false_of_resync rfl kind h', rfl,
    fun kind h' => State.hears_eq_false_of_resync rfl kind h', fun other free => ?_⟩
  obtain ⟨v, done, quiet, resync, station⟩ := exec_contentionOpportunity_of_idle free other
  refine ⟨v, done, fun kind h' => ?_⟩
  unfold State.hears
  rw [resync, quiet]
  rfl

theorem State.canTake_of_listening (listens : s.station.takesPart = false) (id : GalleyId) (mode : GalleyMode) (stock : Stock) :
    s.canTake id mode stock = false := by
  unfold State.canTake
  rw [listens]
  simp only [Bool.false_and]

theorem claims_listeningStation : Claims.ListeningStation := by
  intro s number
  have listens : s.station.takesPart = false := by
    unfold Station.takesPart
    obtain number | number := number <;> rw [number] <;> rfl
  refine ⟨fun kind dest body owner => by rw [listens]; rfl, fun h p => ?_, fun h font => ?_⟩
  · have ignored : s.frameEnded.hearPosting p = s.frameEnded := by
      unfold State.hearPosting
      split
      · refine if_neg fun taken => ?_
        rw [State.canTake_of_listening (s := s.frameEnded) listens] at taken
        exact absurd taken.2 nofun
      · rfl
    exact congrArg Host.Outcome.next (State.onFrame_of_ignored ignored)
  · have ignored : s.frameEnded.mayOffer h font = false := by
      have listens' : s.frameEnded.station.takesPart = false := listens
      unfold State.mayOffer
      rw [listens']
      rfl
    exact congrArg Host.Outcome.next (State.onFrame_of_ignored (if_neg (by rw [ignored]; exact nofun)))

/-- Settles O10, from the five sorts of frames that reach no block. -/
theorem framesReachNoBlock : Obligations.FramesReachNoBlock :=
  ⟨claims_badFramesReachNoBlock, claims_unheardFramesChangeNothing,
    fun _ _ _ _ _ _ _ =>
      ⟨congrArg Host.Outcome.next (State.onFrame_of_ignored rfl), congrArg Host.Outcome.next (State.onFrame_of_ignored rfl)⟩,
    claims_quietPeriod, claims_listeningStation⟩

end Sys2Proof.Machine
end

section
/-! SUPPORT for the proofs below. A galley with a record that waits at the exposure walk stays held while the queue settles, with
its suspension; and where the composer has no record on its hands, with its counters. -/

namespace Sys2Proof.Machine

variable {s t u : State} {fixed : Prop} {id : GalleyId}

/-! ## Records that wait at the exposure walk -/

/-- The record waits at the exposure walk, or is being exposed. -/
structure QueueRecord.Unexposed (r : QueueRecord) : Prop where
  attached : r.attached = true
  exposed : r.exposed = false
  needs : r.line.needsExposure = true

theorem QueueRecord.Unexposed.not_spent {r : QueueRecord} (h : r.Unexposed) : r.spent = false := by
  simp [QueueRecord.spent, h.attached]

theorem QueueRecord.Unexposed.not_finished {r : QueueRecord} (h : r.Unexposed) : r.finished = false := by
  simp [QueueRecord.finished, h.exposed]

/-- Such records stay in the queue; no more than the mark of the proof walk comes to them. -/
def State.UnexposedStay (s t : State) : Prop :=
  ∀ r ∈ s.queue, r.Unexposed → ∃ q ∈ t.queue, q = { r with proofed := q.proofed }

theorem State.UnexposedStay.of_subset (sub : ∀ r ∈ s.queue, r.Unexposed → r ∈ t.queue) : State.UnexposedStay s t :=
  fun r mem un => ⟨r, sub r mem un, rfl⟩

theorem State.UnexposedStay.of_queue (same : t.queue = s.queue) : State.UnexposedStay s t :=
  .of_subset fun r mem _ => by rw [same]; exact mem

theorem QueueRecord.Unexposed.of_proofed {q r : QueueRecord} (h : r.Unexposed) (same : q = { r with proofed := q.proofed }) :
    q.Unexposed := by
  rw [same]
  exact ⟨h.attached, h.exposed, h.needs⟩

theorem State.UnexposedStay.trans (h : State.UnexposedStay s t) (k : State.UnexposedStay t u) : State.UnexposedStay s u := by
  intro r mem un
  obtain ⟨q, mem', same⟩ := h r mem un
  obtain ⟨p, mem'', same'⟩ := k q mem' (un.of_proofed same)
  refine ⟨p, mem'', ?_⟩
  rw [same'] at *
  rw [same]

theorem mem_markExposure_of_unexposed {queue : List QueueRecord} {r : QueueRecord} (mem : r ∈ queue) (un : r.Unexposed) :
    r ∈ markExposure queue := by
  induction queue with
  | nil => exact absurd mem List.not_mem_nil
  | cons q rest ih =>
    unfold markExposure
    split
    · split
      · exact mem
      · rename_i walks needless
        obtain rfl | mem := List.mem_cons.mp mem
        · exact absurd un.needs needless
        · exact List.mem_cons_of_mem _ (ih mem)
    · obtain rfl | mem := List.mem_cons.mp mem
      · exact List.mem_cons_self
      · exact List.mem_cons_of_mem _ (ih mem)

theorem mem_markProof_of_mem {queue : List QueueRecord} {r : QueueRecord} (mem : r ∈ queue) :
    ∃ q ∈ markProof queue, q = { r with proofed := q.proofed } := by
  induction queue with
  | nil => exact absurd mem List.not_mem_nil
  | cons p rest ih =>
    have further {q : QueueRecord} (mem : r ∈ rest) : ∃ x ∈ q :: markProof rest, x = { r with proofed := x.proofed } :=
      (ih mem).imp fun _ => .imp_left (List.mem_cons_of_mem _)
    unfold markProof
    split
    · split
      · exact ⟨r, mem, rfl⟩
      · obtain rfl | mem := List.mem_cons.mp mem
        · exact ⟨_, List.mem_cons_self, rfl⟩
        · exact further mem
    · obtain rfl | mem := List.mem_cons.mp mem
      · exact ⟨_, List.mem_cons_self, rfl⟩
      · exact further mem

theorem State.UnexposedStay.markNotNeeded (s : State) : State.UnexposedStay s s.markNotNeeded :=
  fun _ mem un => mem_markProof_of_mem (mem_markExposure_of_unexposed mem un)

theorem State.UnexposedStay.appendRecord (s : State) (r : SetLine) : State.UnexposedStay s (s.appendRecord r) :=
  .of_subset fun q mem _ => by rw [State.appendRecord_queue]; exact List.mem_append_left _ mem

theorem State.UnexposedStay.takeWaiting (s : State) : State.UnexposedStay s s.takeWaiting := by
  unfold State.takeWaiting
  split
  · split
    · exact State.UnexposedStay.appendRecord s _
    · exact .of_queue rfl
  · exact .of_queue rfl

theorem State.releaseComposer_queue (s : State) : s.releaseComposer.queue = s.queue := rfl

theorem State.freeComposer_queue (s : State) (id : GalleyId) : (s.freeComposer id).queue = s.queue := by
  unfold State.freeComposer
  split <;> rfl

theorem State.checkDone_queue (s : State) (id : GalleyId) : (s.checkDone id).queue = s.queue := by
  unfold State.checkDone
  split
  · rfl
  split
  · rfl
  split
  · rw [State.finishGalley_queue, State.freeComposer_queue]
  · rfl

/-- What a departure is: a spent record, or the finished head, and what follows from its leaving (R89, R91). -/
theorem State.departure_cases (left : s.departure = some t) :
    ∃ q : List QueueRecord, q.Sublist s.queue ∧ (∀ r ∈ s.queue, r.Unexposed → r ∈ q) ∧
      (t = State.takeWaiting (State.recount { s with queue := q }) ∨
        ∃ id, t = State.checkDone (State.takeWaiting (State.recount { s with queue := q })) id) := by
  unfold State.departure at left
  split at left
  · rename_i i found
    cases left
    refine ⟨_, List.eraseIdx_sublist .., fun r mem un => ?_, .inl rfl⟩
    obtain ⟨bound, spent, -⟩ := List.findIdx?_eq_some_iff_getElem.mp found
    obtain ⟨j, hj, rfl⟩ := List.mem_iff_getElem.mp mem
    refine List.mem_eraseIdx_iff_getElem.mpr ⟨j, hj, ?_, rfl⟩
    rintro rfl
    exact absurd spent (by rw [un.not_spent]; exact nofun)
  split at left
  · rename_i r rest queue
    split at left
    · rename_i finished
      cases left
      refine ⟨rest, by rw [queue]; exact List.sublist_cons_self .., fun q mem un => ?_, .inr ⟨_, rfl⟩⟩
      rw [queue] at mem
      obtain rfl | mem := List.mem_cons.mp mem
      · exact absurd finished (by rw [un.not_finished]; exact nofun)
      · exact mem
    · cases left
  · cases left

theorem State.UnexposedStay.departure (left : s.departure = some t) : State.UnexposedStay s t := by
  obtain ⟨q, -, stays, rfl | ⟨id, rfl⟩⟩ := State.departure_cases left
  · exact State.UnexposedStay.trans (t := State.recount { s with queue := q }) (.of_subset stays) (.takeWaiting _)
  · exact (State.UnexposedStay.trans (t := State.recount { s with queue := q }) (.of_subset stays) (.takeWaiting _)).trans
      (.of_queue (State.checkDone_queue ..))

theorem State.UnexposedStay.perform (s : State) (g : Galley) (task : Task) (rest : List Task) :
    State.UnexposedStay s (s.perform g task rest) := by
  unfold State.perform
  dsimp only
  cases task with
  | offer r =>
    dsimp only
    split
    · exact State.UnexposedStay.appendRecord (s.mapComposer fun c => { c with todo := rest }) r
    · exact .of_queue rfl
  | finish => exact .of_queue (State.finishComposition_queue ..)
  | ask => exact .of_queue (State.askNext_queue _)
  | test | space | begin | close | closeLast | closeCut => exact .of_queue rfl

theorem State.composerTask_cases (done : s.composerTask = some t) :
    ∃ g task rest, s.workingGalley = some g ∧ s.composer.todo = task :: rest ∧ t = State.recount (s.perform g task rest) := by
  unfold State.composerTask at done
  split at done
  · rename_i task rest g state todo works
    cases done
    exact ⟨g, task, rest, works, todo, rfl⟩
  · cases done

theorem State.UnexposedStay.settleStep (done : s.settleStep = some t) : State.UnexposedStay s t := by
  unfold State.settleStep at done
  dsimp only at done
  split at done
  · rename_i left
    cases done
    exact (State.UnexposedStay.markNotNeeded s).trans (.departure left)
  · obtain ⟨g, task, rest, -, -, rfl⟩ := State.composerTask_cases done
    exact (State.UnexposedStay.markNotNeeded s).trans (State.UnexposedStay.perform _ g task rest)

theorem State.UnexposedStay.settle (s : State) : State.UnexposedStay s s.settle := by
  have settles (fuel : Nat) (s : State) : State.UnexposedStay s (State.settleFor fuel s) := by
    induction fuel generalizing s with
    | zero => exact .markNotNeeded s
    | succ fuel ih =>
      unfold State.settleFor
      split
      · exact (State.UnexposedStay.settleStep ‹_›).trans (ih _)
      · exact .markNotNeeded s
  exact settles _ s

/-! ## The galley of such a record -/

/-- A galley's record goes on as `g'`: its suspension and its cancel stand, and where `fixed` holds its counters. -/
structure Galley.Stays (fixed : Prop) (g g' : Galley) : Prop where
  suspended : g.state = .suspended → g'.state = .suspended ∧ g'.suspension = g.suspension
  cancel : g'.cancelPending = g.cancelPending
  counters : fixed → g'.counters = g.counters

theorem Galley.Stays.refl (g : Galley) : g.Stays fixed g := ⟨fun h => ⟨h, rfl⟩, rfl, fun _ => rfl⟩

theorem Galley.Stays.trans {a b c : Galley} (h : a.Stays fixed b) (k : b.Stays fixed c) : a.Stays fixed c where
  suspended state := by
    obtain ⟨state', why⟩ := h.suspended state
    obtain ⟨state'', why'⟩ := k.suspended state'
    exact ⟨state'', why'.trans why⟩
  cancel := k.cancel.trans h.cancel
  counters f := (k.counters f).trans (h.counters f)

theorem Galley.Stays.of_uncredited {g g' : Galley} (same : g'.uncredited = g.uncredited) : g.Stays fixed g' := by
  have state : g'.state = g.state := congrArg (fun g => g.state) same
  have why : g'.suspension = g.suspension := congrArg (fun g => g.suspension) same
  exact ⟨fun h => ⟨state.trans h, why⟩, congrArg (fun g => g.cancelPending) same, fun _ => congrArg (fun g => g.counters) same⟩

/-- The galley of this id, if it is held, is held on. -/
def State.GalleyStays (fixed : Prop) (id : GalleyId) (s t : State) : Prop :=
  ∀ g, s.galleys.find id = some g → ∃ g', t.galleys.find id = some g' ∧ g.Stays fixed g'

theorem State.GalleyStays.of_same (same : t.galleys.find id = s.galleys.find id) : State.GalleyStays fixed id s t :=
  fun g held => ⟨g, same.trans held, .refl g⟩

theorem State.GalleyStays.refl (s : State) : State.GalleyStays fixed id s s := .of_same rfl

theorem State.GalleyStays.trans (h : State.GalleyStays fixed id s t) (k : State.GalleyStays fixed id t u) :
    State.GalleyStays fixed id s u := by
  intro g held
  obtain ⟨g', held', stays⟩ := h g held
  obtain ⟨g'', held'', stays'⟩ := k g' held'
  exact ⟨g'', held'', stays.trans stays'⟩

theorem State.GalleyStays.updateGalley (s : State) (i : GalleyId) {f : Galley → Galley} (keeps : ∀ g, (f g).id = g.id)
    (stays : ∀ g, s.galleys.find i = some g → g.Stays fixed (f g)) :
    State.GalleyStays fixed id s (s.mapGalleys fun gu => gu.update i f) := by
  intro g held
  refine ⟨if g.id = i then f g else g, ?_, ?_⟩
  · show (s.galleys.update i f).find id = _
    rw [GalleyUnit.find_update keeps, held, Option.map_some]
  · split
    · rename_i same
      exact stays g (by rw [← same, GalleyUnit.find_id held]; exact held)
    · exact .refl g

theorem State.GalleyStays.evaluateCredit (s : State) : State.GalleyStays fixed id s s.evaluateCredit := by
  intro g held
  obtain ⟨g', held', same⟩ := s.evaluateCredit_find held
  exact ⟨g', held', .of_uncredited same⟩

theorem State.GalleyStays.report (s : State) (i : GalleyId) (event : ReportEvent) (reason : Nat) :
    State.GalleyStays fixed id s (s.report i event reason) :=
  .of_same (by rw [State.report_galleys])

theorem GalleyUnit.find_filter_of_ne (gu : GalleyUnit) {i : GalleyId} (ne : i ≠ id) :
    GalleyUnit.find { gu with table := gu.table.filter fun g => g.id ≠ i } id = gu.find id := by
  unfold GalleyUnit.find
  dsimp only
  rw [List.find?_filter]
  congr 1
  funext g
  by_cases own : g.id = id
  · simp [own, Ne.symm ne]
  · simp [own]

theorem State.GalleyStays.removeGalley (s : State) {i : GalleyId} (ne : i ≠ id) :
    State.GalleyStays fixed id s (s.removeGalley i) :=
  State.GalleyStays.trans (t := s.mapGalleys fun gu => { gu with table := gu.table.filter fun g => g.id ≠ i })
    (.of_same (GalleyUnit.find_filter_of_ne _ ne)) (.evaluateCredit _)

theorem State.GalleyStays.finishGalley (s : State) {i : GalleyId} (ne : i ≠ id) :
    State.GalleyStays fixed id s (s.finishGalley i) := (State.GalleyStays.report s i .done 0).trans (.removeGalley _ ne)

theorem State.GalleyStays.freeComposer (s : State) (i : GalleyId) : State.GalleyStays fixed id s (s.freeComposer i) := by
  unfold State.freeComposer
  split
  · exact .of_same rfl
  · exact .refl s

theorem State.GalleyStays.suspend (s : State) (i : GalleyId) (why : Suspension) :
    State.GalleyStays fixed id s (s.suspend i why) := by
  by_cases active : ∃ g, s.galleys.find i = some g ∧ g.Suspendable
  · obtain ⟨g, held, active⟩ := active
    have suspended : State.GalleyStays fixed id s (s.mapGalleys fun gu => gu.update i (Galley.suspendedFor why)) := by
      refine .updateGalley s i (fun _ => rfl) fun g' held' => ?_
      obtain rfl := Option.some.inj (held.symm.trans held')
      refine ⟨fun already => ?_, rfl, fun _ => rfl⟩
      rcases active with state | state <;> exact absurd (state.symm.trans already) nofun
    exact suspended.trans (.of_same (by rw [State.suspend_of_suspendable held active]; rfl))
  · rw [State.suspend_of_not_suspendable fun g held rest => active ⟨g, held, rest⟩]
    exact .refl s

theorem State.GalleyStays.appendRecord (s : State) (r : SetLine) (loose : ¬ fixed) :
    State.GalleyStays fixed id s (s.appendRecord r) := by
  have counted : State.GalleyStays fixed id s
      (s.mapGalleys fun gu => gu.update r.galley fun g => { g with counters := g.counters.appended r.flags }) :=
    .updateGalley s r.galley (fun _ => rfl) fun g _ => ⟨fun h => ⟨h, rfl⟩, rfl, fun f => absurd f loose⟩
  have added : State.GalleyStays fixed id s
      { s with
        queue := s.queue ++
          [{ line := r, exposed := false, proofed := false, attached := true, exposing := false, rasterizing := false }]
        galleys := s.galleys.update r.galley fun g => { g with counters := g.counters.appended r.flags }
        fonts := s.fonts.stampUse r.fonts } := counted
  unfold State.appendRecord
  dsimp only
  split
  · exact added.trans (.suspend _ _ _)
  · exact added

theorem State.GalleyStays.takeWaiting (s : State) (hands : fixed → s.EmptyHanded) :
    State.GalleyStays fixed id s s.takeWaiting := by
  unfold State.takeWaiting
  split
  · rename_i waiting
    split
    · have loose : ¬ fixed := fun f => absurd (waiting.symm.trans (hands f).1) nofun
      exact State.GalleyStays.trans (.appendRecord s _ loose) (.of_same rfl)
    · exact .refl s
  · exact .refl s

/-- The galley is bound to stay: a record of it waits at the exposure walk, or its cancel does, at empty hands. -/
def State.Bound (fixed : Prop) (id : GalleyId) (s : State) : Prop :=
  (∃ r ∈ s.queue, r.Unexposed ∧ r.line.galley = id) ∨ fixed ∧ ∃ g, s.galleys.find id = some g ∧ g.cancelPending = true

theorem State.Bound.of_stays (bound : s.Bound fixed id) (records : State.UnexposedStay s t)
    (galley : State.GalleyStays fixed id s t) : t.Bound fixed id := by
  obtain ⟨r, mem, un, own⟩ | ⟨f, g, held, cancelled⟩ := bound
  · obtain ⟨q, mem', same⟩ := records r mem un
    exact .inl ⟨q, mem', un.of_proofed same, by rw [same]; exact own⟩
  · obtain ⟨g', held', stays⟩ := galley g held
    exact .inr ⟨f, g', held', stays.cancel.trans cancelled⟩

theorem State.hasRecords_of_unexposed {r : QueueRecord} (mem : r ∈ s.queue) (un : r.Unexposed) (own : r.line.galley = id) :
    s.hasRecords id = true :=
  List.any_eq_true.mpr ⟨r, mem, by simp [un.attached, own]⟩

theorem State.GalleyStays.checkDone (s : State) (i : GalleyId) (bound : s.Bound fixed id) :
    State.GalleyStays fixed id s (s.checkDone i) := by
  unfold State.checkDone
  split
  · exact .refl s
  rename_i g held
  split
  · exact .refl s
  rename_i free
  split
  · refine (State.GalleyStays.freeComposer s i).trans (.finishGalley _ ?_)
    rintro rfl
    obtain ⟨r, mem, un, own⟩ | ⟨-, g', held', cancelled⟩ := bound
    · exact free (.inl (by rw [State.hasLines, State.hasRecords_of_unexposed mem un own, Bool.true_or]))
    · obtain rfl := Option.some.inj (held.symm.trans held')
      exact free (.inr cancelled)
  · exact .refl s

theorem State.GalleyStays.departure (left : s.departure = some t) (hands : fixed → s.EmptyHanded)
    (bound : s.Bound fixed id) : State.GalleyStays fixed id s t := by
  obtain ⟨q, fewer, stays, cases⟩ := State.departure_cases left
  let gone := State.recount { s with queue := q }
  have taken : State.GalleyStays fixed id s gone.takeWaiting :=
    State.GalleyStays.trans (t := gone) (.of_same rfl) (.takeWaiting gone hands)
  obtain rfl | ⟨i, rfl⟩ := cases
  · exact taken
  · refine taken.trans (.checkDone _ i (bound.of_stays ?_ taken))
    exact State.UnexposedStay.trans (t := gone) (.of_subset stays) (.takeWaiting _)

theorem State.enterDraining_stays (s : State) {i : GalleyId} (bound : s.Bound False id)
    (active : ∀ g, s.galleys.find i = some g → g.state ≠ .suspended) : State.GalleyStays False id s (s.enterDraining i) := by
  have drained : State.GalleyStays False id s (State.evaluateCredit (s.mapGalleys fun gu => gu.update i fun g =>
      { g with
        state := .draining, suspension := none, compositionEnded := true, segments := [], unitsRead := 0,
        granted := none })) :=
    (State.GalleyStays.updateGalley s i (f := fun g =>
      { g with
        state := .draining, suspension := none, compositionEnded := true, segments := [], unitsRead := 0,
        granted := none }) (fun _ => rfl)
      fun g held => ⟨fun already => absurd already (active g held), rfl, False.elim⟩).trans (.evaluateCredit _)
  unfold State.enterDraining
  dsimp only
  split
  · exact drained
  · rename_i free
    refine drained.trans (.finishGalley _ ?_)
    rintro rfl
    obtain ⟨r, mem, un, own⟩ | ⟨f, -⟩ := bound
    · refine free (Bool.or_eq_true_iff.mpr (.inl ?_))
      exact State.hasRecords_of_unexposed (s := State.evaluateCredit _) mem un own
    · exact f.elim

theorem State.finishComposition_stays (s : State) (i : GalleyId) (bound : s.Bound False id) :
    State.GalleyStays False id s (s.finishComposition i) := by
  have released : State.GalleyStays False id s s.releaseComposer := .of_same rfl
  unfold State.finishComposition
  dsimp only
  split
  · exact released
  rename_i g held
  split
  · exact (released.trans (.updateGalley _ i (f := fun g => { g with compositionEnded := true }) (fun _ => rfl)
      fun g _ => ⟨fun h => ⟨h, rfl⟩, rfl, False.elim⟩)).trans (.evaluateCredit _)
  · rename_i active
    refine released.trans (State.enterDraining_stays _ ?_ fun g' held' => ?_)
    · exact bound.imp_right fun h => h.1.elim
    · obtain rfl := Option.some.inj (held.symm.trans held')
      exact active

theorem State.perform_stays (s : State) (g : Galley) (task : Task) (rest : List Task) (bound : s.Bound False id) :
    State.GalleyStays False id s (s.perform g task rest) := by
  have taken : State.GalleyStays False id s (s.mapComposer fun c => { c with todo := rest }) := .of_same rfl
  unfold State.perform
  dsimp only
  cases task with
  | offer r =>
    dsimp only
    split
    · exact taken.trans (.appendRecord _ r not_false)
    · exact .of_same rfl
  | finish => exact taken.trans (State.finishComposition_stays _ _ (bound.imp_right fun h => h.1.elim))
  | ask =>
    refine taken.trans ?_
    intro g held
    obtain ⟨⟨g', held', same⟩, -⟩ := State.askNext_galley _ held
    exact ⟨g', held', .of_uncredited same⟩
  | test | space | begin | close | closeLast | closeCut => exact .of_same rfl

theorem State.GalleyStays.settleStep (done : s.settleStep = some t) (hands : fixed → s.EmptyHanded)
    (bound : s.Bound fixed id) : State.GalleyStays fixed id s t := by
  have marked : State.GalleyStays fixed id s s.markNotNeeded := .of_same rfl
  have bound' := bound.of_stays (.markNotNeeded s) marked
  unfold State.settleStep at done
  dsimp only at done
  split at done
  · rename_i left
    cases done
    exact marked.trans (.departure left hands bound')
  · obtain ⟨g, task, rest, -, todo, rfl⟩ := State.composerTask_cases done
    have loose : ¬ fixed := fun f => absurd ((hands f).2.symm.trans todo) nofun
    have false_of : fixed = False := eq_false loose
    subst false_of
    exact marked.trans ((State.perform_stays _ g task rest bound').trans (.of_same rfl))

theorem State.GalleyStays.settle (s : State) (hands : fixed → s.EmptyHanded) (bound : s.Bound fixed id) :
    State.GalleyStays fixed id s s.settle := by
  have settles (fuel : Nat) (s : State) (hands : fixed → s.EmptyHanded) (bound : s.Bound fixed id) :
      State.GalleyStays fixed id s (State.settleFor fuel s) := by
    induction fuel generalizing s with
    | zero => exact .of_same rfl
    | succ fuel ih =>
      unfold State.settleFor
      split
      · rename_i t done
        have step := State.GalleyStays.settleStep done hands bound
        exact step.trans (ih t (fun f => (State.QueueFrom.settleStep done).hands (hands f))
          (bound.of_stays (.settleStep done) step))
      · exact .of_same rfl
  exact settles _ s hands bound

theorem State.GalleyStays.examine (s : State) (old : Option (GalleyId × Nat)) :
    State.GalleyStays fixed id s (s.examine old) := by
  intro g held
  obtain same | ⟨g', why, held', active, -, suspended⟩ := (s.examine_examined old).records id
  · exact ⟨g, same.trans held, .refl g⟩
  · obtain rfl := Option.some.inj (held.symm.trans held')
    refine ⟨_, suspended, fun already => ?_, rfl, fun _ => rfl⟩
    rcases active with state | state <;> exact absurd (state.symm.trans already) nofun

/-- A galley that is bound stays held behind an event. -/
theorem State.GalleyStays.event (s : State) (f : State → State) (hands : fixed → (f s).EmptyHanded)
    (bound : (f s).Bound fixed id) : State.GalleyStays fixed id (f s) (s.event f) :=
  (State.GalleyStays.settle _ hands bound).trans (State.GalleyStays.examine _ _)

end Sys2Proof.Machine
end

section
/-! SUPPORT for the proofs below: the exposure in progress, its positions, its stages, and its end. -/

namespace Sys2Proof.Machine

variable {s t : State}

/-! ## The end of an exposure (R136, R138) -/

/-- The controller READY, with no exposure in progress. -/
def State.leftExposing (s : State) : State := { s with imaging := { s.imaging with state := .ready, exposure := none } }

theorem State.leaveExposing_kept (s : State) : State.MachineryKept s.leftExposing s.leaveExposing :=
  s.leftExposing.kept_of (l := s.line) (gu := s.galleys) (c := s.composer) (fs := s.fonts) (.refl _) (.refl _) (.refl _)

/-- The exposure of `r` ended with its mark, its counter and its stamps, before the queue acts (R138). -/
def State.exposureEnded (s : State) (r : QueueRecord) : State :=
  let marked : State :=
    if r.attached then
      { s with
        queue := s.queue.map fun r => if r.exposing then { r with exposed := true } else r
        galleys := s.galleys.update r.line.galley fun g =>
          { g with counters := { g.counters with exposed := raised g.counters.exposed } } }
    else s
  (marked.mapFonts fun fs => fs.stampUse r.line.fonts).leaveExposing

theorem State.endExposure_of_record {r : QueueRecord} (record : s.exposingRecord = some r) :
    s.endExposure = (s.exposureEnded r).settle.applyCancel r.line.galley := by
  unfold State.endExposure
  rw [record]
  rfl

theorem State.exposureEnded_kept (s : State) (r : QueueRecord) : State.MachineryKept s.leftExposing (s.exposureEnded r) := by
  unfold State.exposureEnded
  dsimp only
  split
  · exact s.leftExposing.kept_of (l := s.line) (c := s.composer) (.refl _) (GalleyUnit.update_kept _ _ _ fun _ => rfl)
      (FontStore.stampUse_kept ..)
  · exact s.leftExposing.kept_of (l := s.line) (gu := s.galleys) (c := s.composer) (.refl _) (.refl _)
      (FontStore.stampUse_kept ..)

theorem State.endExposure_kept (s : State) : State.MachineryKept s.leftExposing s.endExposure := by
  cases record : s.exposingRecord with
  | none =>
    unfold State.endExposure
    rw [record]
    exact s.leaveExposing_kept
  | some r =>
    rw [State.endExposure_of_record record]
    exact (s.exposureEnded_kept r).trans ((State.settle_kept _).trans (State.applyCancel_kept _ _))

theorem State.stopExposure_of_none (none' : s.imaging.exposure = none) (why : Suspension) : s.stopExposure why = s := by
  unfold State.stopExposure
  rw [none']

/-- The exposure of `r` stopped, with its galley's suspension, before the queue acts (R136). -/
def State.exposureStopped (s : State) (r : QueueRecord) (why : Suspension) : State :=
  if r.attached then s.leaveExposing.suspend r.line.galley why else s.leaveExposing

theorem State.stopExposure_of_record {e : Exposure} {r : QueueRecord} (exposure : s.imaging.exposure = some e)
    (record : s.exposingRecord = some r) (why : Suspension) :
    s.stopExposure why = (s.exposureStopped r why).settle.applyCancel r.line.galley := by
  unfold State.stopExposure
  rw [exposure, record]
  rfl

theorem State.stopExposure_kept {e : Exposure} (exposure : s.imaging.exposure = some e) (why : Suspension) :
    State.MachineryKept s.leftExposing (s.stopExposure why) := by
  cases record : s.exposingRecord with
  | none =>
    unfold State.stopExposure
    rw [exposure, record]
    exact s.leaveExposing_kept
  | some r =>
    rw [State.stopExposure_of_record exposure record]
    refine State.MachineryKept.trans ?_ ((State.settle_kept _).trans (State.applyCancel_kept _ _))
    unfold State.exposureStopped
    split
    · exact s.leaveExposing_kept.trans (State.suspend_kept ..)
    · exact s.leaveExposing_kept

/-- An exposure stopped leaves the galley of its record suspended, where the galley was composed (R136). -/
theorem State.stopExposure_suspends {e : Exposure} {r : QueueRecord} {g : Galley} (exposure : s.imaging.exposure = some e)
    (record : s.exposingRecord = some r) (un : r.Unexposed) (held : s.galleys.find r.line.galley = some g)
    (active : g.Suspendable) (wanted : g.cancelPending = false) (why : Suspension) :
    (∃ g', (s.stopExposure why).galleys.find r.line.galley = some g' ∧ g'.state = .suspended ∧ g'.suspension = some why) ∧
      (s.stopExposure why).Bound False r.line.galley := by
  let stopped := s.exposureStopped r why
  have suspend : stopped = s.leaveExposing.suspend r.line.galley why := if_pos un.attached
  have held' : s.leaveExposing.galleys.find r.line.galley = some g := held
  have suspended : stopped.galleys.find r.line.galley = some (g.suspendedFor why) := by
    rw [suspend, State.suspend_of_suspendable held' active]
    exact State.find_update_self (s := s.leaveExposing) (f := Galley.suspendedFor why) (fun _ => rfl) held'
  have waits : stopped.Bound False r.line.galley := by
    refine .inl ⟨{ r with exposing := false }, ?_, ⟨un.attached, un.exposed, un.needs⟩, rfl⟩
    rw [suspend, State.suspend_queue]
    exact List.mem_map.mpr ⟨r, List.mem_of_find?_eq_some record, rfl⟩
  have settles := State.GalleyStays.settle stopped False.elim waits
  obtain ⟨g', held'', stays⟩ := settles _ suspended
  obtain ⟨state, reason⟩ := stays.suspended rfl
  have uncancelled : stopped.settle.applyCancel r.line.galley = stopped.settle := by
    unfold State.applyCancel
    rw [held'']
    exact if_neg (by rw [stays.cancel]; exact fun h => absurd (wanted.symm.trans h) nofun)
  rw [State.stopExposure_of_record exposure record, uncancelled]
  exact ⟨⟨g', held'', state, reason⟩, waits.of_stays (.settle _) settles⟩

/-! ## Positions (R135) -/

/-- The positions of the characters of a run list, in their order. -/
def positionsOf (runs : List Run) : List (Nat × Nat) :=
  runs.zipIdx.flatMap fun (r, i) => (List.range r.chars.length).map fun j => (i, j)

theorem mem_positionsOf {runs : List Run} {i j : Nat} :
    (i, j) ∈ positionsOf runs ↔ ∃ run, runs[i]? = some run ∧ j < run.chars.length := by
  simp only [positionsOf, List.mem_flatMap, List.mem_map, List.mem_range, Prod.mk.injEq, Prod.exists]
  constructor
  · rintro ⟨run, k, mem, j', short, rfl, rfl⟩
    exact ⟨run, List.mem_zipIdx_iff_getElem?.mp mem, short⟩
  · rintro ⟨run, there, short⟩
    exact ⟨run, i, List.mem_zipIdx_iff_getElem?.mpr there, j, short, rfl, rfl⟩

theorem positionsOf_sorted (runs : List Run) :
    (positionsOf runs).Pairwise fun a b => a.1 < b.1 ∨ a.1 = b.1 ∧ a.2 < b.2 := by
  unfold positionsOf
  rw [List.pairwise_flatMap]
  constructor
  · rintro ⟨run, i⟩ -
    exact List.pairwise_map.mpr (List.pairwise_lt_range.imp fun {a b} before => .inr ⟨rfl, before⟩)
  · have indices : (runs.zipIdx.map Prod.snd).Pairwise (· < ·) := by
      rw [List.zipIdx_map_snd]
      exact List.pairwise_lt_range'
    refine (List.pairwise_map.mp indices).imp fun {a b} before x memx y memy => .inl ?_
    obtain ⟨_, -, rfl⟩ := List.mem_map.mp memx
    obtain ⟨_, -, rfl⟩ := List.mem_map.mp memy
    exact before

/-- A position of a run list that has a character is the next position from itself on. -/
theorem nextPosition_self {runs : List Run} {run : Run} {i j : Nat} (there : runs[i]? = some run)
    (char : j < run.chars.length) : nextPosition runs i j = some (i, j) := by
  obtain ⟨before, behind, order⟩ := List.append_of_mem (mem_positionsOf.mpr ⟨run, there, char⟩)
  have sorted := positionsOf_sorted runs
  rw [order, List.pairwise_append] at sorted
  refine List.find?_eq_some_iff_append.mpr ⟨by simp, before, behind, order, fun p mem => ?_⟩
  have earlier := sorted.2.2 p mem (i, j) List.mem_cons_self
  dsimp only at earlier
  simp only [Bool.not_or, Bool.not_and, Bool.and_eq_true, Bool.or_eq_true, Bool.not_eq_true', decide_eq_false_iff_not]
  omega

/-- A run list with a character has a first position. -/
theorem nextPosition_isSome {runs : List Run} (char : ∃ run ∈ runs, run.chars ≠ []) :
    ∃ i j run, nextPosition runs 0 0 = some (i, j) ∧ runs[i]? = some run ∧ j < run.chars.length := by
  obtain ⟨run, mem, chars⟩ := char
  obtain ⟨i, there⟩ := List.mem_iff_getElem?.mp mem
  have place := mem_positionsOf.mpr ⟨run, there, List.length_pos_iff.mpr chars⟩
  have found : (nextPosition runs 0 0).isSome = true := by
    refine List.find?_isSome.mpr ⟨(i, 0), place, ?_⟩
    simp only [Bool.or_eq_true, Bool.and_eq_true, decide_eq_true_eq]
    omega
  obtain ⟨⟨i', j'⟩, next⟩ := Option.isSome_iff_exists.mp found
  obtain ⟨run', there', short⟩ := mem_positionsOf.mp (List.mem_of_find?_eq_some next)
  exact ⟨i', j', run', next, there', short⟩

theorem nextPosition_eq_none {runs : List Run} (bare : ∀ run ∈ runs, run.chars = []) (i j : Nat) :
    nextPosition runs i j = none := by
  unfold nextPosition
  rw [List.find?_eq_none]
  rintro ⟨i', j'⟩ mem
  obtain ⟨⟨run, k⟩, mem, here⟩ := List.mem_flatMap.mp mem
  have empty := bare run (List.fst_mem_of_mem_zipIdx mem)
  simp [empty] at here

/-! ## The stages -/

/-- The next flash of stage RUNS where the turret stands at its band (R135). -/
theorem State.continueRuns_of_standing {r : SetLine} {e : Exposure} {run : Run} {i j : Nat} {code : Nat} {x : Int}
    (next : nextPosition r.runs e.run e.char = some (i, j)) (there : r.runs[i]? = some run)
    (char : run.chars[j]? = some (code, x)) (stands : s.imaging.turret = .standing (bandOf run.size)) :
    s.continueRuns r e =
      s.mapExposure fun e =>
        { e with
          stage := .runs, run := i, char := j
          flash := some
            { font := run.font, size := run.size, code := code, x := (r.offset : Int) + x,
              intensity := intensityOf (bandOf run.size) e.stockMultiplier r.trim } } := by
  unfold State.continueRuns
  rw [next]
  dsimp only
  rw [there]
  dsimp only
  rw [if_pos (show (s.mapExposure _).imaging.turret = _ from stands), char]
  unfold State.mapExposure State.mapImaging
  dsimp only
  rw [Option.map_map]
  rfl

/-- A flash in another band waits for the turret, which is sent there (R128). -/
theorem State.continueRuns_of_other_band {r : SetLine} {e : Exposure} {run : Run} {i j : Nat}
    (next : nextPosition r.runs e.run e.char = some (i, j)) (there : r.runs[i]? = some run)
    (elsewhere : s.imaging.turret ≠ .standing (bandOf run.size)) :
    s.continueRuns r e =
      (s.mapExposure fun e => { e with stage := .runs, run := i, char := j }).sendTurret (bandOf run.size) := by
  unfold State.continueRuns
  rw [next]
  dsimp only
  rw [there]
  exact if_neg elsewhere

theorem State.continueRuns_of_end {r : SetLine} {e : Exposure} (last : nextPosition r.runs e.run e.char = none) :
    s.continueRuns r e = s.enterCut r := by
  unfold State.continueRuns
  rw [last]

theorem State.enterCut_of_cut {r : SetLine} (cut : r.cutAfter = true) :
    s.enterCut r =
      (s.mapExposure fun e => { e with stage := .cut, flash := none, field := none }).mapTransport
        fun t => t.ask .leadOut 1440 := by
  unfold State.enterCut
  exact if_pos cut

theorem State.enterCut_of_no_cut {r : SetLine} (cut : r.cutAfter = false) :
    s.enterCut r = (s.mapExposure fun e => { e with stage := .cut, flash := none, field := none }).endExposure := by
  unfold State.enterCut
  exact if_neg (by rw [cut]; exact nofun)

theorem State.enterBackground_of_runs {r : QueueRecord} {e : Exposure} (record : s.exposingRecord = some r)
    (exposure : s.imaging.exposure = some e) (plain : r.line.reverse = false ∨ r.line.runs = []) :
    s.enterBackground = s.continueRuns r.line { e with run := 0, char := 0 } := by
  unfold State.enterBackground
  rw [record, exposure]
  refine if_neg ?_
  rintro ⟨reverse, runs⟩
  obtain plain | bare := plain
  · exact absurd (plain.symm.trans reverse) nofun
  · exact runs bare

theorem State.enterBackground_of_reverse {r : QueueRecord} {e : Exposure} (record : s.exposingRecord = some r)
    (exposure : s.imaging.exposure = some e) (reverse : r.line.reverse = true) (runs : r.line.runs ≠ []) :
    s.enterBackground = s.continueBackground r.line := by
  unfold State.enterBackground
  rw [record, exposure]
  exact if_pos ⟨reverse, runs⟩

theorem State.enterBackground_of_none (none' : s.imaging.exposure = none) : s.enterBackground = s := by
  unfold State.enterBackground
  rw [none']
  split
  · rename_i absent
    exact absurd absent nofun
  · rfl

/-! ## What the stages leave unchanged -/

/-- A change of the exposure and the turret alone, or of the transport by the asking of a cut; or the exposure's end. -/
def State.StageGoesOn (s t : State) : Prop :=
  ∃ i : Imaging, ∃ u : Transport, (u = s.transport ∨ u = s.transport.ask .leadOut 1440) ∧
    State.MachineryKept { s with imaging := i, transport := u } t

theorem State.StageGoesOn.of_imaging {i : Imaging} (same : t = { s with imaging := i }) : s.StageGoesOn t :=
  ⟨i, s.transport, .inl rfl, by rw [same]; exact .refl _⟩

theorem State.enterCut_goesOn (s : State) (r : SetLine) : s.StageGoesOn (s.enterCut r) := by
  cases cut : r.cutAfter with
  | true =>
    rw [State.enterCut_of_cut cut]
    exact ⟨_, _, .inr rfl, .refl _⟩
  | false =>
    rw [State.enterCut_of_no_cut cut]
    let cut := s.mapExposure fun e => { e with stage := .cut, flash := none, field := none }
    exact ⟨cut.leftExposing.imaging, s.transport, .inl rfl, cut.endExposure_kept⟩

theorem State.continueRuns_goesOn (s : State) (r : SetLine) (e : Exposure) : s.StageGoesOn (s.continueRuns r e) := by
  unfold State.continueRuns
  split
  · exact s.enterCut_goesOn r
  split
  · exact s.enterCut_goesOn r
  dsimp only
  split
  · split
    · exact .of_imaging rfl
    · exact .of_imaging rfl
  · exact .of_imaging rfl

theorem State.continueBackground_goesOn (s : State) (r : SetLine) : s.StageGoesOn (s.continueBackground r) := by
  unfold State.continueBackground
  dsimp only
  split <;> exact .of_imaging rfl

theorem State.enterBackground_goesOn (s : State) : s.StageGoesOn s.enterBackground := by
  unfold State.enterBackground
  split
  · split
    · exact s.continueBackground_goesOn _
    · exact s.continueRuns_goesOn _ _
  · exact .of_imaging rfl

theorem Transport.ask_counters (u : Transport) (kind : MoveKind) (n : Nat) :
    (u.ask kind n).remaining = u.remaining ∧ (u.ask kind n).drawn = u.drawn ∧ (u.ask kind n).depth = u.depth ∧
      (u.ask kind n).takeUpHeld = u.takeUpHeld ∧ (u.ask kind n).trips = u.trips := by
  unfold Transport.ask
  split <;> exact ⟨rfl, rfl, rfl, rfl, rfl⟩

theorem Transport.ask_of_idle {u : Transport} (idle : u.state = .idle) (kind : MoveKind) (n : Nat) :
    u.ask kind n =
      { u with
        state := if kind = .leadOut then .cutting else .moving
        move := some
          { kind := kind, left := n, phase := if kind = .reverse then .reversing else .stroke (min 40 n)
            ending := false } } := by
  unfold Transport.ask
  exact if_pos idle

end Sys2Proof.Machine
end

section
/-! Strokes that trip (R146, R147), and the warm-up, the standby timer and the turret (R127, R128). -/

namespace Sys2Proof.Machine

variable {s : State}

/-! ## The third over-limit sample (R146) -/

/-- Three successive samples over limit end at sample `n`, counted from 1. -/
def TripleAt (samples : List Bool) (n : Nat) : Prop :=
  2 < n ∧ n ≤ samples.length ∧ samples[n - 3]? = some true ∧ samples[n - 2]? = some true ∧ samples[n - 1]? = some true

/-- Sample `n` is the first at which three successive samples over limit end. -/
def FirstTripleAt (samples : List Bool) (n : Nat) : Prop :=
  TripleAt samples n ∧ ∀ k, k < n → ¬ TripleAt samples k

/-- No three successive samples over limit reach across a sample that is not. -/
theorem tripleAt_append_false {before rest : List Bool} (short : before.length ≤ 2) (k : Nat) :
    TripleAt (before ++ false :: rest) k ↔ before.length + 1 < k ∧ TripleAt rest (k - (before.length + 1)) := by
  have right (j : Nat) (beyond : before.length < j) :
      (before ++ false :: rest)[j]? = rest[j - (before.length + 1)]? := by
    rw [List.getElem?_append_right beyond.le]
    obtain ⟨m, hm⟩ : ∃ m, j - before.length = m + 1 := ⟨j - before.length - 1, by omega⟩
    rw [hm, List.getElem?_cons_succ, show j - (before.length + 1) = m by omega]
  have gap : (before ++ false :: rest)[before.length]? = some false := by
    rw [List.getElem?_append_right (le_refl _), Nat.sub_self, List.getElem?_cons_zero]
  have length : (before ++ false :: rest).length = before.length + 1 + rest.length := by
    rw [List.length_append, List.length_cons]
    omega
  constructor
  · rintro ⟨more, within, first, second, third⟩
    have passed : before.length < k - 3 := by
      by_contra near
      have : before.length = k - 3 ∨ before.length = k - 2 ∨ before.length = k - 1 := by omega
      rcases this with here | here | here <;> rw [here] at gap
      · exact absurd (gap.symm.trans first) (by decide)
      · exact absurd (gap.symm.trans second) (by decide)
      · exact absurd (gap.symm.trans third) (by decide)
    rw [right _ passed] at first
    rw [right _ (by omega)] at second third
    refine ⟨by omega, by omega, by omega, ?_, ?_, ?_⟩
    · rw [← first]; congr 1; omega
    · rw [← second]; congr 1; omega
    · rw [← third]; congr 1; omega
  · rintro ⟨beyond, more, within, first, second, third⟩
    refine ⟨by omega, by omega, ?_, ?_, ?_⟩
    · rw [right _ (by omega), ← first]; congr 1; omega
    · rw [right _ (by omega), ← second]; congr 1; omega
    · rw [right _ (by omega), ← third]; congr 1; omega

theorem firstTripleAt_append_false {before rest : List Bool} (short : before.length ≤ 2) (k : Nat) :
    FirstTripleAt (before ++ false :: rest) k ↔
      before.length + 1 < k ∧ FirstTripleAt rest (k - (before.length + 1)) := by
  unfold FirstTripleAt
  constructor
  · rintro ⟨here, first⟩
    obtain ⟨beyond, triple⟩ := (tripleAt_append_false short k).mp here
    refine ⟨beyond, triple, fun j before' triple' => first (before.length + 1 + j) (by omega) ?_⟩
    refine (tripleAt_append_false short _).mpr ⟨?_, ?_⟩
    · have := triple'.1
      omega
    · rw [show before.length + 1 + j - (before.length + 1) = j by omega]
      exact triple'
  · rintro ⟨beyond, triple, first⟩
    refine ⟨(tripleAt_append_false short k).mpr ⟨beyond, triple⟩, fun j before' triple' => ?_⟩
    obtain ⟨beyond', triple''⟩ := (tripleAt_append_false short j).mp triple'
    exact first _ (by omega) triple''

/-- The count of a run of samples over limit stands for that many samples before those still to come. -/
theorem tripFrom_eq_some (samples : List Bool) (count index n : Nat) (few : count ≤ 2) :
    tripFrom count index samples = some n ↔
      index < n ∧ FirstTripleAt (List.replicate count true ++ samples) (n - index + count) := by
  induction samples generalizing count index with
  | nil =>
    refine ⟨nofun, fun ⟨_, ⟨more, within, _⟩, _⟩ => ?_⟩
    simp at within
    omega
  | cons high rest ih =>
    cases high with
    | false =>
      have short : (List.replicate count true).length ≤ 2 := by simpa using few
      unfold tripFrom
      rw [if_neg nofun, ih 0 (index + 1) (by omega), firstTripleAt_append_false short]
      simp only [List.length_replicate, List.replicate_zero, List.nil_append, Nat.add_zero]
      constructor
      · rintro ⟨after, triple⟩
        refine ⟨by omega, by omega, ?_⟩
        rw [show n - index + count - (count + 1) = n - (index + 1) by omega]
        exact triple
      · rintro ⟨after, beyond, triple⟩
        refine ⟨by omega, ?_⟩
        rw [show n - index + count - (count + 1) = n - (index + 1) by omega] at triple
        exact triple
    | true =>
      have joined : List.replicate count true ++ true :: rest = List.replicate (count + 1) true ++ rest := by
        rw [List.replicate_succ', List.append_assoc]
        rfl
      unfold tripFrom
      rw [if_pos rfl]
      split
      · rename_i third
        obtain rfl : count = 2 := by omega
        have triple : TripleAt (List.replicate 2 true ++ true :: rest) 3 := by
          refine ⟨by omega, by simp, rfl, rfl, rfl⟩
        constructor
        · rintro same
          obtain rfl := Option.some.inj same
          rw [show index + 1 - index + 2 = 3 by omega]
          exact ⟨by omega, triple, fun k before triple' => absurd triple'.1 (by omega)⟩
        · rintro ⟨after, here, first⟩
          congr 1
          by_contra other
          exact first 3 (by omega) triple
      · rw [ih (count + 1) (index + 1) (by omega), joined]
        constructor
        · rintro ⟨after, triple⟩
          refine ⟨by omega, ?_⟩
          rw [show n - (index + 1) + (count + 1) = n - index + count by omega] at triple
          exact triple
        · rintro ⟨after, triple⟩
          have more := triple.1.1
          refine ⟨by omega, ?_⟩
          rw [show n - (index + 1) + (count + 1) = n - index + count by omega]
          exact triple

theorem claims_tripAtThirdOverLimitSample : Claims.TripAtThirdOverLimitSample := by
  intro samples n
  unfold tripSample
  rw [tripFrom_eq_some samples 0 0 n (by omega)]
  simp only [List.replicate_zero, List.nil_append, Nat.sub_zero, Nat.add_zero]
  constructor
  · rintro ⟨_, ⟨more, within, triple⟩, first⟩
    exact ⟨more, within, triple, fun k more' before triple' => first k before ⟨more', by omega, triple'⟩⟩
  · rintro ⟨more, within, triple, first⟩
    exact ⟨by omega, ⟨more, within, triple⟩, fun k before ⟨more', _, triple'⟩ => first k more' before triple'⟩

/-! ## Trips, the hold-off and the jam (R147) -/

theorem exec_strokeTrip_of_tripped {samples : List Bool} {m : Move} {n : Nat} (tripped : trippedSamples samples = true)
    (moves : s.transport.move = some m) (stroke : m.phase = .stroke n) :
    exec (.strokeTrip samples) s = .next (s.event fun s => s.strokeTripped m n) := by
  show execStrokeTrip samples s = _
  unfold execStrokeTrip
  rw [moves]
  dsimp only
  rw [stroke]
  dsimp only
  rw [if_pos tripped]

/-- The transport JAMMED at the eighth trip. -/
def State.jammed (s : State) : State := s.mapTransport fun t => { t with state := .jammed, trips := 8, move := none }

theorem State.strokeTripped_of_eighth {m : Move} (runs : m.ending = false) (seventh : s.transport.trips = 7) (n : Nat) :
    s.strokeTripped m n = s.jammed.stopExposure .jam := by
  unfold State.strokeTripped
  rw [runs, if_neg nofun]
  exact if_neg (by rw [seventh]; decide)

theorem State.FollowUp.transport_of_busy {t u : State} (h : State.FollowUp t u) (busy : t.transport.state ≠ .idle) :
    u.transport = t.transport :=
  h.transport.resolve_right fun film => busy film.1

theorem Imaging.watch_ready {i : Imaging} (ready : i.state = .ready) (next : Bool) : (i.watch next).state = .ready := by
  unfold Imaging.watch
  rw [ready]
  cases next <;> rfl

theorem claims_tripsHoldOffAndJam : Claims.TripsHoldOffAndJam := by
  intro samples m n s tripped moves runs
  refine ⟨fun stroke few => ?_, fun stroke seventh exposing exposes => ?_, fun left waits => ?_⟩
  · have held : s.strokeTripped m n = s.mapTransport fun t =>
        { t with trips := s.transport.trips + 1, move := some { m with phase := .holdOff 10 n } } := by
      unfold State.strokeTripped
      rw [runs, if_neg nofun]
      exact if_pos (show s.transport.trips + 1 < 8 by omega)
    exact State.exists_followUp (exec_strokeTrip_of_tripped tripped moves stroke) held
  · obtain ⟨e, exposure⟩ := Option.isSome_iff_exists.mp exposes
    have jam := State.strokeTripped_of_eighth runs seventh n
    have follow := s.event_followUp fun s => s.strokeTripped m n
    rw [jam] at follow
    have follow' := State.FollowUp.of_kept (State.stopExposure_kept (s := s.jammed) exposure .jam) follow
    refine ⟨_, exec_strokeTrip_of_tripped tripped moves stroke, follow'.transport_of_busy nofun, ?_, ?_,
      fun r g record attached unexposed needs held active wanted _ => ?_⟩
    · rw [follow'.imaging, Imaging.watch_exposure]
      rfl
    · rw [follow'.imaging]
      exact Imaging.watch_ready rfl _
    · obtain ⟨⟨g', held', state, why⟩, bound⟩ := State.stopExposure_suspends (s := s.jammed) exposure record
        ⟨attached, unexposed, needs⟩ held (.inl active) wanted .jam
      rw [← jam] at held' bound
      obtain ⟨g'', held'', stays⟩ := State.GalleyStays.event s (fun s => s.strokeTripped m n) False.elim bound g' held'
      obtain ⟨state', why'⟩ := stays.suspended state
      exact ⟨g'', held'', state', why'.trans why⟩
  · show execHoldOff s = _
    unfold execHoldOff
    rw [moves]
    dsimp only
    rw [waits]
    rfl

/-- Settles O52, from the trips and the sample they fall on. -/
theorem strokeTrips : Obligations.StrokeTrips := ⟨claims_tripsHoldOffAndJam, claims_tripAtThirdOverLimitSample⟩

/-! ## The warm-up, the standby timer and the turret -/

theorem claims_warmUpAndStandby : Claims.WarmUpAndStandby := by
  refine fun s => ⟨fun warming => ?_, fun ready runs => ?_⟩
  · exact State.exists_followUp (congrArg Host.Outcome.next (if_pos warming)) rfl
  · have follow := s.event_followUp fun s => s.mapImaging fun i => { i with state := .standby, standby := none }
    refine ⟨_, congrArg Host.Outcome.next (if_pos ⟨ready, runs⟩), follow, fun none' => ?_, fun waits => ?_⟩
    · rw [follow.imaging, none']
      rfl
    · rw [follow.imaging, waits]
      exact ⟨rfl, rfl⟩

theorem exec_turretMoveEnd_of_moving (moves : ∀ band, s.imaging.turret ≠ .standing band) :
    exec .turretMoveEnd s =
      .next (s.event fun s => (s.mapImaging fun i => { i with turret := i.turret.landed }).turretReady) := by
  show execTurretMoveEnd s = _
  unfold execTurretMoveEnd
  split
  · exact absurd ‹_› (moves _)
  · rfl

theorem State.turretReady_of_none (none' : s.imaging.exposure = none) : s.turretReady = s := by
  unfold State.turretReady
  rw [none']
  split
  · rename_i absent
    exact absurd absent nofun
  · rfl

theorem claims_turretLands : Claims.TurretLands := by
  intro s none'
  have landed : ((s.mapImaging fun i => { i with turret := i.turret.landed }).turretReady) =
      { s with imaging := { s.imaging with turret := s.imaging.turret.landed } } :=
    State.turretReady_of_none (s := s.mapImaging fun i => { i with turret := i.turret.landed }) none'
  refine ⟨fun source target left moves => ?_, fun homes => ?_⟩
  · rw [moves] at landed
    exact State.exists_followUp (exec_turretMoveEnd_of_moving fun band => by rw [moves]; exact nofun) landed
  · rw [homes] at landed
    exact State.exists_followUp (exec_turretMoveEnd_of_moving fun band => by rw [homes]; exact nofun) landed

theorem Turret.sent_of_other {source target : Nat} (ne : source ≠ target) :
    Turret.sent (.standing source) target = .moving source target (40 * ((source - target) + (target - source))) := by
  unfold Turret.sent
  exact if_neg ne

theorem claims_bandsAndMoves : Claims.BandsAndMoves := by
  refine ⟨fun size _ _ => ?_, fun source target => ⟨fun up => ?_, fun down => ?_, if_pos rfl⟩⟩
  · unfold bandOf
    split
    · omega
    split
    · omega
    split <;> omega
  · rw [Turret.sent_of_other (by omega), show (source - target) + (target - source) = target - source by omega]
  · rw [Turret.sent_of_other (by omega), show (source - target) + (target - source) = source - target by omega]

/-! ## The turret inside an exposure -/

theorem exec_flashDone_of_flash {r : QueueRecord} {e : Exposure} (record : s.exposingRecord = some r)
    (exposure : s.imaging.exposure = some e) (flash : e.flash.isSome = true) :
    exec .flashDone s = .next (s.event fun s =>
      (s.mapExposure fun _ => { e with flash := none, char := e.char + 1 }).continueRuns r.line
        { e with flash := none, char := e.char + 1 }) := by
  show execFlashDone s = _
  unfold execFlashDone
  rw [exposure, record]
  exact congrArg Host.Outcome.next (if_pos flash)

/-- The exposure in progress replaced. -/
theorem State.mapExposure_of_some {e : Exposure} (exposure : s.imaging.exposure = some e) (f : Exposure → Exposure) :
    s.mapExposure f = { s with imaging := { s.imaging with exposure := some (f e) } } := by
  exact congrArg (fun x => { s with imaging := { s.imaging with exposure := x } }) (congrArg (Option.map f) exposure)

theorem claims_turretMovesInsideAnExposure : Claims.TurretMovesInsideAnExposure := by
  intro r e i j run s record exposure there
  refine ⟨fun band flash next stands ne => ?_, fun source left code x stage dark next char moves => ?_⟩
  · let dark : Exposure := { e with flash := none, char := e.char + 1 }
    have replaced := State.mapExposure_of_some exposure fun _ => dark
    have elsewhere : (s.mapExposure fun _ => dark).imaging.turret ≠ .standing (bandOf run.size) := by
      show s.imaging.turret ≠ _
      rw [stands]
      exact fun same => ne (Turret.standing.inj same)
    have sent : (s.mapExposure fun _ => dark).continueRuns r.line dark =
        { s with
          imaging :=
            { s.imaging with
              exposure := some { e with stage := .runs, run := i, char := j, flash := none }
              turret := .moving band (bandOf run.size) (40 * ((band - bandOf run.size) + (bandOf run.size - band))) } } := by
      rw [State.continueRuns_of_other_band next there elsewhere, ← Turret.sent_of_other ne, ← stands, replaced]
      rfl
    exact State.exists_followUp (exec_flashDone_of_flash record exposure flash) sent
  · let landed : State := s.mapImaging fun i => { i with turret := i.turret.landed }
    have stands : landed.imaging.turret = .standing (bandOf run.size) := by
      show s.imaging.turret.landed = _
      rw [moves]
      rfl
    have exposure' : landed.imaging.exposure = some e := exposure
    have ready : landed.turretReady = landed.continueRuns r.line e := by
      have record' : landed.exposingRecord = some r := record
      unfold State.turretReady
      rw [record', exposure']
      dsimp only
      rw [stage]
      exact if_pos (by rw [dark]; rfl)
    have flashed : landed.turretReady =
        { s with
          imaging :=
            { s.imaging with
              turret := .standing (bandOf run.size)
              exposure :=
                some
                  { e with
                    stage := .runs, run := i, char := j
                    flash :=
                      some
                        { font := run.font, size := run.size, code := code, x := (r.line.offset : Int) + x,
                          intensity := intensityOf (bandOf run.size) e.stockMultiplier r.line.trim } } } } := by
      rw [ready, State.continueRuns_of_standing next there char stands, State.mapExposure_of_some exposure', ← stands]
      rfl
    exact State.exists_followUp (exec_turretMoveEnd_of_moving fun band => by rw [moves]; exact nofun) flashed

/-- Settles O50, from the timers, the turret outside an exposure and the turret inside one. -/
theorem warmUpStandbyTurret : Obligations.WarmUpStandbyTurret :=
  ⟨claims_warmUpAndStandby, claims_turretLands, claims_bandsAndMoves, claims_turretMovesInsideAnExposure⟩

end Sys2Proof.Machine
end

section
/-! The beginning of an exposure (R64, R131, R132, R135). -/

namespace Sys2Proof.Machine

variable {s : State} {r : QueueRecord}

/-! ## The conditions (R131) -/

theorem State.notCancelled_iff : s.notCancelled r = true ↔
    ∀ g, s.galleys.find r.line.galley = some g → g.cancelPending = false := by
  unfold State.notCancelled
  split
  · rename_i g held
    rw [Bool.not_eq_true']
    exact ⟨fun free g' held' => Option.some.inj (held.symm.trans held') ▸ free, fun free => free g held⟩
  · rename_i absent
    exact ⟨fun _ g held => absurd (absent.symm.trans held) nofun, fun _ => rfl⟩

theorem State.mayExpose_iff : s.mayExpose r = true ↔
    s.station.mode = .running ∧ s.imaging.state = .ready ∧ (∀ f ∈ r.line.fonts, s.fonts.isResident f = true) ∧
      s.transport.state = .idle ∧ r.line.movement.toNat + 1440 ≤ s.transport.remaining ∧
      s.transport.takeUpHeld + r.line.movement.toNat + (if r.line.cutAfter then 1440 else 0) ≤ 2592000 ∧
      ∀ g, s.galleys.find r.line.galley = some g → g.cancelPending = false := by
  unfold State.mayExpose
  simp only [Bool.and_eq_true, beq_iff_eq, List.all_eq_true, State.notCancelled_iff, and_assoc]
  unfold Transport.supplyServes Transport.takeUpServes
  simp only [decide_eq_true_eq]
  rfl

/-! ## The movement (R64) -/

theorem SetLine.resolve_of_nonneg {l : SetLine} (forward : 0 ≤ l.movement) (depth : Nat) :
    l.resolve depth = .forward l.movement.toNat := if_pos forward

theorem SetLine.resolve_of_neg {l : SetLine} (back : l.movement < 0) (depth : Nat) :
    l.resolve depth = .reverse (min (-l.movement).toNat depth) := if_neg (by omega)

theorem SetLine.clamped_eq (l : SetLine) (depth : Nat) : l.clamped depth = decide (l.movement < -(depth : Int)) := by
  unfold SetLine.clamped
  rw [← Bool.decide_and]
  exact decide_eq_decide.mpr (by omega)

theorem claims_movementResolved : Claims.MovementResolved := by
  intro l depth
  have movement : l.movement = (l.leading : Int) + l.advance - l.back := rfl
  rw [← movement, SetLine.clamped_eq, decide_eq_false_iff_not, decide_eq_true_eq]
  refine ⟨fun n resolved => ?_, fun n resolved => ?_⟩
  · by_cases forward : 0 ≤ l.movement
    · rw [SetLine.resolve_of_nonneg forward] at resolved
      cases resolved
      omega
    · rw [SetLine.resolve_of_neg (by omega)] at resolved
      cases resolved
  · by_cases forward : 0 ≤ l.movement
    · rw [SetLine.resolve_of_nonneg forward] at resolved
      cases resolved
    · rw [SetLine.resolve_of_neg (by omega)] at resolved
      cases resolved
      omega

/-! ## The start (R131, R132) -/

/-- The exposure of a record as it begins. -/
def Exposure.start (m : Movement) (multiplier : Nat) : Exposure :=
  { movement := m, stockMultiplier := multiplier, stage := .move, run := 0, char := 0, flash := none, field := none }

/-- The record marked as being exposed, with the REVERSE_CLAMPED flag where its movement is `clamped` (R64). -/
def QueueRecord.begun (r : QueueRecord) (clamped : Bool) : QueueRecord :=
  { r with
    exposing := true
    line := { r.line with flags := { r.line.flags with reverseClamped := r.line.flags.reverseClamped || clamped } } }

/-- The exposure begun, before its movement. -/
def State.exposureBegun (s : State) (r : QueueRecord) : State :=
  { s with
    queue := s.queue.map fun q => if q.attached ∧ q.name = r.name then q.begun (r.line.clamped s.transport.depth) else q
    galleys := s.galleys.update r.line.galley fun g =>
      { g with
        counters :=
          { g.counters with
            reverseClamped := raisedIf (r.line.clamped s.transport.depth && !r.line.flags.reverseClamped)
              g.counters.reverseClamped } }
    imaging :=
      { s.imaging with
        state := .exposing, standby := none
        exposure := some (Exposure.start (r.line.resolve s.transport.depth) (stockMultiplier s.transport.stock)) } }

theorem State.startExposure_eq (s : State) (r : QueueRecord) :
    s.startExposure r = (s.exposureBegun r).enterMove (r.line.resolve s.transport.depth) := rfl

/-- The imaging controller and the transport as given, and all else but the record and its galley as it stood. -/
theorem State.exposureBegun_kept (s : State) (r : QueueRecord) :
    State.MachineryKept { s with imaging := (s.exposureBegun r).imaging } (s.exposureBegun r) :=
  State.kept_of (s := { s with imaging := (s.exposureBegun r).imaging }) (l := s.line) (c := s.composer) (fs := s.fonts)
    (.refl _) (GalleyUnit.update_kept _ _ _ fun _ => rfl) (.refl _)

theorem exec_exposureStart_of_mayExpose (next : s.exposureNext = some r) (may : s.mayExpose r = true) :
    exec .exposureStart s = .next (s.event fun s => s.startExposure r) := by
  show execExposureStart s = _
  unfold execExposureStart
  rw [next]
  exact congrArg Host.Outcome.next (if_pos may)

theorem stockMultiplier_eq (stock : Option Stock) : stockMultiplier stock = if stock = some .film then 2 else 1 := by
  unfold stockMultiplier
  rcases stock with _ | _ | _ <;> rfl

/-- A movement asked for at the start of an exposure. -/
theorem State.followUp_of_movement {kind : MoveKind} {n : Nat} {e : Exposure} {phase : MovePhase} (idle : s.transport.state = .idle)
    (asked : (s.exposureBegun r).enterMove (r.line.resolve s.transport.depth) =
      (s.exposureBegun r).mapTransport fun t => t.ask kind n)
    (film : kind ≠ .leadOut) (first : phase = if kind = .reverse then .reversing else .stroke (min 40 n))
    (same : e = Exposure.start (r.line.resolve s.transport.depth) (stockMultiplier s.transport.stock)) :
    State.FollowUp
      { s with
        imaging := { s.imaging with state := .exposing, standby := none, exposure := some e }
        transport :=
          { s.transport with
            state := .moving, move := some { kind := kind, left := n, phase := phase, ending := false } } }
      (s.event fun s => s.startExposure r) := by
  have follow := s.event_followUp fun s => s.startExposure r
  rw [s.startExposure_eq, asked] at follow
  refine .of_kept ?_ follow
  subst same first
  have moving : s.transport.ask kind n =
      { s.transport with
        state := .moving
        move := some { kind := kind, left := n, phase := if kind = .reverse then .reversing else .stroke (min 40 n)
                       ending := false } } := by
    rw [Transport.ask_of_idle idle, if_neg film]
  have kept := s.exposureBegun_kept r
  rw [← moving]
  exact ⟨kept.pending, kept.station, kept.line, kept.hyphenation, rfl, rfl, kept.proofer, kept.memory, kept.size, kept.inbound,
    kept.outbound, kept.slot, kept.catalog, kept.catalogTimer, kept.refused, kept.contents, kept.watch, kept.claimCount,
    kept.held⟩

theorem claims_exposureStarted : Claims.ExposureStarted := by
  intro r s next running ready resident idle supply takeUp wanted e stage run char flash field multiplier
  have may : s.mayExpose r = true := State.mayExpose_iff.mpr ⟨running, ready, resident, idle, supply, takeUp, wanted⟩
  have done := exec_exposureStart_of_mayExpose next may
  have begins : e = Exposure.start e.movement (stockMultiplier s.transport.stock) := by
    rw [stockMultiplier_eq, ← multiplier]
    cases e
    cases stage; cases run; cases char; cases flash; cases field
    rfl
  refine ⟨fun n movement more forward => ⟨_, done, ?_⟩, fun n movement more depth back => ⟨_, done, ?_⟩⟩
  · have resolved : r.line.resolve s.transport.depth = .forward n := by
      rw [SetLine.resolve_of_nonneg (by omega), movement]
      rfl
    rw [forward, ← resolved] at begins
    refine State.followUp_of_movement (kind := .forward) idle ?_ nofun rfl begins
    rw [resolved]
    exact if_pos more
  · have resolved : r.line.resolve s.transport.depth = .reverse (min n s.transport.depth) := by
      rw [SetLine.resolve_of_neg (by omega), movement, neg_neg]
      rfl
    rw [back, ← resolved] at begins
    refine State.followUp_of_movement (kind := .reverse) idle ?_ nofun rfl begins
    rw [resolved]
    exact if_pos (by omega)

/-! ## An exposure without a movement -/

/-- Of records with different names, none of them being exposed, the exposing record behind the start is the one begun. -/
theorem State.exposureBegun_exposingRecord (next : s.exposureNext = some r) (names : (s.queue.map QueueRecord.name).Nodup)
    (idle : ∀ q ∈ s.queue, q.exposing = false) :
    (s.exposureBegun r).exposingRecord = some (r.begun (r.line.clamped s.transport.depth)) := by
  have mem : r ∈ s.queue := List.mem_of_find?_eq_some next
  have attached : r.attached = true := by
    have here := List.find?_some next
    rw [Bool.and_eq_true] at here
    exact here.1
  obtain ⟨before, behind, order⟩ := List.append_of_mem mem
  have others (q : QueueRecord) (memq : q ∈ before) : ¬(q.attached = true ∧ q.name = r.name) := by
    rintro ⟨-, same⟩
    rw [order, List.map_append, List.map_cons] at names
    have apart := (List.nodup_append.mp names).2.2 _ (List.mem_map_of_mem memq) _ List.mem_cons_self
    exact apart same
  show (s.queue.map fun q => if q.attached ∧ q.name = r.name then q.begun (r.line.clamped s.transport.depth) else q).find? _ = _
  rw [order, List.map_append, List.map_cons, if_pos ⟨attached, rfl⟩]
  refine List.find?_eq_some_iff_append.mpr ⟨rfl, _, _, rfl, fun q memq => ?_⟩
  obtain ⟨q', memq', rfl⟩ := List.mem_map.mp memq
  rw [if_neg (others q' memq'), idle q' (by rw [order]; exact List.mem_append_left _ memq')]
  rfl

theorem State.enterMove_of_rest {m : Movement} (rest : m = .forward 0 ∨ m = .reverse 0) :
    s.enterMove m = s.enterBackground := by
  unfold State.enterMove
  rcases rest with rfl | rfl <;> exact if_neg (lt_irrefl 0)

theorem List.getElem?_zero_of_head? {α : Type} {xs : List α} {x : α} (head : xs.head? = some x) : xs[0]? = some x := by
  rwa [← List.head?_eq_getElem?]

theorem claims_exposureWithoutAMove : Claims.ExposureWithoutAMove := by
  intro r run code x m s next may idle names plain firstRun firstChar stands rest
  have resolved : r.line.resolve s.transport.depth = m := by
    obtain ⟨zero, rfl⟩ | ⟨back, depth, rfl⟩ := rest
    · rw [SetLine.resolve_of_nonneg (by omega), zero]
      rfl
    · rw [SetLine.resolve_of_neg back, depth, Nat.min_zero]
  have zero : m = .forward 0 ∨ m = .reverse 0 := rest.imp (fun h => h.2) fun h => h.2.2
  let begun := s.exposureBegun r
  have record : begun.exposingRecord = some (r.begun (r.line.clamped s.transport.depth)) :=
    State.exposureBegun_exposingRecord next names idle
  have there := List.getElem?_zero_of_head? firstRun
  have char := List.getElem?_zero_of_head? firstChar
  have position : nextPosition r.line.runs 0 0 = some (0, 0) :=
    nextPosition_self there (by
      obtain ⟨short, -⟩ := List.getElem?_eq_some_iff.mp char
      exact short)
  let e := Exposure.start m (stockMultiplier s.transport.stock)
  have exposure : begun.imaging.exposure = some e := by
    show some (Exposure.start (r.line.resolve s.transport.depth) _) = _
    rw [resolved]
  have flashed : s.startExposure r =
      begun.mapExposure fun e =>
        { e with
          stage := .runs, run := 0, char := 0
          flash := some
            { font := run.font, size := run.size, code := code, x := (r.line.offset : Int) + x,
              intensity := intensityOf (bandOf run.size) e.stockMultiplier r.line.trim } } := by
    rw [s.startExposure_eq, resolved, State.enterMove_of_rest zero,
      State.enterBackground_of_runs record exposure (.inl plain)]
    exact State.continueRuns_of_standing (s := begun) (r := (r.begun (r.line.clamped s.transport.depth)).line) position there char stands
  rw [State.mapExposure_of_some exposure] at flashed
  have follow := s.event_followUp fun s => s.startExposure r
  rw [flashed] at follow
  refine ⟨_, exec_exposureStart_of_mayExpose next may, .of_kept ?_ follow⟩
  have kept := s.exposureBegun_kept r
  rw [← stockMultiplier_eq]
  exact ⟨kept.pending, kept.station, kept.line, kept.hyphenation, rfl, rfl, kept.proofer, kept.memory, kept.size, kept.inbound,
    kept.outbound, kept.slot, kept.catalog, kept.catalogTimer, kept.refused, kept.contents, kept.watch, kept.claimCount,
    kept.held⟩

/-! ## The marks of the record -/

/-- The exposure goes on without its end: a movement is asked for, a flash or a pass comes, or the turret is sent. -/
theorem State.startExposure_goesOn (next : s.exposureNext = some r) (names : (s.queue.map QueueRecord.name).Nodup)
    (idle : ∀ q ∈ s.queue, q.exposing = false)
    (more : 0 < r.line.movement ∨ r.line.movement < 0 ∧ 0 < s.transport.depth ∨ ∃ run ∈ r.line.runs, run.chars ≠ []) :
    ∃ i u, s.startExposure r = { s.exposureBegun r with imaging := i, transport := u } := by
  have record := State.exposureBegun_exposingRecord next names idle
  have background (chars : ∃ run ∈ r.line.runs, run.chars ≠ []) :
      ∃ i u, (s.exposureBegun r).enterBackground = { s.exposureBegun r with imaging := i, transport := u } := by
    unfold State.enterBackground
    rw [record]
    split
    · rename_i e same exposure
      cases same
      split
      · unfold State.continueBackground
        dsimp only
        split <;> exact ⟨_, _, rfl⟩
      · obtain ⟨a, b, run, position, there, -⟩ := nextPosition_isSome chars
        unfold State.continueRuns
        rw [show nextPosition (r.begun (r.line.clamped s.transport.depth)).line.runs 0 0 = some (a, b) from position]
        dsimp only
        rw [show (r.begun (r.line.clamped s.transport.depth)).line.runs[a]? = some run from there]
        dsimp only
        split
        · split <;> exact ⟨_, _, rfl⟩
        · exact ⟨_, _, rfl⟩
    · exact ⟨_, _, rfl⟩
  rw [s.startExposure_eq]
  by_cases forward : 0 ≤ r.line.movement
  · rw [SetLine.resolve_of_nonneg forward]
    unfold State.enterMove
    dsimp only
    split
    · exact ⟨_, _, rfl⟩
    · rename_i still
      exact background (more.resolve_left (by omega) |>.resolve_left (by omega))
  · rw [SetLine.resolve_of_neg (by omega)]
    unfold State.enterMove
    dsimp only
    split
    · exact ⟨_, _, rfl⟩
    · rename_i still
      exact background (more.resolve_left (by omega) |>.resolve_left (by omega))

theorem claims_exposureMarksItsRecord : Claims.ExposureMarksItsRecord := by
  intro r s next may needs names idle waiting todo more
  obtain ⟨i, u, begun⟩ := State.startExposure_goesOn next names idle more
  have here := List.find?_some next
  rw [Bool.and_eq_true, Bool.not_eq_true'] at here
  have mem : r.begun (r.line.clamped s.transport.depth) ∈ (s.startExposure r).queue := by
    rw [begun]
    exact List.mem_map.mpr ⟨r, List.mem_of_find?_eq_some next, if_pos ⟨here.1, rfl⟩⟩
  have un : (r.begun (r.line.clamped s.transport.depth)).Unexposed := ⟨here.1, here.2, needs⟩
  have hands : (s.startExposure r).EmptyHanded := by
    unfold State.EmptyHanded
    rw [begun]
    exact ⟨waiting, todo⟩
  obtain ⟨q, mem', same⟩ := State.UnexposedStay.settle _ _ mem un
  have queued : q ∈ (s.event fun s => s.startExposure r).queue := by
    show q ∈ (State.examine _ _).queue
    rw [State.examine_queue]
    exact mem'
  refine ⟨_, q, exec_exposureStart_of_mayExpose next may, queued, by rw [same]; exact here.1, by rw [same]; rfl,
    by rw [same]; exact here.2, ?_, fun g held => ?_⟩
  · rw [same, ← SetLine.clamped_eq]
    rfl
  · have counted : (s.startExposure r).galleys.find r.line.galley = some
        { g with
          counters :=
            { g.counters with
              reverseClamped := raisedIf (r.line.clamped s.transport.depth && !r.line.flags.reverseClamped)
                g.counters.reverseClamped } } := by
      rw [begun]
      exact State.find_update_self (by exact fun _ => rfl) held
    have bound : (s.startExposure r).Bound True r.line.galley := .inl ⟨_, mem, un, rfl⟩
    obtain ⟨g', held', stays⟩ := State.GalleyStays.event s (fun s => s.startExposure r) (fun _ => hands) bound _ counted
    refine ⟨g', held', (stays.counters trivial).trans ?_⟩
    dsimp only
    rw [SetLine.clamped_eq]
    congr 1
    unfold raisedIf
    simp only [Bool.and_eq_true, decide_eq_true_eq, Bool.not_eq_true']
    rfl

/-- Settles O49, from the start, the movement, the conditions and the marks. -/
theorem exposureBegins : Obligations.ExposureBegins :=
  ⟨claims_exposureStarted, claims_movementResolved, fun _ _ => State.mayExpose_iff, claims_exposureWithoutAMove,
    claims_exposureMarksItsRecord⟩

end Sys2Proof.Machine
end

section
/-! Strokes, reverse motions and the knife completed, and what follows in an exposure (R133 to R138, R145, R148, R149). -/

namespace Sys2Proof.Machine

variable {s : State} {r : QueueRecord} {e : Exposure}

/-! ## An exposure's end (R138) -/

theorem State.QueueFrom.endExposure (record : s.exposingRecord = some r) :
    State.QueueFrom (s.exposureEnded r) s.endExposure := by
  rw [State.endExposure_of_record record]
  exact (State.QueueFrom.settle _).trans (.applyCancel ..)

theorem State.Carried.endExposure (record : s.exposingRecord = some r) :
    State.Carried (s.exposureEnded r) s.endExposure := by
  rw [State.endExposure_of_record record]
  exact (State.Carried.settle _).trans (.applyCancel ..)

theorem State.exposureEnded_composer (s : State) (r : QueueRecord) : (s.exposureEnded r).composer = s.composer := by
  unfold State.exposureEnded
  dsimp only
  split <;> rfl

theorem State.exposureEnded_of_attached (attached : r.attached = true) :
    (s.exposureEnded r).queue =
        ((s.queue.map fun q => if q.exposing then { q with exposed := true } else q).map fun q => { q with exposing := false }) ∧
      (s.exposureEnded r).galleys = s.galleys.update r.line.galley fun g =>
        { g with counters := { g.counters with exposed := raised g.counters.exposed } } := by
  unfold State.exposureEnded
  rw [if_pos attached]
  exact ⟨rfl, rfl⟩

theorem State.exposureEnded_exposing {q : QueueRecord} (mem : q ∈ (s.exposureEnded r).queue) : q.exposing = false := by
  have ended : ∃ qs : List QueueRecord, (s.exposureEnded r).queue = qs.map fun q => { q with exposing := false } := by
    unfold State.exposureEnded
    exact ⟨_, rfl⟩
  obtain ⟨qs, queue⟩ := ended
  rw [queue] at mem
  obtain ⟨q', -, rfl⟩ := List.mem_map.mp mem
  rfl

/-- The record whose exposure has ended carries its mark, where its name is its alone. -/
theorem State.exposureEnded_exposed (record : s.exposingRecord = some r) (attached : r.attached = true)
    (names : (s.queue.map QueueRecord.name).Nodup) {q : QueueRecord} (mem : q ∈ (s.exposureEnded r).queue)
    (same : q.name = r.name) : q.exposed = true := by
  rw [(State.exposureEnded_of_attached attached).1, List.map_map] at mem
  obtain ⟨q', there, rfl⟩ := List.mem_map.mp mem
  have named : q'.name = r.name := by
    rw [← same]
    simp only [Function.comp_apply]
    split <;> rfl
  obtain rfl := eq_of_name names there (List.mem_of_find?_eq_some record) named
  have exposing : q'.exposing = true := List.find?_some record
  simp only [Function.comp_apply, if_pos exposing]

/-- What an event is whose own effect is the end of an exposure (R138). -/
theorem State.event_of_endExposure {f : State → State} {u : State} (effect : f s = u.endExposure)
    (record : u.exposingRecord = some r) :
    State.FollowUp u.leftExposing (s.event f) ∧ (∀ q ∈ (s.event f).queue, q.exposing = false) ∧
      (r.attached = true → (u.queue.map QueueRecord.name).Nodup → u.EmptyHanded →
        ∀ q ∈ (s.event f).queue, q.name = r.name → q.exposed = true) ∧
      ∀ g g', r.attached = true → u.galleys.find r.line.galley = some g →
        (s.event f).galleys.find r.line.galley = some g' → g'.counters.exposed = min (g.counters.exposed + 1) 65535 := by
  have follow := s.event_followUp f
  have queue := State.QueueFrom.event s f
  have carried := State.Carried.event s f
  rw [effect] at follow queue carried
  have queue' := (State.QueueFrom.endExposure record).trans queue
  have carried' := (State.Carried.endExposure record).trans carried
  refine ⟨.of_kept u.endExposure_kept follow, fun q mem => ?_, fun attached names hands q mem same => ?_,
    fun g g' attached held held' => ?_⟩
  · obtain ⟨q', there, raised⟩ | ⟨-, fresh, -⟩ := queue'.records q mem
    · rw [raised.exposing]
      exact State.exposureEnded_exposing there
    · exact fresh
  · have hands' : (u.exposureEnded r).EmptyHanded := by
      unfold State.EmptyHanded
      rw [u.exposureEnded_composer]
      exact hands
    obtain ⟨q', there, raised⟩ := queue'.raised hands' mem
    exact raised.exposed (State.exposureEnded_exposed record attached names there (raised.name.symm.trans same))
  · obtain ⟨g₁, held₁, same⟩ := carried'.galleys.find held'
    rw [(State.exposureEnded_of_attached attached).2, State.find_update_self (by exact fun _ => rfl) held] at held₁
    have counted := congrArg (fun k => k.2.1) same
    cases held₁
    exact counted.symm

theorem State.endExposure_of_no_record (none' : s.exposingRecord = none) : s.endExposure = s.leaveExposing := by
  unfold State.endExposure
  rw [none']

/-! ## Strokes (R145) -/

theorem exec_strokeCompleted_of_completed {samples : List Bool} {m : Move} {n : Nat}
    (completed : completedSamples samples = true) (moves : s.transport.move = some m) (stroke : m.phase = .stroke n) :
    exec (.strokeCompleted samples) s = .next (s.event fun s => s.strokeDone m n) := by
  show execStrokeCompleted samples s = _
  unfold execStrokeCompleted
  rw [moves]
  dsimp only
  rw [stroke]
  exact congrArg Host.Outcome.next (if_pos completed)

/-- The film moved by a completed stroke (R141, R147). -/
def Transport.stroked (t : Transport) (n : Nat) : Transport := { t.forward n with trips := 0 }

theorem State.strokeDone_eq (s : State) (m : Move) (n : Nat) :
    s.strokeDone m n =
      let u := s.mapTransport fun t => t.stroked n
      if m.ending then u.mapTransport Transport.atRest
      else if 0 < m.left - n then
        u.mapTransport fun t => { t with move := some { m with left := m.left - n, phase := nextStroke (m.left - n) } }
      else if m.kind = .leadOut then u.mapTransport fun t => { t with move := some { m with left := 0, phase := .knife } }
      else (u.mapTransport Transport.atRest).enterBackground := rfl

theorem claims_strokeCompletes : Claims.StrokeCompletes := by
  rintro samples m n s completed moves stroke u rfl
  have done := exec_strokeCompleted_of_completed completed moves stroke
  refine ⟨fun runs more => ?_, fun runs last leadOut => ?_, fun ended => ?_⟩
  · refine State.exists_followUp done ?_
    dsimp only
    rw [State.strokeDone_eq, runs]
    dsimp only
    rw [if_neg nofun, if_pos (by omega)]
    rfl
  · refine State.exists_followUp done ?_
    dsimp only
    rw [State.strokeDone_eq, runs]
    dsimp only
    rw [if_neg nofun, if_neg (by omega), if_pos leadOut]
    rfl
  · refine State.exists_followUp done ?_
    dsimp only
    rw [State.strokeDone_eq]
    dsimp only
    split
    · rfl
    · rename_i runs
      obtain ⟨last, forward, none'⟩ := ended.resolve_left runs
      rw [if_neg (by omega), if_neg (by rw [forward]; exact nofun), State.enterBackground_of_none]
      · rfl
      · exact none'

/-! ## Reverse motions and the knife (R148, R149) -/

theorem exec_reverseDone_of_reversing {m : Move} (moves : s.transport.move = some m) (reversing : m.phase = .reversing) :
    exec .reverseDone s = .next (s.event fun s => s.reversed m) := by
  show execReverseDone s = _
  unfold execReverseDone
  rw [moves]
  dsimp only
  rw [reversing]

theorem State.reversed_eq (s : State) (m : Move) :
    s.reversed m =
      let u := s.mapTransport fun t => (t.reverse m.left).atRest
      if m.ending then u else u.enterBackground := rfl

theorem State.FollowUp.transport_counters {t u : State} (h : State.FollowUp t u) :
    u.transport.remaining = t.transport.remaining ∧ u.transport.drawn = t.transport.drawn ∧
      u.transport.depth = t.transport.depth ∧ u.transport.takeUpHeld = t.transport.takeUpHeld ∧
      u.transport.trips = t.transport.trips := by
  obtain same | ⟨-, same | same⟩ := h.transport <;> rw [same] <;> exact ⟨rfl, rfl, rfl, rfl, rfl⟩

theorem claims_reverseCompletes : Claims.ReverseCompletes := by
  intro m s moves reversing
  have done := exec_reverseDone_of_reversing moves reversing
  let u := s.mapTransport fun t => (t.reverse m.left).atRest
  have goesOn : u.StageGoesOn (s.reversed m) := by
    rw [State.reversed_eq]
    dsimp only
    split
    · exact .of_imaging rfl
    · exact u.enterBackground_goesOn
  obtain ⟨i, v, asked, kept⟩ := goesOn
  have follow := State.FollowUp.of_kept kept (s.event_followUp fun s => s.reversed m)
  obtain ⟨remaining, drawn, depth, takeUpHeld, trips⟩ := follow.transport_counters
  have counters : v.remaining = u.transport.remaining ∧ v.drawn = u.transport.drawn ∧ v.depth = u.transport.depth ∧
      v.takeUpHeld = u.transport.takeUpHeld ∧ v.trips = u.transport.trips := by
    obtain rfl | rfl := asked
    · exact ⟨rfl, rfl, rfl, rfl, rfl⟩
    · exact Transport.ask_counters _ _ _
  obtain ⟨remaining', drawn', depth', takeUpHeld', trips'⟩ := counters
  refine ⟨_, done, remaining.trans remaining', drawn.trans drawn', depth.trans depth', takeUpHeld.trans takeUpHeld',
    trips.trans trips', follow.station, follow.hyphenation, follow.memory, follow.ring, fun ended => ?_⟩
  have rests : s.reversed m = u := by
    rw [State.reversed_eq]
    dsimp only
    split
    · rfl
    · rename_i runs
      exact State.enterBackground_of_none (s := u) (ended.resolve_left runs)
  have follow' := s.event_followUp fun s => s.reversed m
  rw [rests] at follow'
  exact follow'

theorem exec_knifeDone_of_knife {m : Move} (moves : s.transport.move = some m) (knife : m.phase = .knife) :
    exec .knifeDone s = .next (s.event fun s => s.knifed m) := by
  show execKnifeDone s = _
  unfold execKnifeDone
  rw [moves]
  dsimp only
  rw [knife]

theorem State.knifed_eq (s : State) (m : Move) :
    s.knifed m =
      let u := s.mapTransport fun t => { t.atRest with depth := 0 }
      if m.ending then u else u.endExposure := rfl

theorem State.knifed_of_running {m : Move} (runs : m.ending = false) :
    s.knifed m = (s.mapTransport fun t => { t.atRest with depth := 0 }).endExposure := by
  rw [State.knifed_eq]
  dsimp only
  rw [if_neg (by rw [runs]; exact nofun)]

theorem claims_knifeCompletes : Claims.KnifeCompletes := by
  intro m s moves knife
  refine ⟨_, exec_knifeDone_of_knife moves knife, fun ended => ?_, fun runs => ?_⟩
  · have follow := s.event_followUp fun s => s.knifed m
    rw [State.knifed_eq] at follow
    dsimp only at follow
    rw [if_pos ended] at follow
    exact follow
  · have ended := State.knifed_of_running (s := s) runs
    let u := s.mapTransport fun t => { t.atRest with depth := 0 }
    constructor
    · have follow := s.event_followUp fun s => s.knifed m
      rw [ended] at follow
      exact .of_kept u.endExposure_kept follow
    · intro r g g' record attached held held'
      obtain ⟨-, -, -, counted⟩ := State.event_of_endExposure (s := s) (f := fun s => s.knifed m) (u := u) (r := r) ended record
      exact counted g g' attached held held'

/-! ## What follows a movement inside an exposure (R133) -/

theorem largestSize_eq {runs : List Run} {size : Nat} (among : ∃ run ∈ runs, run.size = size)
    (bound : ∀ run ∈ runs, run.size ≤ size) : largestSize runs = size := by
  have below (xs : List Nat) (start : Nat) (low : start ≤ size) (all : ∀ x ∈ xs, x ≤ size) : xs.foldl max start ≤ size := by
    induction xs generalizing start with
    | nil => exact low
    | cons x xs ih =>
      exact ih _ (max_le low (all x List.mem_cons_self)) fun y mem => all y (List.mem_cons_of_mem _ mem)
  have above (xs : List Nat) (start x : Nat) (reached : x ≤ start ∨ x ∈ xs) : x ≤ xs.foldl max start := by
    induction xs generalizing start with
    | nil => exact reached.resolve_right List.not_mem_nil
    | cons y xs ih =>
      refine ih _ ?_
      obtain low | mem := reached
      · exact .inl (le_max_of_le_left low)
      · obtain rfl | mem := List.mem_cons.mp mem
        · exact .inl (le_max_right ..)
        · exact .inr mem
  obtain ⟨run, mem, rfl⟩ := among
  refine le_antisymm (below _ 0 (Nat.zero_le _) fun x memx => ?_) (above _ 0 _ (.inr (List.mem_map_of_mem mem)))
  obtain ⟨run', mem', rfl⟩ := List.mem_map.mp memx
  exact bound run' mem'

theorem State.continueBackground_of_standing {l : SetLine} (stands : s.imaging.turret = .standing (bandOf (largestSize l.runs))) :
    s.continueBackground l =
      s.mapExposure fun e =>
        { e with
          stage := .background
          field := some
            { start := l.offset, stop := l.offset + l.measure, height := largestSize l.runs * 10
              intensity := intensityOf (bandOf (largestSize l.runs)) e.stockMultiplier l.trim, mask := l.runs } } := by
  unfold State.continueBackground
  dsimp only
  rw [if_pos (show (s.mapExposure _).imaging.turret = _ from stands)]
  unfold State.mapExposure State.mapImaging
  dsimp only
  rw [Option.map_map]
  rfl

/-- The end of an exposure's movement, the film moved and the transport at rest (R145, R148). -/
theorem exec_of_movement_end {i : Instr} {samples : List Bool} {m : Move} {u : Transport}
    (moves : s.transport.move = some m) (runs : m.ending = false)
    (ends : i = .strokeCompleted samples ∧ completedSamples samples = true ∧ m.kind = .forward ∧
          (∃ n, m.phase = .stroke n ∧ m.left ≤ n ∧
            u = { s.transport with
                  remaining := s.transport.remaining - n, drawn := s.transport.drawn + n
                  depth := s.transport.depth + n, takeUpHeld := s.transport.takeUpHeld + n, trips := 0, state := .idle
                  move := none }) ∨
        i = .reverseDone ∧ m.phase = .reversing ∧
          u = { s.transport with
                remaining := s.transport.remaining + m.left, drawn := s.transport.drawn - m.left
                depth := s.transport.depth - m.left, takeUpHeld := s.transport.takeUpHeld - m.left, state := .idle
                move := none }) :
    ∃ f, exec i s = .next (s.event f) ∧ f s = State.enterBackground { s with transport := u } ∧ u.state = .idle := by
  obtain ⟨rfl, completed, forward, n, stroke, last, rfl⟩ | ⟨rfl, reversing, rfl⟩ := ends
  · refine ⟨_, exec_strokeCompleted_of_completed completed moves stroke, ?_, rfl⟩
    dsimp only
    rw [State.strokeDone_eq, runs]
    dsimp only
    rw [if_neg nofun, if_neg (by omega), if_neg (by rw [forward]; exact nofun)]
    rfl
  · refine ⟨_, exec_reverseDone_of_reversing moves reversing, ?_, rfl⟩
    dsimp only
    rw [State.reversed_eq, runs]
    rfl

theorem claims_moveEndsInsideAnExposure : Claims.MoveEndsInsideAnExposure := by
  intro i samples m r e s u moves runs record exposure ends
  obtain ⟨f, done, effect, idle⟩ := exec_of_movement_end moves runs ends
  let v : State := { s with transport := u }
  have record' : v.exposingRecord = some r := record
  have exposure' : v.imaging.exposure = some e := exposure
  refine ⟨fun size reverse among bound stands => ?_, fun run code x plain firstRun firstChar stands => ?_,
    fun plain bare => ?_⟩
  · have largest := largestSize_eq among bound
    have some' : r.line.runs ≠ [] := by
      obtain ⟨run, mem, -⟩ := among
      exact List.ne_nil_of_mem mem
    refine State.exists_followUp done ?_
    rw [effect, State.enterBackground_of_reverse record' exposure' reverse some',
      State.continueBackground_of_standing (by rw [largest]; exact stands), State.mapExposure_of_some exposure', largest]
  · have there := List.getElem?_zero_of_head? firstRun
    have char := List.getElem?_zero_of_head? firstChar
    have position : nextPosition r.line.runs 0 0 = some (0, 0) := nextPosition_self there (by
      obtain ⟨short, -⟩ := List.getElem?_eq_some_iff.mp char
      exact short)
    refine State.exists_followUp done ?_
    rw [effect, State.enterBackground_of_runs record' exposure' (.inl plain),
      State.continueRuns_of_standing (s := v) (e := { e with run := 0, char := 0 }) position there char stands,
      State.mapExposure_of_some exposure']
  · have cut : f s = v.enterCut r.line := by
      rw [effect, State.enterBackground_of_runs record' exposure' plain,
        State.continueRuns_of_end (nextPosition_eq_none bare 0 0)]
    refine ⟨fun cuts => ?_, fun uncut => ?_⟩
    · have asked : f s =
          { s with
            transport :=
              { u with
                state := .cutting
                move := some { kind := .leadOut, left := 1440, phase := .stroke 40, ending := false } }
            imaging := { s.imaging with exposure := some { e with stage := .cut, flash := none, field := none } } } := by
        rw [cut, State.enterCut_of_cut cuts, State.mapExposure_of_some exposure']
        unfold State.mapTransport
        dsimp only
        rw [Transport.ask_of_idle (show v.transport.state = .idle from idle)]
        rfl
      have follow := s.event_followUp f
      rw [asked] at follow
      refine ⟨_, done, ?_, follow.transport_of_busy nofun⟩
      rw [follow.imaging, Imaging.watch_exposure]
    · have ended : f s = (v.mapExposure fun e => { e with stage := .cut, flash := none, field := none }).endExposure :=
        cut.trans (State.enterCut_of_no_cut uncut)
      obtain ⟨follow, exposing, exposed, -⟩ := State.event_of_endExposure (r := r) ended record'
      exact ⟨_, done, follow, exposing, fun attached names waiting todo => exposed attached names ⟨waiting, todo⟩⟩

/-- Settles O53, from strokes, reverse motions and the knife, and from what follows a movement inside an exposure. -/
theorem filmMoves : Obligations.FilmMoves :=
  ⟨claims_strokeCompletes, claims_reverseCompletes, claims_knifeCompletes, claims_moveEndsInsideAnExposure⟩

end Sys2Proof.Machine
end

section
/-! SUPPORT for the proofs below. From empty hands, settling and the examination offer at most one report and one TEXT CREDIT for
each galley, so that a transmit queue with room keeps what waits in it. -/

namespace Sys2Proof.Machine

variable {s t u : State} {ids : List GalleyId}

/-! ## The owners of the waiting frames -/

def Line.owners (l : Line) : List FrameOwner := l.queue.map Descriptor.owner

/-- The descriptors in the queue, with the credits and the reports of these galleys that are not in it. -/
def Line.load (l : Line) (ids : List GalleyId) : Nat :=
  l.count + ids.countP (fun id => decide (.credit id ∉ l.owners)) + ids.countP fun id => decide (.report id ∉ l.owners)

theorem Line.count_le_load (l : Line) (ids : List GalleyId) : l.count ≤ l.load ids := by
  unfold Line.load
  omega

theorem Line.load_le (l : Line) (ids : List GalleyId) : l.load ids ≤ l.count + ids.length + ids.length := by
  unfold Line.load
  have credits := List.countP_le_length (p := fun id => decide (FrameOwner.credit id ∉ l.owners)) (l := ids)
  have reports := List.countP_le_length (p := fun id => decide (FrameOwner.report id ∉ l.owners)) (l := ids)
  omega

theorem countP_lt_of_mem {α : Type} {p q : α → Bool} {xs : List α} {x : α} (mem : x ∈ xs) (was : p x = true)
    (gone : q x = false) (fewer : ∀ y, q y = true → p y = true) : xs.countP q < xs.countP p := by
  induction xs with
  | nil => exact absurd mem List.not_mem_nil
  | cons y xs ih =>
    have rest : xs.countP q ≤ xs.countP p := List.countP_mono_left fun y _ => fewer y
    rw [List.countP_cons, List.countP_cons]
    obtain rfl | mem := List.mem_cons.mp mem
    · rw [was, gone, if_pos rfl, if_neg nofun]
      omega
    · have less := ih mem
      by_cases here : q y = true
      · rw [if_pos here, if_pos (fewer y here)]
        omega
      · rw [if_neg here]
        omega

/-- A frame with a new owner among those counted does not raise the load. -/
theorem Line.load_of_added {l m : Line} {owner : FrameOwner} {id : GalleyId} (mem : id ∈ ids)
    (counted : owner = .credit id ∨ owner = .report id) (new : owner ∉ l.owners)
    (added : ∀ o, o ∈ m.owners ↔ o = owner ∨ o ∈ l.owners) (count : m.count = l.count + 1) : m.load ids ≤ l.load ids := by
  have fewer {make : GalleyId → FrameOwner} (y : GalleyId) (absent : decide (make y ∉ m.owners) = true) :
      decide (make y ∉ l.owners) = true := by
    rw [decide_eq_true_iff] at *
    exact fun there => absent ((added _).mpr (.inr there))
  have credits := List.countP_mono_left (l := ids) fun y _ => fewer (make := FrameOwner.credit) y
  have reports := List.countP_mono_left (l := ids) fun y _ => fewer (make := FrameOwner.report) y
  have less {make : GalleyId → FrameOwner} (own : owner = make id) :
      ids.countP (fun y => decide (make y ∉ m.owners)) < ids.countP fun y => decide (make y ∉ l.owners) :=
    countP_lt_of_mem mem (by rw [decide_eq_true_iff, ← own]; exact new)
      (by rw [decide_eq_false_iff_not, not_not]; exact (added _).mpr (.inl own.symm)) fun y => fewer y
  unfold Line.load
  rcases counted with own | own
  · have := less own
    omega
  · have := less own
    omega

theorem Line.load_of_fewer {l m : Line} (count : m.count ≤ l.count)
    (credits : ∀ id, .credit id ∈ l.owners → .credit id ∈ m.owners)
    (reports : ∀ id, .report id ∈ l.owners → .report id ∈ m.owners) : m.load ids ≤ l.load ids := by
  have credits' := List.countP_mono_left (l := ids) (p := fun id => decide (FrameOwner.credit id ∉ m.owners))
    (q := fun id => decide (FrameOwner.credit id ∉ l.owners)) fun y _ absent => by
      rw [decide_eq_true_iff] at *
      exact absent ∘ credits y
  have reports' := List.countP_mono_left (l := ids) (p := fun id => decide (FrameOwner.report id ∉ m.owners))
    (q := fun id => decide (FrameOwner.report id ∉ l.owners)) fun y _ absent => by
      rw [decide_eq_true_iff] at *
      exact absent ∘ reports y
  unfold Line.load
  omega

theorem Line.mem_owners_withWaiting {l : Line} {kind : FrameKind} {dest : BitVec 5} {body : List Byte} {owner : FrameOwner}
    (o : FrameOwner) : o ∈ (l.withWaiting kind dest body owner).owners ↔ o = owner ∨ o ∈ l.owners := by
  unfold Line.owners Line.withWaiting
  simp only [List.mem_map, mem_insertBy]
  constructor
  · rintro ⟨d, rfl | mem, rfl⟩
    · exact .inl rfl
    · exact .inr ⟨d, mem, rfl⟩
  · rintro (rfl | ⟨d, mem, rfl⟩)
    · exact ⟨_, .inl rfl, rfl⟩
    · exact ⟨d, .inr mem, rfl⟩

/-! ## Steps that spare what waits -/

/-- From `a` to `b` the load has not grown, the report of a galley that is not held still waits, and no galley has come. -/
structure Spares (ids : List GalleyId) (a b : GalleyUnit × Line) : Prop where
  load : b.2.load ids ≤ a.2.load ids
  keeps : ∀ d ∈ a.2.queue, (∃ i, d.owner = .report i ∧ a.1.find i = none) → d ∈ b.2.queue
  gone : ∀ i, a.1.find i = none → b.1.find i = none

theorem Spares.refl (a : GalleyUnit × Line) : Spares ids a a := ⟨le_refl _, fun _ mem _ => mem, fun _ h => h⟩

theorem Spares.trans {a b c : GalleyUnit × Line} (h : Spares ids a b) (k : Spares ids b c) : Spares ids a c where
  load := k.load.trans h.load
  keeps d mem own := k.keeps d (h.keeps d mem own) (own.imp fun i => .imp_right (h.gone i))
  gone i none := k.gone i (h.gone i none)

/-- There is room for the frames of these galleys, and no others are held. -/
structure Roomy (ids : List GalleyId) (a : GalleyUnit × Line) : Prop where
  load : a.2.load ids ≤ 12
  held : ∀ i, a.1.find i ≠ none → i ∈ ids

theorem Roomy.of_spares {a b : GalleyUnit × Line} (h : Roomy ids a) (k : Spares ids a b) : Roomy ids b :=
  ⟨k.load.trans h.load, fun i held => h.held i (mt (k.gone i) held)⟩

theorem Roomy.room {a : GalleyUnit × Line} (h : Roomy ids a) : a.2.count < 16 := by
  have := a.2.count_le_load ids
  have := h.load
  omega

/-- A report of a held galley offered to a line with room. -/
theorem Line.offer_report_load {l : Line} {id : GalleyId} (mem : id ∈ ids) (room : l.count < 16) (takesPart : Bool)
    (dest : BitVec 5) (body : List Byte) : (l.offer takesPart .galleyReport dest body (.report id)).1.load ids ≤ l.load ids := by
  cases takesPart with
  | false => exact le_refl _
  | true =>
    cases waits : l.waitingReport (.report id) with
    | none =>
      have new : FrameOwner.report id ∉ l.owners := by
        intro there
        obtain ⟨d, mem, own⟩ := List.mem_map.mp there
        have empty : l.queue.filter (fun d => decide (d.owner = .report id)) = [] :=
          List.getLast?_eq_none_iff.mp (show (l.queue.filter _).getLast? = none from waits)
        exact List.filter_eq_nil_iff.mp empty d mem (decide_eq_true own)
      rw [l.offer_of_room _ _ _ _ waits room]
      exact Line.load_of_added mem (.inr rfl) new Line.mem_owners_withWaiting (l.count_withWaiting ..)
    | some old =>
      have there := List.mem_filter.mp (List.mem_of_getLast? (show (l.queue.filter _).getLast? = some old from waits))
      have own : old.owner = .report id := of_decide_eq_true there.2
      have place : l.offer true .galleyReport dest body (.report id) =
          ({ l with queue := l.queue.map fun e =>
              if e = old then { kind := .galleyReport, dest := dest, body := body, owner := .report id, age := old.age }
              else e }, true) := by
        unfold Line.offer
        dsimp only
        rw [waits]
        rfl
      have same : (l.offer true .galleyReport dest body (.report id)).1.owners = l.owners := by
        rw [place]
        unfold Line.owners
        dsimp only
        rw [List.map_map]
        refine List.map_congr_left fun e _ => ?_
        simp only [Function.comp_apply]
        split
        · rename_i here
          rw [here, own]
        · rfl
      refine Line.load_of_fewer ?_ (fun i mem => by rw [same]; exact mem) fun i mem => by rw [same]; exact mem
      rw [place]
      unfold Line.count
      rw [List.length_map]

theorem Line.offer_report_keeps {l : Line} {id : GalleyId} (room : l.count < 16) (takesPart : Bool) (dest : BitVec 5)
    (body : List Byte) {d : Descriptor} (mem : d ∈ l.queue) (other : d.owner ≠ .report id) :
    d ∈ (l.offer takesPart .galleyReport dest body (.report id)).1.queue := by
  cases takesPart with
  | false => exact mem
  | true => exact (Line.offer_report room dest body id).2.1 d mem other

theorem Spares.offer_report {gu : GalleyUnit} {l : Line} {id : GalleyId} (roomy : Roomy ids (gu, l))
    (held : gu.find id ≠ none) (takesPart : Bool) (dest : BitVec 5) (body : List Byte) :
    Spares ids (gu, l) (gu, (l.offer takesPart .galleyReport dest body (.report id)).1) where
  load := Line.offer_report_load (roomy.held id held) roomy.room takesPart dest body
  keeps d mem own := by
    obtain ⟨i, own, gone⟩ := own
    refine Line.offer_report_keeps roomy.room takesPart dest body mem ?_
    rw [own]
    rintro same
    cases same
    exact held gone
  gone _ h := h

theorem GalleyUnit.find_update_none {gu : GalleyUnit} {id i : GalleyId} {f : Galley → Galley} (keeps : ∀ g, (f g).id = g.id)
    (gone : gu.find i = none) : (gu.update id f).find i = none := by
  rw [GalleyUnit.find_update keeps, gone]
  rfl

theorem Spares.update (gu : GalleyUnit) (l : Line) (id : GalleyId) {f : Galley → Galley} (keeps : ∀ g, (f g).id = g.id) :
    Spares ids (gu, l) (gu.update id f, l) :=
  ⟨le_refl _, fun _ mem _ => mem, fun _ => GalleyUnit.find_update_none keeps⟩

/-- A grant offers a TEXT CREDIT only for a held galley that has none in the queue (R13). -/
theorem Spares.grantCredit {b : GalleyUnit × Line} (roomy : Roomy ids b) (takesPart : Bool) (head : Option GalleyId)
    (id : GalleyId) : Spares ids b (grantCredit takesPart head b id) := by
  unfold Machine.grantCredit
  split
  · exact .refl b
  rename_i g held
  dsimp only
  split
  · rename_i granted
    have own : g.id = id := GalleyUnit.find_id held
    have new : FrameOwner.credit g.id ∉ b.2.owners := by
      intro there
      obtain ⟨d, mem, credit⟩ := List.mem_map.mp there
      have holds : b.2.holds (fun d => d.owner == .credit g.id) = true := by
        unfold Line.holds
        rw [Bool.or_eq_true]
        exact .inl (List.any_eq_true.mpr ⟨d, mem, by simp [credit]⟩)
      have passed : g.passedOver b.2 = true := by simp [Galley.passedOver, holds]
      exact absurd (passed.symm.trans granted.1) nofun
    have spared : Spares ids b
        (b.1, (b.2.offer takesPart .textCredit (BitVec.ofNat 5 g.id.poster)
          (creditBody g.id ((raisedLimit g.granted (b.1.largestGrant head g)).getD 0)) (.credit g.id)).1) := by
      refine ⟨?_, fun d mem _ =>
        (Line.offer_growsBy takesPart _ _ _ (fun _ h => FrameOwner.noConfusion h) roomy.room).stays d mem, fun _ h => h⟩
      cases takesPart with
      | false => exact le_refl _
      | true =>
        dsimp only
        rw [b.2.offer_of_room _ _ _ _ (b.2.waitingReport_eq_none fun _ h => FrameOwner.noConfusion h) roomy.room]
        have mem : g.id ∈ ids := roomy.held _ (by rw [own, held]; exact nofun)
        exact Line.load_of_added mem (.inl rfl) new Line.mem_owners_withWaiting (b.2.count_withWaiting ..)
    exact spared.trans (.update _ _ _ fun _ => rfl)
  · exact .refl b

theorem Spares.foldl_grantCredit {b : GalleyUnit × Line} (roomy : Roomy ids b) (takesPart : Bool) (head : Option GalleyId)
    (order : List GalleyId) : Spares ids b (order.foldl (Machine.grantCredit takesPart head) b) := by
  induction order generalizing b with
  | nil => exact .refl b
  | cons id order ih =>
    have step := Spares.grantCredit roomy takesPart head id
    exact step.trans (ih (roomy.of_spares step))

/-! ## States -/

def State.desk (s : State) : GalleyUnit × Line := (s.galleys, s.line)

theorem Spares.of_same (galleys : t.galleys = s.galleys) (line : t.line = s.line) : Spares ids s.desk t.desk := by
  unfold State.desk
  rw [galleys, line]
  exact .refl _

theorem Spares.of_found (line : t.line = s.line) (gone : ∀ i, s.galleys.find i = none → t.galleys.find i = none) :
    Spares ids s.desk t.desk := by
  refine ⟨?_, fun d mem _ => ?_, gone⟩
  · show t.line.load ids ≤ s.line.load ids
    rw [line]
  · show d ∈ t.line.queue
    rw [line]
    exact mem

theorem Spares.evaluateCredit (roomy : Roomy ids s.desk) : Spares ids s.desk s.evaluateCredit.desk :=
  Spares.foldl_grantCredit roomy s.station.takesPart (s.galleys.head s.composer.galley) _

theorem Spares.sendReport {id : GalleyId} (roomy : Roomy ids s.desk) (held : s.galleys.find id ≠ none) (event : ReportEvent)
    (reason : Nat) (c : Counters) : Spares ids s.desk (s.sendReport id event reason c).desk :=
  Spares.offer_report roomy held s.station.takesPart _ _

theorem Spares.report (roomy : Roomy ids s.desk) (id : GalleyId) (event : ReportEvent) (reason : Nat) :
    Spares ids s.desk (s.report id event reason).desk := by
  unfold State.report
  split
  · rename_i held
    exact .sendReport roomy (by rw [held]; exact nofun) ..
  · exact .refl _

theorem Spares.removeGalley (roomy : Roomy ids s.desk) (id : GalleyId) : Spares ids s.desk (s.removeGalley id).desk := by
  have removed : Spares ids s.desk
      (s.mapGalleys fun gu => { gu with table := gu.table.filter fun g => g.id ≠ id }).desk := by
    refine .of_found rfl fun i gone => ?_
    rw [GalleyUnit.find_eq_none_iff] at *
    intro there
    obtain ⟨g, mem, own⟩ := List.mem_map.mp there
    exact gone (List.mem_map.mpr ⟨g, List.mem_of_mem_filter mem, own⟩)
  exact removed.trans (.evaluateCredit (roomy.of_spares removed))

theorem Spares.finishGalley (roomy : Roomy ids s.desk) (id : GalleyId) : Spares ids s.desk (s.finishGalley id).desk := by
  have reported : Spares ids s.desk (s.report id .done 0).desk := .report roomy id .done 0
  exact reported.trans (.removeGalley (roomy.of_spares reported) id)

theorem Spares.freeComposer (s : State) (id : GalleyId) : Spares ids s.desk (s.freeComposer id).desk := by
  unfold State.freeComposer
  split
  · exact .of_found rfl fun _ h => h
  · exact .refl _

theorem Spares.checkDone (roomy : Roomy ids s.desk) (id : GalleyId) : Spares ids s.desk (s.checkDone id).desk := by
  unfold State.checkDone
  split
  · exact .refl _
  split
  · exact .refl _
  split
  · have free : Spares ids s.desk (s.freeComposer id).desk := .freeComposer s id
    exact free.trans (.finishGalley (roomy.of_spares free) id)
  · exact .refl _

theorem Spares.departure (roomy : Roomy ids s.desk) (hands : s.EmptyHanded) (left : s.departure = some t) :
    Spares ids s.desk t.desk := by
  obtain ⟨q, -, -, cases⟩ := State.departure_cases left
  rw [State.takeWaiting_of_emptyHanded (s := State.recount { s with queue := q }) hands] at cases
  obtain rfl | ⟨id, rfl⟩ := cases
  · exact .of_same rfl rfl
  · exact .checkDone (s := State.recount { s with queue := q }) roomy id

theorem State.composerTask_of_emptyHanded (hands : s.EmptyHanded) : s.composerTask = none := by
  cases done : s.composerTask with
  | none => rfl
  | some t =>
    obtain ⟨g, task, rest, -, todo, -⟩ := State.composerTask_cases done
    exact absurd (hands.2.symm.trans todo) nofun

theorem Spares.settle (roomy : Roomy ids s.desk) (hands : s.EmptyHanded) : Spares ids s.desk s.settle.desk := by
  have step {s t : State} (roomy : Roomy ids s.desk) (hands : s.EmptyHanded) (done : s.settleStep = some t) :
      Spares ids s.desk t.desk := by
    unfold State.settleStep at done
    dsimp only at done
    split at done
    · rename_i left
      cases done
      exact .departure (s := s.markNotNeeded) roomy hands left
    · rw [State.composerTask_of_emptyHanded (s := s.markNotNeeded) hands] at done
      cases done
  have settles (fuel : Nat) (s : State) (roomy : Roomy ids s.desk) (hands : s.EmptyHanded) :
      Spares ids s.desk (State.settleFor fuel s).desk := by
    induction fuel generalizing s with
    | zero => exact .of_same rfl rfl
    | succ fuel ih =>
      unfold State.settleFor
      split
      · rename_i t done
        have first := step roomy hands done
        exact first.trans (ih t (roomy.of_spares first) ((State.QueueFrom.settleStep done).hands hands))
      · exact .of_same rfl rfl
  exact settles _ s roomy hands

/-! ## The examination -/

theorem Spares.suspend (roomy : Roomy ids s.desk) (id : GalleyId) (why : Suspension) :
    Spares ids s.desk (s.suspend id why).desk := by
  have suspended : Spares ids s.desk (s.suspended id why).desk := .update _ _ _ fun _ => rfl
  unfold State.suspend
  split
  · exact .refl _
  split
  · dsimp only
    split
    · exact suspended
    · exact suspended.trans (.report (s := s.suspended id why) (roomy.of_spares suspended) ..)
  · exact .refl _

theorem Spares.suspendForFonts (roomy : Roomy ids s.desk) : Spares ids s.desk s.suspendForFonts.desk := by
  unfold State.suspendForFonts
  split
  · exact .refl _
  dsimp only
  split
  · exact .suspend roomy ..
  · exact .refl _

theorem Spares.suspendForFont (roomy : Roomy ids s.desk) (font : Nat) : Spares ids s.desk (s.suspendForFont font).desk := by
  unfold State.suspendForFont
  split
  · split
    · exact .suspendForFonts roomy
    · exact .refl _
  · exact .refl _

theorem Spares.withdraw_ask (s : State) (font : Nat) :
    Spares ids s.desk (s.galleys, s.line.withdraw (Descriptor.asksFor font)) := by
  have keeps (d : Descriptor) (mem : d ∈ s.line.queue) (other : d.owner ≠ .inbound) :
      d ∈ (s.line.withdraw (Descriptor.asksFor font)).queue :=
    List.mem_filter.mpr ⟨mem, by simp [Descriptor.asksFor, other]⟩
  have owners (o : FrameOwner) (other : o ≠ .inbound) (mem : o ∈ s.line.owners) :
      o ∈ (s.line.withdraw (Descriptor.asksFor font)).owners := by
    obtain ⟨d, there, rfl⟩ := List.mem_map.mp mem
    exact List.mem_map_of_mem (keeps d there other)
  refine ⟨Line.load_of_fewer (Line.withdraw_count ..) (fun _ => owners _ nofun) fun _ => owners _ nofun,
    fun d mem own => keeps d mem ?_, fun _ h => h⟩
  obtain ⟨i, own, -⟩ := own
  rw [own]
  exact nofun

theorem Spares.dropWant (s : State) (w : Want) : Spares ids s.desk (s.dropWant w).desk := by
  unfold State.dropWant
  dsimp only
  split
  · exact .withdraw_ask s w.font
  · exact .of_same rfl rfl

theorem Spares.demandOnce (roomy : Roomy ids s.desk) (party : Party) (font : Nat) :
    Spares ids s.desk (s.demandOnce party font).desk := by
  unfold State.demandOnce
  split
  · dsimp only
    split
    · exact .suspendForFont (s := s.mapFonts _) roomy font
    · exact .of_same rfl rfl
  split
  · exact .of_same rfl rfl
  split
  · exact .dropWant s _
  split
  · exact .refl _
  · exact .of_same rfl rfl

theorem Spares.demandAgain (roomy : Roomy ids s.desk) (d : Party × Nat) : Spares ids s.desk (s.demandAgain d).desk := by
  unfold State.demandAgain
  dsimp only
  split
  · exact .of_same rfl rfl
  split
  · exact .demandOnce roomy ..
  · exact .demandOnce roomy ..

theorem Spares.foldl {α : Type} {f : State → α → State}
    (step : ∀ s a, Roomy ids s.desk → Spares ids s.desk (f s a).desk) (xs : List α) (roomy : Roomy ids s.desk) :
    Spares ids s.desk (xs.foldl f s).desk := by
  induction xs generalizing s with
  | nil => exact .refl _
  | cons a xs ih =>
    have first := step s a roomy
    exact first.trans (ih (roomy.of_spares first))

theorem Spares.raiseDemand (roomy : Roomy ids s.desk) (party : Party) (font : Nat) :
    Spares ids s.desk (s.raiseDemand party font).desk := by
  have once : Spares ids s.desk (s.demandOnce party font).desk := .demandOnce roomy party font
  unfold State.raiseDemand
  dsimp only
  split
  · exact once.trans (.foldl (fun _ d roomy => .demandAgain roomy d) _ (roomy.of_spares once))
  · exact once

theorem Spares.filmCheck (roomy : Roomy ids s.desk) : Spares ids s.desk s.filmCheck.desk := by
  unfold State.filmCheck
  split
  · exact .refl _
  split
  · exact .suspend roomy ..
  · exact .refl _

theorem Spares.nextArrived (roomy : Roomy ids s.desk) : Spares ids s.desk s.nextArrived.desk := by
  unfold State.nextArrived
  split
  · exact .refl _
  rename_i r _
  dsimp only
  have demanded : Spares ids s.desk ((s.missingFonts r).foldl (fun s f => s.raiseDemand .exposure f) s).desk :=
    .foldl (fun _ f roomy => .raiseDemand roomy .exposure f) _ roomy
  have suspended := Spares.suspendForFonts (roomy.of_spares demanded)
  exact (demanded.trans suspended).trans (.filmCheck ((roomy.of_spares demanded).of_spares suspended))

theorem Spares.filmTest (roomy : Roomy ids s.desk) : Spares ids s.desk s.filmTest.desk := by
  unfold State.filmTest
  split
  · exact .refl _
  split
  · split
    · exact .suspend (s := s.mapTransport _) roomy ..
    split
    · exact .suspend (s := s.mapTransport _) roomy ..
    · exact .refl _
  · exact .refl _

theorem Spares.examine (roomy : Roomy ids s.desk) (old : Option (GalleyId × Nat)) :
    Spares ids s.desk (s.examine old).desk := by
  have arrived : Spares ids s.desk (if s.exposureNextName = old then s else s.nextArrived).desk := by
    split
    · exact .refl _
    · exact .nextArrived roomy
  exact arrived.trans (.filmTest (roomy.of_spares arrived))

/-- From empty hands an event offers no more, behind its own effect, than there is room for. -/
theorem Spares.event (s : State) (f : State → State) (roomy : Roomy ids (f s).desk) (hands : (f s).EmptyHanded) :
    Spares ids (f s).desk (s.event f).desk := by
  have settled := Spares.settle roomy hands
  exact settled.trans (.examine (roomy.of_spares settled) _)

end Sys2Proof.Machine
end

section
/-! Flashes, the cut, the exposure's end, and a cancel carried out behind it (R18, R134 to R138). -/

namespace Sys2Proof.Machine

variable {s u : State} {r : QueueRecord} {e : Exposure}

/-- R134: the clamp of the intensity. -/
theorem claims_intensity : Claims.Intensity := by
  intro band m trim base mem
  have base' : base = 3 + band := by
    simp only [List.mem_cons, Prod.mk.injEq, List.not_mem_nil, or_false] at mem
    omega
  subst base'
  have value : intensityOf band m trim = (max 1 (min 15 (((band + 3 : Nat) : Int) * m + trim))).toNat := rfl
  rw [value, show 3 + band = band + 3 by omega]
  generalize ((band + 3 : Nat) : Int) * m + trim = v
  omega

/-! ## Behind the last flash and the background pass -/

/-- The event of the last flash of a record, and of its background pass. -/
def EndsFlashes (i : Instr) (r : QueueRecord) (e : Exposure) : Prop :=
  i = .flashDone ∧ e.flash.isSome = true ∧ nextPosition r.line.runs e.run (e.char + 1) = none ∨
    i = .backgroundPass ∧ e.field.isSome = true

theorem exec_backgroundPass_of_field (record : s.exposingRecord = some r) (exposure : s.imaging.exposure = some e)
    (field : e.field.isSome = true) :
    exec .backgroundPass s =
      .next (s.event fun s => (s.mapExposure fun e => { e with field := none }).enterCut r.line) := by
  show execBackgroundPass s = _
  unfold execBackgroundPass
  rw [exposure, record]
  exact congrArg Host.Outcome.next (if_pos field)

/-- Stage CUT follows (R133, R135). -/
theorem exec_of_endsFlashes {i : Instr} (ends : EndsFlashes i r e) (record : s.exposingRecord = some r)
    (exposure : s.imaging.exposure = some e) :
    ∃ f e₁, exec i s = .next (s.event f) ∧
      f s = State.enterCut { s with imaging := { s.imaging with exposure := some e₁ } } r.line := by
  obtain ⟨rfl, flash, last⟩ | ⟨rfl, field⟩ := ends
  · refine ⟨_, { e with flash := none, char := e.char + 1 }, exec_flashDone_of_flash record exposure flash, ?_⟩
    dsimp only
    rw [State.continueRuns_of_end (e := { e with flash := none, char := e.char + 1 }) last,
      State.mapExposure_of_some exposure]
  · refine ⟨_, { e with field := none }, exec_backgroundPass_of_field record exposure field, ?_⟩
    dsimp only
    rw [State.mapExposure_of_some exposure]

/-- The exposure ends behind them where no cut follows (R138). -/
theorem exec_of_endsFlashes_uncut {i : Instr} (ends : EndsFlashes i r e) (record : s.exposingRecord = some r)
    (exposure : s.imaging.exposure = some e) (uncut : r.line.cutAfter = false) :
    ∃ f e₁, exec i s = .next (s.event f) ∧
      f s = State.endExposure { s with imaging := { s.imaging with exposure := some e₁ } } := by
  obtain ⟨f, e₁, done, effect⟩ := exec_of_endsFlashes ends record exposure
  refine ⟨f, { e₁ with stage := .cut, flash := none, field := none }, done, ?_⟩
  rw [effect, State.enterCut_of_no_cut uncut]
  rfl

theorem claims_flashesThenCut : Claims.FlashesThenCut := by
  intro r e s record exposure
  refine ⟨fun run code x flash there char stands => ?_, fun i ends cut idle => ?_⟩
  · let dark : Exposure := { e with flash := none, char := e.char + 1 }
    let u : State := s.mapExposure fun _ => dark
    have next : nextPosition r.line.runs dark.run dark.char = some (e.run, e.char + 1) := nextPosition_self there (by
      obtain ⟨short, -⟩ := List.getElem?_eq_some_iff.mp char
      exact short)
    refine State.exists_followUp (exec_flashDone_of_flash record exposure flash) ?_
    dsimp only
    rw [State.continueRuns_of_standing (s := u) (e := dark) next there char stands,
      State.mapExposure_of_some (s := u) (e := dark)
        ((congrArg (fun v : State => v.imaging.exposure) (State.mapExposure_of_some exposure fun _ => dark)))]
    rfl
  · obtain ⟨f, e₁, done, effect⟩ := exec_of_endsFlashes ends record exposure
    have asked : f s =
        { s with
          transport :=
            { s.transport with
              state := .cutting
              move := some { kind := .leadOut, left := 1440, phase := .stroke 40, ending := false } }
          imaging :=
            { s.imaging with exposure := some { e₁ with stage := .cut, flash := none, field := none } } } := by
      rw [effect, State.enterCut_of_cut cut]
      exact congrArg (fun u => { s with
        transport := u
        imaging := { s.imaging with exposure := some { e₁ with stage := .cut, flash := none, field := none } } })
        (Transport.ask_of_idle idle .leadOut 1440)
    have follow := s.event_followUp f
    rw [asked] at follow
    exact ⟨_, { e₁ with stage := .cut, flash := none, field := none }, done,
      by rw [follow.imaging, Imaging.watch_exposure], rfl, rfl, rfl, follow.transport_of_busy nofun⟩

theorem claims_exposureEndsWithoutACut : Claims.ExposureEndsWithoutACut := by
  intro r e i s record exposure uncut ends
  obtain ⟨f, e₁, done, effect⟩ := exec_of_endsFlashes_uncut ends record exposure uncut
  obtain ⟨follow, exposing, exposed, counted⟩ := State.event_of_endExposure (r := r) effect record
  exact ⟨_, done, follow, exposing, fun attached names waiting todo => exposed attached names ⟨waiting, todo⟩, counted⟩

/-! ## The cancel that waited (R18, R19) -/

/-- The report of a galley that is not held waits on. -/
theorem Line.ReportWaits.spared {ids : List GalleyId} {a b : GalleyUnit × Line} {id : GalleyId} {event reason : Nat}
    {c : Counters} (waits : a.2.ReportWaits id event reason c) (gone : a.1.find id = none) (spares : Spares ids a b) :
    b.2.ReportWaits id event reason c := by
  obtain ⟨d, mem, kind, dest, owner, body⟩ := waits
  exact ⟨d, spares.keeps d mem ⟨id, owner, gone⟩, kind, dest, owner, body⟩

theorem Spares.filterGalley (s : State) (ids : List GalleyId) (id : GalleyId) :
    Spares ids s.desk (s.mapGalleys fun gu => { gu with table := gu.table.filter fun g => g.id ≠ id }).desk := by
  refine .of_found rfl fun i gone => ?_
  rw [GalleyUnit.find_eq_none_iff] at *
  intro there
  obtain ⟨g, mem, own⟩ := List.mem_map.mp there
  exact gone (List.mem_map.mpr ⟨g, List.mem_of_mem_filter mem, own⟩)

/-- From empty hands an abort offers ABORTED, and it waits where there is room (R19). -/
theorem State.abort_spares {ids : List GalleyId} {id : GalleyId} {g : Galley} (held : s.galleys.find id = some g)
    (hands : s.EmptyHanded) (roomy : Roomy ids s.desk) (why : AbortReason) :
    Roomy ids (s.abort id why).desk ∧
      (s.station.takesPart = true → id.poster < 32 → (s.abort id why).line.ReportWaits id 5 why.code g.counters) := by
  let d : State := (s.freeComposer id).dropRecords id
  have line : d.line = s.line ∧ d.station = s.station ∧ ∀ i, d.galleys.find i = s.galleys.find i := by
    have dropped : d = State.recount { s.freeComposer id with queue := removeRecords id (s.freeComposer id).queue } := by
      show State.dropRecords _ _ = _
      unfold State.dropRecords
      dsimp only
      split
      · exact State.takeWaiting_of_emptyHanded ((State.QueueFrom.freeComposer s id).hands hands)
      · rfl
    rw [dropped]
    unfold State.freeComposer
    split <;> exact ⟨rfl, rfl, fun _ => rfl⟩
  obtain ⟨line, station, galleys⟩ := line
  have roomy' : Roomy ids d.desk := roomy.of_spares (.of_found line fun i gone => (galleys i).trans gone)
  have abort : s.abort id why = (d.sendReport id .aborted why.code g.counters).removeGalley id := by
    unfold State.abort
    rw [held]
  have sent : Spares ids d.desk (d.sendReport id .aborted why.code g.counters).desk :=
    .sendReport roomy' (by rw [galleys, held]; exact nofun) ..
  have roomy'' := roomy'.of_spares sent
  rw [abort]
  refine ⟨roomy''.of_spares (.removeGalley roomy'' id), fun takesPart addressable => ?_⟩
  let v : State := (d.sendReport id .aborted why.code g.counters).mapGalleys fun gu =>
    { gu with table := gu.table.filter fun g => g.id ≠ id }
  have waits : v.line.ReportWaits id 5 why.code g.counters := by
    have waits := State.lineReported_waits (s := d) ((congrArg Station.takesPart station).trans takesPart) roomy'.room id 5
      why.code g.counters
    have sentLine : (d.sendReport id .aborted why.code g.counters).line = d.lineReported id 5 why.code g.counters := by
      rw [State.sendReport_eq _ addressable]
      rfl
    rwa [← sentLine] at waits
  have filtered := roomy''.of_spares (.filterGalley (d.sendReport id .aborted why.code g.counters) ids id)
  refine Line.ReportWaits.spared (a := v.desk) (b := v.evaluateCredit.desk) waits ?_ (.evaluateCredit filtered)
  rw [GalleyUnit.find_eq_none_iff]
  show id ∉ (List.filter _ _).map Galley.id
  simp

theorem State.exposureEnded_hands (r : QueueRecord) (hands : u.EmptyHanded) : (u.exposureEnded r).EmptyHanded := by
  unfold State.EmptyHanded
  rw [u.exposureEnded_composer]
  exact hands

/-- The galley behind an exposure's end with its cancel still to come: as it was, its count raised. -/
theorem State.exposureEnded_settled {g : Galley} (attached : r.attached = true)
    (held : u.galleys.find r.line.galley = some g) (cancelled : g.cancelPending = true) (hands : u.EmptyHanded) :
    (u.exposureEnded r).settle.EmptyHanded ∧
      ∃ g', (u.exposureEnded r).settle.galleys.find r.line.galley = some g' ∧ g'.cancelPending = true ∧
        g'.counters = { g.counters with exposed := raised g.counters.exposed } := by
  have hands' := State.exposureEnded_hands r hands
  have counted : (u.exposureEnded r).galleys.find r.line.galley =
      some { g with counters := { g.counters with exposed := raised g.counters.exposed } } := by
    rw [(State.exposureEnded_of_attached attached).2, State.find_update_self (by exact fun _ => rfl) held]
  have bound : (u.exposureEnded r).Bound True r.line.galley := .inr ⟨trivial, _, counted, cancelled⟩
  obtain ⟨g', held', stays⟩ := State.GalleyStays.settle _ (fun _ => hands') bound _ counted
  exact ⟨(State.QueueFrom.settle _).hands hands', g', held', stays.cancel.trans cancelled, stays.counters trivial⟩

/-- What an event is whose own effect is the end of an exposure with a cancel waiting for it (R18). -/
theorem State.event_of_endExposure_cancelled {f : State → State} {g : Galley} (effect : f s = u.endExposure)
    (record : u.exposingRecord = some r) (attached : r.attached = true) (held : u.galleys.find r.line.galley = some g)
    (cancelled : g.cancelPending = true) (hands : u.EmptyHanded) :
    (s.event f).imaging.exposure = none ∧ (s.event f).galleys.find r.line.galley = none ∧
      (∀ q ∈ (s.event f).queue, q.attached = true → q.line.galley ≠ r.line.galley) ∧
      (u.station.takesPart = true → r.line.galley.poster < 32 → u.line.count ≤ 4 → u.galleys.table.length ≤ 4 →
        (s.event f).line.ReportWaits r.line.galley 5 1
          { g.counters with exposed := min (g.counters.exposed + 1) 65535 }) := by
  let b := (u.exposureEnded r).settle
  obtain ⟨hands', g', held', cancelled', counted⟩ := State.exposureEnded_settled attached held cancelled hands
  have aborted : f s = b.abort r.line.galley .cancelled := by
    rw [effect, State.endExposure_of_record record]
    unfold State.applyCancel
    rw [held']
    exact if_pos cancelled'
  have follow := (State.event_of_endExposure (s := s) effect record).1
  have queue := State.QueueFrom.event s f
  have carried := State.Carried.event s f
  have spares (ids : List GalleyId) := Spares.event (ids := ids) s f
  rw [aborted] at queue carried spares
  have hands'' : (b.abort r.line.galley .cancelled).EmptyHanded := (State.QueueFrom.abort ..).hands hands'
  have gone := State.abort_find b r.line.galley .cancelled
  refine ⟨by rw [follow.imaging, Imaging.watch_exposure]; rfl, carried.find_none gone, fun q mem there => ?_,
    fun takesPart addressable free few => ?_⟩
  · obtain ⟨q', mem', raised⟩ := queue.raised hands'' mem
    rw [raised.line]
    exact State.abort_detaches held' hands' mem' (raised.attached there)
  · let ids := u.galleys.table.map Galley.id
    have short : ids.length ≤ 4 := by rw [List.length_map]; exact few
    have roomy : Roomy ids u.desk := by
      refine ⟨((u.line.load_le ids).trans (by omega) : u.line.load ids ≤ 12), fun i there => ?_⟩
      by_contra absent
      exact there ((u.galleys.find_eq_none_iff i).mpr absent)
    have ended : Spares ids u.desk (u.exposureEnded r).desk := by
      have line : (u.exposureEnded r).line = u.line := by
        unfold State.exposureEnded
        rw [if_pos attached]
        rfl
      refine .of_found line fun i gone => ?_
      rw [(State.exposureEnded_of_attached attached).2]
      exact GalleyUnit.find_update_none (by exact fun _ => rfl) gone
    have roomy' := roomy.of_spares ended
    have settled : Roomy ids b.desk := roomy'.of_spares (.settle roomy' (State.exposureEnded_hands r hands))
    have station : b.station = u.station :=
      ((u.exposureEnded_kept r).trans (State.settle_kept _)).station
    obtain ⟨roomy'', waits⟩ := State.abort_spares held' hands' settled .cancelled
    rw [counted] at waits
    exact (waits ((congrArg Station.takesPart station).trans takesPart) addressable).spared gone
      (spares ids roomy'' hands'')

/-- The effect of an instruction is the end of an exposure, with nothing else changed before it but the machinery. -/
def EndsExposure (i : Instr) (s : State) : Prop :=
  ∃ f u, exec i s = .next (s.event f) ∧ f s = State.endExposure u ∧ u.exposingRecord = s.exposingRecord ∧
    u.galleys = s.galleys ∧ u.composer = s.composer ∧ u.line = s.line ∧ u.station = s.station

theorem claims_cancelCarriedOut : Claims.CancelCarriedOut := by
  intro r e g i s record exposure attached held cancelled _ waiting todo ends
  have ends' : EndsExposure i s := by
    have flashes (ends : EndsFlashes i r e) (uncut : r.line.cutAfter = false) : EndsExposure i s := by
      obtain ⟨f, e₁, done, effect⟩ := exec_of_endsFlashes_uncut ends record exposure uncut
      exact ⟨f, _, done, effect, rfl, rfl, rfl, rfl, rfl⟩
    obtain ⟨rfl, flash, last, uncut⟩ | ⟨rfl, field, uncut⟩ | ⟨rfl, m, moves, knife, runs⟩ := ends
    · exact flashes (.inl ⟨rfl, flash, last⟩) uncut
    · exact flashes (.inr ⟨rfl, field⟩) uncut
    · exact ⟨_, _, exec_knifeDone_of_knife moves knife, State.knifed_of_running runs, rfl, rfl, rfl, rfl, rfl⟩
  obtain ⟨f, u, done, effect, record', galleys, composer, line, station⟩ := ends'
  have hands : u.EmptyHanded := by
    unfold State.EmptyHanded
    rw [composer]
    exact ⟨waiting, todo⟩
  obtain ⟨over', gone, queue, waits⟩ := State.event_of_endExposure_cancelled effect (record'.trans record) attached
    (by rw [galleys]; exact held) cancelled hands
  rw [station, line, galleys] at waits
  exact ⟨_, done, over', gone, queue, waits⟩

/-- Settles O51, from the stages of an exposure and the abort of a galley whose cancel waited. -/
theorem flashesAndCut : Obligations.FlashesAndCut :=
  ⟨claims_flashesThenCut, claims_intensity, claims_exposureEndsWithoutACut, claims_cancelCarriedOut⟩

end Sys2Proof.Machine
end

section
/-! Cassettes inserted and removed, the film test, and galleys resumed (R130, R136, R141 to R144, R151). -/

namespace Sys2Proof.Machine

variable {s t u : State} {r : QueueRecord} {g : Galley} {id : GalleyId}

/-! ## Galleys that resume (R9) -/

/-- A galley is held, in all but its credit as `g`. -/
def State.HeldAs (s : State) (id : GalleyId) (g : Galley) : Prop :=
  ∃ g', s.galleys.find id = some g' ∧ g'.uncredited = g.uncredited

theorem State.HeldAs.of_find (held : s.galleys.find id = some g) : s.HeldAs id g := ⟨g, held, rfl⟩

theorem State.HeldAs.of_same (held : s.HeldAs id g) (same : t.galleys.find id = s.galleys.find id) : t.HeldAs id g := by
  obtain ⟨g', held', same'⟩ := held
  exact ⟨g', same.trans held', same'⟩

theorem State.HeldAs.evaluateCredit (held : s.HeldAs id g) : s.evaluateCredit.HeldAs id g := by
  obtain ⟨g', held', same⟩ := held
  obtain ⟨g'', held'', same'⟩ := s.evaluateCredit_find held'
  exact ⟨g'', held'', same'.trans same⟩

theorem GalleyUnit.find_update_of_ne {gu : GalleyUnit} {i : GalleyId} {f : Galley → Galley} (keeps : ∀ g, (f g).id = g.id)
    (ne : i ≠ id) : (gu.update i f).find id = gu.find id := by
  rw [GalleyUnit.find_update keeps]
  cases held : gu.find id with
  | none => rfl
  | some g => exact congrArg some (if_neg (by rw [GalleyUnit.find_id held]; exact fun h => ne h.symm))

theorem State.HeldAs.finishGalley {i : GalleyId} (held : s.HeldAs id g) (ne : i ≠ id) : (s.finishGalley i).HeldAs id g := by
  have reported : (s.report i .done 0).HeldAs id g := held.of_same (by rw [State.report_galleys])
  exact .evaluateCredit (reported.of_same (GalleyUnit.find_filter_of_ne _ ne))

theorem State.HeldAs.enterDraining {i : GalleyId} (held : s.HeldAs id g) (ne : i ≠ id) : (s.enterDraining i).HeldAs id g := by
  have drained : (State.evaluateCredit (s.mapGalleys fun gu => gu.update i fun g =>
      { g with
        state := .draining, suspension := none, compositionEnded := true, segments := [], unitsRead := 0,
        granted := none })).HeldAs id g :=
    .evaluateCredit (held.of_same (GalleyUnit.find_update_of_ne (by exact fun _ => rfl) ne))
  unfold State.enterDraining
  dsimp only
  split
  · exact drained
  · exact drained.finishGalley ne

/-- The resuming of another galley, and of one that is not suspended, leaves a galley as it is. -/
theorem State.HeldAs.resume (held : s.HeldAs id g) (i : GalleyId) (apart : i ≠ id ∨ g.state ≠ .suspended) :
    (s.resume i).HeldAs id g := by
  unfold State.resume
  split
  · exact held
  rename_i g₁ found
  split
  · rename_i suspended
    have ne : i ≠ id := by
      rintro rfl
      obtain ⟨g', held', same⟩ := held
      obtain rfl := Option.some.inj (found.symm.trans held')
      have state : g₁.state = g.state := congrArg (fun g => g.state) same
      exact apart.elim (fun h => h rfl) fun h => h (state.symm.trans suspended)
    have reported : (s.report i .resumed 0).HeldAs id g := held.of_same (by rw [State.report_galleys])
    dsimp only
    split
    · exact reported.enterDraining ne
    · have composing : ((s.report i .resumed 0).mapGalleys fun gu =>
          gu.update i fun g => { g with state := .composing, suspension := none }).HeldAs id g :=
        reported.of_same (GalleyUnit.find_update_of_ne (by exact fun _ => rfl) ne)
      split
      · exact composing
      · exact composing
  · exact held

/-- The record of a galley that composes again (R8). -/
def Galley.composingAgain (g : Galley) : Galley := { g with state := .composing, suspension := none }

theorem State.resume_find (held : s.galleys.find id = some g) (suspended : g.state = .suspended)
    (more : g.compositionEnded = false) : (s.resume id).galleys.find id = some g.composingAgain := by
  have again : ((s.report id .resumed 0).galleys.update id Galley.composingAgain).find id = some g.composingAgain := by
    rw [State.report_galleys]
    exact State.find_update_self (f := Galley.composingAgain) (fun _ => rfl) held
  unfold State.resume
  rw [held]
  dsimp only
  rw [if_pos suspended, more, if_neg nofun]
  split
  · exact again
  · exact again

theorem State.HeldAs.foldl_resume (held : s.HeldAs id g) (ids : List GalleyId) (apart : id ∉ ids ∨ g.state ≠ .suspended) :
    (ids.foldl State.resume s).HeldAs id g := by
  induction ids generalizing s with
  | nil => exact held
  | cons i ids ih =>
    refine ih (held.resume i (apart.imp_left fun out same => ?_)) (apart.imp_left fun out there => ?_)
    · exact out (same ▸ List.mem_cons_self)
    · exact out (List.mem_cons_of_mem _ there)

/-- A galley suspended for a reason that ends composes again (R8, R9). -/
theorem State.resumeAll_find {p : Suspension → Bool} {why : Suspension} (held : s.galleys.find id = some g)
    (suspended : g.state = .suspended) (reason : g.suspension = some why) (ends : p why = true)
    (more : g.compositionEnded = false) : (s.resumeAll p).HeldAs id g.composingAgain := by
  have mem : id ∈ s.suspendedFor p := by
    refine List.mem_map.mpr ⟨g, List.mem_filter.mpr ⟨List.mem_of_find?_eq_some held, ?_⟩, GalleyUnit.find_id held⟩
    rw [suspended, reason]
    exact ends
  have resumes (ids : List GalleyId) (s : State) (held : s.HeldAs id g) (mem : id ∈ ids) :
      (ids.foldl State.resume s).HeldAs id g.composingAgain := by
    induction ids generalizing s with
    | nil => exact absurd mem List.not_mem_nil
    | cons i ids ih =>
      by_cases same : i = id
      · subst same
        obtain ⟨g', held', same⟩ := held
        have state : g'.state = g.state := congrArg (fun g => g.state) same
        have more' : g'.compositionEnded = g.compositionEnded := congrArg (fun g => g.compositionEnded) same
        have again : (s.resume i).HeldAs i g.composingAgain :=
          ⟨_, State.resume_find held' (state.trans suspended) (more'.trans more), congrArg Galley.composingAgain same⟩
        exact again.foldl_resume ids (.inr nofun)
      · exact ih _ (held.resume i (.inl same)) ((List.mem_cons.mp mem).resolve_left fun h => same h.symm)
  exact resumes _ s (.of_find held) mem

theorem State.enterDraining_composer (s : State) (id : GalleyId) : (s.enterDraining id).composer = s.composer := by
  unfold State.enterDraining
  dsimp only
  split
  · rfl
  · rw [State.finishGalley_composer]
    rfl

theorem State.resume_todo (s : State) (id : GalleyId) : (s.resume id).composer.todo = s.composer.todo := by
  unfold State.resume
  split
  · rfl
  split
  · have reported : (s.report id .resumed 0).composer = s.composer := by rw [State.report_alone]
    dsimp only
    split
    · rw [State.enterDraining_composer, reported]
    split
    · exact congrArg (fun c => c.todo) reported
    · exact congrArg (fun c => c.todo) reported
  · rfl

theorem State.resumeAll_todo (s : State) (p : Suspension → Bool) : (s.resumeAll p).composer.todo = s.composer.todo := by
  unfold State.resumeAll
  generalize s.suspendedFor p = ids
  induction ids generalizing s with
  | nil => rfl
  | cons id ids ih => rw [List.foldl_cons, ih, State.resume_todo]

/-! ## Rest, and the film test (R130) -/

/-- Whether settling has nothing to do is a matter of the queue and of the composer's tasks alone. -/
theorem State.AtRest.of_queue (rest : s.AtRest) (queue : t.queue = s.queue) (todo : t.composer.todo = s.composer.todo) :
    t.AtRest where
  marks := by
    have same : markProof (markExposure s.queue) = s.queue := congrArg State.queue rest.marks
    rw [← queue] at same
    exact congrArg (fun q => { t with queue := q }) same
  departure := by
    have none' := rest.departure
    unfold State.departure at *
    rw [queue]
    split at none'
    · exact absurd none' nofun
    · rename_i absent
      split at none'
      · split at none'
        · exact absurd none' nofun
        · rename_i waits
          exact congrArg Option.isNone (if_neg waits)
      · rfl
  todo := todo.trans rest.todo

/-- What the examination leaves of the galleys and of the transport where the walk's next record has not changed. -/
theorem State.examine_filmTest : (s.examine s.exposureNextName).galleys = s.filmTest.galleys ∧
    (s.examine s.exposureNextName).transport = s.filmTest.transport := by
  unfold State.examine
  rw [if_pos rfl]
  exact ⟨rfl, rfl⟩

theorem State.event_filmTest {f : State → State} (rest : s.AtRest) (queue : (f s).queue = s.queue)
    (todo : (f s).composer.todo = s.composer.todo) :
    (s.event f).galleys = (f s).filmTest.galleys ∧ (s.event f).transport = (f s).filmTest.transport := by
  have name : s.exposureNextName = (f s).exposureNextName := by
    unfold State.exposureNextName State.exposureNext
    rw [queue]
  rw [State.event_of_atRest (rest.of_queue queue todo), name]
  exact State.examine_filmTest

theorem State.suspend_suspendedForFilm (held : s.HeldAs id g) (active : g.Suspendable) :
    (s.suspend id .film).SuspendedForFilm id := by
  obtain ⟨g', held', same⟩ := held
  have state : g'.state = g.state := congrArg (fun g => g.state) same
  have active' : g'.Suspendable := by
    unfold Galley.Suspendable
    rw [state]
    exact active
  refine ⟨g'.suspendedFor .film, ?_, rfl, rfl⟩
  rw [State.suspend_of_suspendable held' active']
  exact State.find_update_self (f := Galley.suspendedFor .film) (fun _ => rfl) held'

theorem State.suspend_transport (s : State) (id : GalleyId) (why : Suspension) :
    (s.suspend id why).transport = s.transport := (s.suspend_kept id why).transport

/-- The film test where it is made: for a RUNNING station with an IDLE transport and no exposure in progress. -/
structure State.FilmTestMade (s : State) (r : QueueRecord) : Prop where
  next : s.exposureNext = some r
  running : s.station.mode = .running
  still : s.imaging.state ≠ .exposing
  idle : s.transport.state = .idle

/-- With film for the record the test changes nothing (R130). -/
theorem State.FilmTestMade.served (made : s.FilmTestMade r) (supply : r.line.movement.toNat + 1440 ≤ s.transport.remaining)
    (takeUp : s.transport.takeUpHeld + r.line.movement.toNat + (if r.line.cutAfter then 1440 else 0) ≤ 2592000) :
    s.filmTest = s := by
  have supply' : s.transport.supplyServes r.line = true := decide_eq_true supply
  have takeUp' : s.transport.takeUpServes r.line = true := decide_eq_true takeUp
  unfold State.filmTest
  rw [made.next]
  dsimp only
  rw [if_pos ⟨made.running, made.still, made.idle⟩, if_neg (by rw [supply']; exact nofun),
    if_neg (by rw [takeUp']; exact nofun)]

theorem State.FilmTestMade.tested (made : s.FilmTestMade r) (held : s.HeldAs r.line.galley g) (active : g.Suspendable)
    (galleys : t.galleys = s.filmTest.galleys) (transport : t.transport = s.filmTest.transport) :
    t.FilmTested r.line s.transport := by
  have test : s.filmTest =
      if s.transport.supplyServes r.line = false then
        (s.mapTransport fun t => { t with state := .filmOut }).suspend r.line.galley .film
      else if s.transport.takeUpServes r.line = false then
        (s.mapTransport fun t => { t with state := .takeUpFull }).suspend r.line.galley .film
      else s := by
    unfold State.filmTest
    rw [made.next]
    exact if_pos ⟨made.running, made.still, made.idle⟩
  have suspended (state : TransportState) (effect : s.filmTest =
      (s.mapTransport fun t => { t with state := state }).suspend r.line.galley .film) :
      t.transport = { s.transport with state := state } ∧ t.SuspendedForFilm r.line.galley := by
    refine ⟨?_, ?_⟩
    · rw [transport, effect, State.suspend_transport]
      rfl
    · unfold State.SuspendedForFilm
      rw [galleys, effect]
      exact State.suspend_suspendedForFilm (s := s.mapTransport _) held active
  refine ⟨fun short => suspended .filmOut ?_, fun supply full => suspended .takeUpFull ?_, fun supply takeUp => ?_⟩
  · rw [test]
    exact if_pos (decide_eq_false (Nat.not_le.mpr short))
  · rw [test, if_neg (by rw [show s.transport.supplyServes r.line = true from decide_eq_true supply]; exact nofun)]
    exact if_pos (decide_eq_false (Nat.not_le.mpr full))
  · rw [transport, made.served supply takeUp]

/-! ## Cassettes inserted -/

theorem supplyLengthOf_eq_some {code length : Nat} (valid : (code, length) ∈ [(1, 864000), (2, 1728000), (3, 2592000)]) :
    supplyLengthOf code = some length := by
  simp only [List.mem_cons, Prod.mk.injEq, List.not_mem_nil, or_false] at valid
  obtain ⟨rfl, rfl⟩ | ⟨rfl, rfl⟩ | ⟨rfl, rfl⟩ := valid <;> rfl

theorem supplyLengthOf_eq_none {code : Nat} (invalid : code = 0 ∨ 3 < code) : supplyLengthOf code = none := by
  unfold supplyLengthOf
  split
  · omega
  · omega
  · omega
  · rfl

theorem Stock.ofCode_eq {stock : Nat} (valid : stock < 2) : Stock.ofCode stock = some (if stock = 0 then .paper else .film) := by
  obtain rfl | rfl : stock = 0 ∨ stock = 1 := by omega
  · rfl
  · rfl

theorem Transport.inMotion_eq_false {u : Transport} (still : u.state ≠ .moving) (uncut : u.state ≠ .cutting) :
    u.inMotion = false := by
  cases state : u.state with
  | moving => exact absurd state still
  | cutting => exact absurd state uncut
  | _ => simp [Transport.inMotion, state]

theorem exec_supplyInsertion_of_valid {code stock length : Nat} (rest : s.transport.inMotion = false)
    (valid : (code, length) ∈ [(1, 864000), (2, 1728000), (3, 2592000)]) (stock' : stock < 2) :
    exec (.supplyInsertion code stock) s =
      .next (s.event fun s =>
        (s.mapTransport fun t => t.mountSupply length (if stock = 0 then .paper else .film)).cassetteMounted) := by
  show execSupplyInsertion code stock s = _
  unfold execSupplyInsertion
  rw [rest, supplyLengthOf_eq_some valid, Stock.ofCode_eq stock']
  rfl

theorem exec_takeUpInsertion_of_rest (rest : s.transport.inMotion = false) :
    exec .takeUpInsertion s = .next (s.event fun s => (s.mapTransport Transport.mountTakeUp).cassetteMounted) := by
  show execTakeUpInsertion s = _
  unfold execTakeUpInsertion
  rw [rest]
  rfl

/-- The transport with a cassette mounted: IDLE where both are present now (R144). -/
def Transport.mounted (u : Transport) : Transport :=
  if u.state = .noCassette ∧ u.bothPresent then { u with state := .idle } else u

theorem State.cassetteMounted_kept (s : State) :
    State.MachineryKept { s with transport := s.transport.mounted } s.cassetteMounted := by
  unfold State.cassetteMounted Transport.mounted
  split
  · exact State.resumeAll_kept ..
  · exact .refl s

/-- What an event leaves of the transport into which a cassette was mounted. -/
theorem State.FollowUp.mounted {u : Transport} (follow : State.FollowUp { s with transport := u.mounted } t) :
    t.transport = { u with state := t.transport.state } ∧
      (u.mounted.state ≠ .idle → t.transport.state = u.mounted.state) ∧
      (u.mounted.state = .idle → t.transport.state ≠ .noCassette) := by
  have counters : u.mounted = { u with state := u.mounted.state } := by
    unfold Transport.mounted
    split <;> rfl
  generalize u.mounted = v at counters follow
  obtain same | ⟨idle, same | same⟩ := follow.transport
  · rw [same]
    exact ⟨counters, fun _ => rfl, fun idle => by rw [show v.state = _ from idle]; exact nofun⟩
  · rw [same, counters]
    exact ⟨rfl, fun busy => absurd idle busy, nofun⟩
  · rw [same, counters]
    exact ⟨rfl, fun busy => absurd idle busy, nofun⟩

theorem claims_cassetteInserted : Claims.CassetteInserted := by
  intro code stock s still uncut
  have rest := Transport.inMotion_eq_false still uncut
  refine ⟨fun length valid stock' => ?_, fun invalid => ?_, ?_⟩
  · let u := s.transport.mountSupply length (if stock = 0 then .paper else .film)
    obtain ⟨counters, kept, leaves⟩ := State.FollowUp.mounted (.of_kept (State.cassetteMounted_kept { s with transport := u })
      (s.event_followUp fun s =>
        (s.mapTransport fun t => t.mountSupply length (if stock = 0 then .paper else .film)).cassetteMounted))
    refine ⟨_, exec_supplyInsertion_of_valid rest valid stock', ?_⟩
    rw [counters]
    refine ⟨rfl, rfl, rfl, rfl, rfl, rfl, rfl, fun mounted busy => ?_, fun out absent => ?_, fun out present => leaves ?_⟩
    · have same : u.mounted = u := if_neg fun h => mounted h.1
      rw [same] at kept
      exact kept busy
    · have same : u.mounted = u := if_neg fun h => by
        have both : (true && s.transport.takeUpPresent) = true := h.2
        rw [absent] at both
        exact absurd both nofun
      rw [same] at kept
      exact (kept (by rw [show u.state = _ from out]; exact nofun)).trans out
    · have both : (true && s.transport.takeUpPresent) = true := by rw [present]; rfl
      exact congrArg Transport.state (if_pos (show u.state = .noCassette ∧ u.bothPresent = true from ⟨out, both⟩))
  · show execSupplyInsertion code stock s = _
    unfold execSupplyInsertion
    rw [rest, supplyLengthOf_eq_none invalid]
    rfl
  · obtain ⟨counters, -, -⟩ := State.FollowUp.mounted (.of_kept
      (State.cassetteMounted_kept { s with transport := s.transport.mountTakeUp })
      (s.event_followUp fun s => (s.mapTransport Transport.mountTakeUp).cassetteMounted))
    refine ⟨_, exec_takeUpInsertion_of_rest rest, ?_⟩
    rw [counters]
    exact ⟨rfl, rfl, rfl, rfl, rfl, rfl, rfl⟩

/-! ## Cassettes removed -/

/-- What a removal leaves but the galley of the record that was exposed. -/
theorem State.event_of_dismount {f : State → State} {clear : Transport → Transport} (effect : f s = s.dismount clear)
    (state : ∀ u, (clear u).state = u.state) :
    State.FollowUp
      { s with
        transport := clear s.transport.dismounted
        imaging :=
          if s.imaging.exposure.isSome then { s.imaging with state := .ready, exposure := none } else s.imaging }
      (s.event f) ∧ (s.event f).transport = clear s.transport.dismounted := by
  have kept : State.MachineryKept
      { s with
        transport := clear s.transport.dismounted
        imaging :=
          if s.imaging.exposure.isSome then { s.imaging with state := .ready, exposure := none } else s.imaging }
      (f s) := by
    rw [effect]
    cases exposure : s.imaging.exposure with
    | none =>
      unfold State.dismount
      rw [State.stopExposure_of_none (by exact exposure)]
      exact .refl _
    | some e => exact State.stopExposure_kept (s := s.mapTransport fun t => clear t.dismounted) (by exact exposure) .film
  have follow := State.FollowUp.of_kept kept (s.event_followUp f)
  refine ⟨follow, follow.transport_of_busy ?_⟩
  show (clear s.transport.dismounted).state ≠ _
  rw [state]
  unfold Transport.dismounted
  split
  · rename_i jammed
    rw [jammed]
    exact nofun
  · dsimp only
    split <;> exact nofun

/-- The galley of the record that was exposed is suspended for FILM (R136). -/
theorem State.event_of_dismount_suspends {f : State → State} {clear : Transport → Transport} {e : Exposure}
    (effect : f s = s.dismount clear) (exposure : s.imaging.exposure = some e) (record : s.exposingRecord = some r)
    (un : r.Unexposed) (held : s.galleys.find r.line.galley = some g) (active : g.Suspendable)
    (wanted : g.cancelPending = false) : (s.event f).SuspendedForFilm r.line.galley := by
  obtain ⟨⟨g', held', state, why⟩, bound⟩ :=
    State.stopExposure_suspends (s := s.mapTransport fun t => clear t.dismounted) exposure record un held active wanted .film
  have effect' : f s = (s.mapTransport fun t => clear t.dismounted).stopExposure .film := effect
  rw [← effect'] at held' bound
  obtain ⟨g'', held'', stays⟩ := State.GalleyStays.event s f False.elim bound g' held'
  obtain ⟨state', why'⟩ := stays.suspended state
  exact ⟨g'', held'', state', why'.trans why⟩

theorem Transport.dismounted_of_jammed {u : Transport} (jammed : u.state = .jammed) : u.dismounted = u := if_pos jammed

theorem Transport.dismounted_state {u : Transport} (runs : u.state ≠ .jammed) : u.dismounted.state = .noCassette := by
  unfold Transport.dismounted
  rw [if_neg runs]
  dsimp only
  split <;> rfl

theorem Transport.dismounted_operation {u : Transport} (moves : u.state = .moving ∨ u.state = .cutting) :
    u.dismounted.move = none ∧ u.dismounted.trips = 0 := by
  have motion : u.inMotion = true := by
    obtain state | state := moves <;> simp [Transport.inMotion, state]
  unfold Transport.dismounted
  rw [if_neg (by obtain state | state := moves <;> rw [state] <;> exact nofun)]
  dsimp only
  rw [if_pos motion]
  exact ⟨rfl, rfl⟩

theorem Transport.dismounted_kept (u : Transport) :
    u.dismounted = { u with
      state := u.dismounted.state, move := u.dismounted.move, trips := u.dismounted.trips, depth := u.dismounted.depth } := by
  unfold Transport.dismounted
  split
  · rfl
  · dsimp only
    split <;> rfl

theorem claims_cassetteRemoved : Claims.CassetteRemoved := by
  intro i s removed
  have removed' : ∃ clear f, exec i s = .next (s.event f) ∧ f s = s.dismount clear ∧
      (∀ u, (clear u).state = u.state ∧ (clear u).move = u.move ∧ (clear u).trips = u.trips) ∧
      (i = .supplyRemoval → clear = Transport.clearSupply) ∧
      (i = .takeUpRemoval → clear = fun t => { t with takeUpPresent := false }) := by
    obtain ⟨rfl, present⟩ | ⟨rfl, present⟩ := removed
    · exact ⟨_, _, congrArg Host.Outcome.next (if_pos present), rfl, fun _ => ⟨rfl, rfl, rfl⟩, fun _ => rfl, nofun⟩
    · exact ⟨_, _, congrArg Host.Outcome.next (if_pos present), rfl, fun _ => ⟨rfl, rfl, rfl⟩, nofun, fun _ => rfl⟩
  obtain ⟨clear, f, done, effect, spares, supply, takeUp⟩ := removed'
  obtain ⟨follow, transport⟩ := State.event_of_dismount effect fun u => (spares u).1
  obtain ⟨state, move, trips⟩ := spares s.transport.dismounted
  refine ⟨_, done, ?_, fun jammed => ?_, fun runs => ?_, fun moves => ?_, fun supply' => ?_, fun takeUp' => ?_, ?_, ?_,
    follow.station, follow.hyphenation, follow.memory, follow.ring⟩
  · rw [follow.imaging, Imaging.watch_exposure]
    cases exposure : s.imaging.exposure with
    | none => exact exposure
    | some e => rfl
  · rw [transport, state, Transport.dismounted_of_jammed jammed, jammed]
  · rw [transport, state, Transport.dismounted_state runs]
  · rw [transport, move, trips]
    exact Transport.dismounted_operation moves
  · rw [transport, supply supply', Transport.dismounted_kept]
    exact ⟨rfl, rfl, rfl, rfl, rfl, rfl, rfl, rfl⟩
  · rw [transport, takeUp takeUp', Transport.dismounted_kept]
    exact ⟨rfl, rfl, rfl, rfl, rfl⟩
  · intro _ exposes
    rw [follow.imaging]
    dsimp only
    rw [if_pos exposes]
    exact Imaging.watch_ready rfl _
  · intro r g exposes record attached unexposed needs held composing wanted _
    obtain ⟨e, exposure⟩ := Option.isSome_iff_exists.mp exposes
    exact State.event_of_dismount_suspends effect exposure record ⟨attached, unexposed, needs⟩ held (.inl composing) wanted

/-! ## The film test at its occasions (R130) -/

/-- The transport that a supply cassette inserted leaves, both being present. -/
theorem Transport.mounted_of_supply {u : Transport} {length : Nat} {stock : Stock}
    (ready : u.state = .idle ∨ u.state = .noCassette ∧ u.takeUpPresent = true) :
    (u.mountSupply length stock).mounted =
      { u with
        state := .idle, supplyPresent := true, supplyLength := length, remaining := length, drawn := 0, depth := 0
        stock := some stock } := by
  unfold Transport.mounted
  obtain idle | ⟨out, present⟩ := ready
  · rw [if_neg]
    · unfold Transport.mountSupply
      rw [← idle]
    · rintro ⟨out, -⟩
      exact absurd (idle.symm.trans out) nofun
  · have both : (u.mountSupply length stock).bothPresent = true := by
      show (true && u.takeUpPresent) = true
      rw [present]
      rfl
    rw [if_pos ⟨out, both⟩]
    rfl

theorem State.cassetteMounted_queue (s : State) : s.cassetteMounted.queue = s.queue := by
  unfold State.cassetteMounted
  split
  · exact State.resumeAll_queue ..
  · rfl

theorem State.cassetteMounted_todo (s : State) : s.cassetteMounted.composer.todo = s.composer.todo := by
  unfold State.cassetteMounted
  split
  · exact State.resumeAll_todo ..
  · rfl

theorem State.exposureNext_of_queue (queue : t.queue = s.queue) : t.exposureNext = s.exposureNext := by
  unfold State.exposureNext
  rw [queue]

/-- The film test behind a cassette's insertion that leaves the transport IDLE (R130, R144). -/
theorem State.event_of_cassetteMounted {f : State → State} {u v : Transport}
    (effect : f s = State.cassetteMounted { s with transport := v }) (mounted : v.mounted = u) (idle : u.state = .idle)
    (rest : s.AtRest) (next : s.exposureNext = some r) (running : s.station.mode = .running)
    (still : s.imaging.state ≠ .exposing) :
    (f s).FilmTestMade r ∧ (f s).transport = u ∧ (s.event f).galleys = (f s).filmTest.galleys ∧
      (s.event f).transport = (f s).filmTest.transport := by
  have kept := State.cassetteMounted_kept { s with transport := v }
  have queue := State.cassetteMounted_queue { s with transport := v }
  have todo := State.cassetteMounted_todo { s with transport := v }
  rw [mounted, ← effect] at kept
  rw [← effect] at queue todo
  obtain ⟨galleys, transport⟩ := State.event_filmTest rest queue todo
  exact ⟨⟨(State.exposureNext_of_queue queue).trans next, by rw [kept.station]; exact running, by rw [kept.imaging]; exact still,
    by rw [kept.transport]; exact idle⟩, kept.transport, galleys, transport⟩

theorem exec_warmUpTimer_of_warming (warming : s.imaging.state = .warming) :
    exec .warmUpTimer s = .next (s.event fun s => s.mapImaging fun i =>
      { i with state := .ready, warmUp := none, turret := if i.turret = .homing then .standing 0 else i.turret }) :=
  congrArg Host.Outcome.next (if_pos warming)

/-- A galley that is composed is held on behind a cassette's insertion. -/
theorem State.HeldAs.cassetteMounted (held : s.HeldAs id g) (composing : g.state = .composing) :
    s.cassetteMounted.HeldAs id g := by
  unfold State.cassetteMounted
  split
  · exact State.HeldAs.foldl_resume (s := s.mapTransport _) held _ (.inr (by rw [composing]; exact nofun))
  · exact held

theorem State.filmCheck_of_film (film : s.transport.withoutFilm = false) : s.filmCheck = s := by
  unfold State.filmCheck
  split
  · rfl
  · exact if_neg (by rw [film]; exact fun h => absurd h.2 nofun)

theorem claims_filmTest : Claims.FilmTest := by
  intro r g s rest next held composing _
  refine ⟨fun warming running idle => ?_, fun code stock length u still running ready valid stock' mounted => ?_,
    fun h heard halted still idle => ?_⟩
  · obtain ⟨galleys, transport⟩ := State.event_filmTest (f := fun s => s.mapImaging fun i =>
      { i with state := .ready, warmUp := none, turret := if i.turret = .homing then .standing 0 else i.turret }) rest rfl rfl
    have made : State.FilmTestMade (s.mapImaging fun i =>
        { i with state := .ready, warmUp := none, turret := if i.turret = .homing then .standing 0 else i.turret }) r :=
      ⟨next, running, nofun, idle⟩
    exact ⟨_, exec_warmUpTimer_of_warming warming, made.tested (.of_find held) (.inl composing) galleys transport⟩
  · have motion : s.transport.inMotion = false := by
      obtain idle | ⟨out, -⟩ := ready
      · simp [Transport.inMotion, idle]
      · simp [Transport.inMotion, out]
    let v := s.transport.mountSupply length (if stock = 0 then .paper else .film)
    have composed : (State.cassetteMounted { s with transport := v }).HeldAs r.line.galley g :=
      (State.HeldAs.of_find (s := { s with transport := v }) held).cassetteMounted composing
    obtain ⟨made, same, galleys, transport⟩ := State.event_of_cassetteMounted (s := s)
      (f := fun s => (s.mapTransport fun t => t.mountSupply length (if stock = 0 then .paper else .film)).cassetteMounted)
      (v := v) rfl ((Transport.mounted_of_supply ready).trans mounted.symm) (by rw [mounted]) rest next running still
    refine ⟨_, exec_supplyInsertion_of_valid motion valid stock', ?_⟩
    rw [← same]
    exact made.tested composed (.inl composing) galleys transport
  · let u : State := { s.frameEnded with station := { s.station with mode := .running } }
    have released : s.frameEnded.releaseHalt = s.releasing.filmCheck.examine s.releasing.exposureNextName := if_pos halted
    have kept : State.MachineryKept u s.releasing := State.resumeAll_kept u _
    have queue : s.releasing.queue = s.queue := State.resumeAll_queue u _
    have film : s.releasing.transport = s.transport := kept.transport
    have composed : s.releasing.HeldAs r.line.galley g :=
      State.HeldAs.foldl_resume (s := u) (.of_find held) _ (.inr (by rw [composing]; exact nofun))
    have made : s.releasing.FilmTestMade r :=
      ⟨(State.exposureNext_of_queue queue).trans next, by rw [kept.station], by rw [kept.imaging]; exact still,
        by rw [film]; exact idle⟩
    have checked : s.releasing.filmCheck = s.releasing :=
      State.filmCheck_of_film (by rw [film]; simp [Transport.withoutFilm, idle])
    obtain ⟨galleys, transport⟩ := State.examine_filmTest (s := s.releasing)
    refine ⟨_, exec_stationRelease_of_hears heard, ?_⟩
    rw [released, checked, ← film]
    exact made.tested composed (.inl composing) galleys transport

/-- The galley that waits at the walk composes again, and the film is tested afresh (R9, R130). -/
theorem claims_filmRestored : Claims.FilmRestored := by
  intro r g i s u rest next held suspended film more _ still running out inserted
  have done : ∃ f v, exec i s = .next (s.event f) ∧ f s = State.cassetteMounted { s with transport := v } ∧ v.mounted = u ∧
      v.state = .noCassette ∧ v.bothPresent = true := by
    have motion : s.transport.inMotion = false := by simp [Transport.inMotion, out]
    obtain ⟨code, stock, length, rfl, stock', present, valid, mounted⟩ | ⟨rfl, present, mounted⟩ := inserted
    · refine ⟨_, _, exec_supplyInsertion_of_valid motion valid stock', rfl, ?_, out, ?_⟩
      · rw [mounted]
        exact Transport.mounted_of_supply (.inr ⟨out, present⟩)
      · show (true && s.transport.takeUpPresent) = true
        rw [present]
        rfl
    · have both : s.transport.mountTakeUp.bothPresent = true := by
        show (s.transport.supplyPresent && true) = true
        rw [present]
        rfl
      refine ⟨_, _, exec_takeUpInsertion_of_rest motion, rfl, ?_, out, both⟩
      rw [mounted]
      exact if_pos ⟨out, both⟩
  obtain ⟨f, v, done, effect, mounted, out', both⟩ := done
  have idle : u.state = .idle := by
    rw [← mounted]
    exact congrArg Transport.state (if_pos ⟨out', both⟩)
  have resumes : f s = State.resumeAll { s with transport := { v with state := .idle } } fun why => why == .film := by
    rw [effect]
    exact if_pos ⟨out', both⟩
  have again : (f s).HeldAs r.line.galley g.composingAgain := by
    rw [resumes]
    exact State.resumeAll_find (s := { s with transport := { v with state := .idle } }) held suspended film rfl more
  obtain ⟨made, same, galleys, transport⟩ := State.event_of_cassetteMounted effect mounted idle rest next running still
  refine ⟨_, done, ?_, fun supply takeUp => ?_⟩
  · rw [← same]
    exact made.tested again (.inl rfl) galleys transport
  · rw [← same] at supply takeUp
    rw [galleys, made.served supply takeUp]
    obtain ⟨g', held', alike⟩ := again
    exact ⟨g', held', congrArg (fun g => g.state) alike, congrArg (fun g => g.suspension) alike⟩

/-- A station released with no film for the walk's next record suspends its galley (R130). -/
theorem State.release_withoutFilm {h : Header} (without : s.transport.withoutFilm = true) (next : s.exposureNext = some r)
    (held : s.galleys.find r.line.galley = some g) (composing : g.state = .composing)
    (heard : s.hears .stationRelease h = true) (halted : s.station.mode = .halted) :
    ∃ t, exec (.stationRelease h) s = .next t ∧ t.transport = s.transport ∧ t.SuspendedForFilm r.line.galley := by
  let u : State := { s.frameEnded with station := { s.station with mode := .running } }
  have released : s.frameEnded.releaseHalt = s.releasing.filmCheck.examine s.releasing.exposureNextName := if_pos halted
  have kept : State.MachineryKept u s.releasing := State.resumeAll_kept u _
  have queue : s.releasing.queue = s.queue := State.resumeAll_queue u _
  have film : s.releasing.transport = s.transport := kept.transport
  have composed : s.releasing.HeldAs r.line.galley g :=
    State.HeldAs.foldl_resume (s := u) (.of_find held) _ (.inr (by rw [composing]; exact nofun))
  have checked : s.releasing.filmCheck = s.releasing.suspend r.line.galley .film := by
    unfold State.filmCheck
    rw [(State.exposureNext_of_queue queue).trans next]
    exact if_pos ⟨by rw [kept.station], by rw [film]; exact without⟩
  have name : s.releasing.exposureNextName = s.releasing.filmCheck.exposureNextName := by
    unfold State.exposureNextName
    rw [State.exposureNext_of_queue (s := s.releasing) (t := s.releasing.filmCheck) (by rw [checked, State.suspend_queue])]
  obtain ⟨g', held', state, why⟩ := State.suspend_suspendedForFilm composed (.inl composing)
  rw [← checked] at held'
  obtain ⟨g'', held'', stays⟩ := State.GalleyStays.examine (fixed := False) s.releasing.filmCheck
    s.releasing.filmCheck.exposureNextName g' held'
  obtain ⟨state', why'⟩ := stays.suspended state
  have follow := State.examine_followUp s.releasing.filmCheck s.releasing.filmCheck.exposureNextName
  have transport : s.releasing.filmCheck.transport = s.transport := (State.filmCheck_kept _).transport.trans film
  refine ⟨_, exec_stationRelease_of_hears heard, ?_⟩
  rw [released, name]
  refine ⟨(follow.transport_of_busy ?_).trans transport, g'', held'', state', why'.trans why⟩
  rw [transport]
  intro idle
  simp [Transport.withoutFilm, idle] at without

end Sys2Proof.Machine
end

section
/-! The breaks of a line, the ladder and the run list (R50 to R53, R61, R81). -/

namespace Sys2Proof.Machine

variable {c : Composer} {u : Hyphenation} {fs : FontStore} {g : Galley}

/-! ## The run list (R61) -/

/-- The characters of a run list, with the font and the size of their runs. -/
def charsOf (runs : List Run) : List (Nat × Nat × Nat × Int) :=
  runs.flatMap fun r => r.chars.map fun c => (r.font, r.size, c.1, c.2)

/-- Runs that follow one another differ in font or size, and none is empty. -/
def RunsSeparate (runs : List Run) : Prop :=
  (runs.IsChain fun a b => ¬(a.font = b.font ∧ a.size = b.size)) ∧ ∀ r ∈ runs, r.chars ≠ []

theorem consRun_cons (code font size : Nat) (x : Int) (r : Run) (rest : List Run) :
    consRun code font size x (r :: rest) =
      if r.font = font ∧ r.size = size then { r with chars := (code, x) :: r.chars } :: rest
      else { font := font, size := size, chars := [(code, x)] } :: r :: rest := rfl

theorem charsOf_consRun (code font size : Nat) (x : Int) (runs : List Run) :
    charsOf (consRun code font size x runs) = (font, size, code, x) :: charsOf runs := by
  cases runs with
  | nil => rfl
  | cons r rest =>
    rw [consRun_cons]
    split
    · rename_i same
      simp [charsOf, same]
    · rfl

theorem runsSeparate_consRun {runs : List Run} (separate : RunsSeparate runs) (code font size : Nat) (x : Int) :
    RunsSeparate (consRun code font size x runs) := by
  cases runs with
  | nil => exact ⟨.singleton _, by simp [consRun]⟩
  | cons r rest =>
    obtain ⟨chain, some'⟩ := separate
    rw [consRun_cons]
    split
    · refine ⟨?_, fun r' mem => ?_⟩
      · cases rest with
        | nil => exact .singleton _
        | cons r₂ rest =>
          rw [List.isChain_cons_cons] at *
          exact chain
      · obtain rfl | mem := List.mem_cons.mp mem
        · exact List.cons_ne_nil _ _
        · exact some' r' (List.mem_cons_of_mem _ mem)
    · rename_i other
      refine ⟨List.isChain_cons_cons.mpr ⟨fun same => other ⟨same.1.symm, same.2.symm⟩, chain⟩, fun r' mem => ?_⟩
      obtain rfl | mem := List.mem_cons.mp mem
      · exact List.cons_ne_nil _ _
      · exact some' r' mem

theorem claims_runsListTheCharacters : Claims.RunsListTheCharacters := by
  intro placed
  have listed : charsOf (runsOf placed) = placed.filterMap (fun b =>
      match b.1 with
      | .char code font size _ => some (font, size, code, b.2)
      | .fixed _ => none) ∧ RunsSeparate (runsOf placed) := by
    induction placed with
    | nil => exact ⟨rfl, .nil, nofun⟩
    | cons b rest ih =>
      obtain ⟨box, x⟩ := b
      cases box with
      | fixed w => exact ih
      | char code font size w =>
        refine ⟨?_, runsSeparate_consRun ih.2 code font size x⟩
        show charsOf (consRun code font size x (runsOf rest)) = _
        rw [charsOf_consRun, ih.1]
        rfl
  exact ⟨listed.1, listed.2.1, listed.2.2⟩

/-! ## The record of a line (R62) -/

theorem positions_map_fst (x : Int) (items : List Item) (ws : List Int) (gaps : List Nat) :
    (positions x items ws gaps).map Prod.fst = items.filterMap Item.box? := by
  induction x, items, ws, gaps using positions.induct with
  | case1 => rfl
  | case2 x g rest w ws gaps ih => exact ih
  | case3 x g rest gaps ih => exact ih
  | case4 x b first rest ws gaps gap ih =>
    unfold positions
    rw [if_pos gap, List.map_cons, ih]
    rfl
  | case5 x b first rest ws gaps gap ih =>
    unfold positions
    rw [if_neg gap, List.map_cons, ih]
    rfl

theorem codes_eq_charsOf (runs : List Run) :
    (runs.flatMap fun run => run.chars.map Prod.fst) = (charsOf runs).map fun c => c.2.2.1 := by
  unfold charsOf
  rw [List.map_flatMap]
  refine List.flatMap_congr fun r _ => ?_
  rw [List.map_map]
  rfl

/-- The characters of a record are those of its line. -/
theorem Composer.record_codes (c : Composer) (g : Galley) (how : Closing) (flags : Flags) :
    (c.record g how flags).codes = c.line.boxes.filterMap Box.code? := by
  let placed := positions ((c.params.effectiveIndent + (c.setting how).quadOffset : Nat) : Int) c.line.items
    (c.setting how).glues (c.setting how).gaps
  have boxes : c.line.boxes = placed.map Prod.fst := (positions_map_fst ..).symm
  show ((runsOf placed).flatMap fun run => run.chars.map Prod.fst) = _
  rw [codes_eq_charsOf, show charsOf (runsOf placed) = _ from (claims_runsListTheCharacters placed).1, boxes,
    List.map_filterMap, List.filterMap_map]
  refine List.filterMap_congr fun b _ => ?_
  obtain ⟨box, x⟩ := b
  cases box <;> rfl

theorem Composer.setting_flags (c : Composer) (how : Closing) :
    (c.setting how).flags.overset = false ∧ (c.setting how).flags.hyphenated = false := by
  have quad (width : Nat) (quad : Quad) : (setByQuad c.line width quad).flags = Flags.none := by cases quad <;> rfl
  have justified (width cap : Nat) :
      (justify c.line width cap).flags.overset = false ∧ (justify c.line width cap).flags.hyphenated = false := by
    unfold justify
    dsimp only
    split_ifs <;> exact ⟨rfl, rfl⟩
  have either : (if c.params.quad = .justify then justify c.line c.params.available c.params.letterspaceCap
      else setByQuad c.line c.params.available c.params.quad).flags.overset = false ∧
      (if c.params.quad = .justify then justify c.line c.params.available c.params.letterspaceCap
      else setByQuad c.line c.params.available c.params.quad).flags.hyphenated = false := by
    split
    · exact justified ..
    · rw [quad]
      exact ⟨rfl, rfl⟩
  cases how with
  | forced => exact ⟨rfl, rfl⟩
  | unit =>
    show (setByQuad ..).flags.overset = _ ∧ (setByQuad ..).flags.hyphenated = _
    rw [quad]
    exact ⟨rfl, rfl⟩
  | hyphen => exact either
  | plain => exact either

/-- A line closed by a forced break alone is flagged OVERSET, and by a hyphen break alone HYPHENATED (R50, R52, R81). -/
theorem Composer.closeLine_flags (c : Composer) (g : Galley) (how : Closing) :
    (c.closeLine g how).2.flags.overset = decide (how = .forced) ∧
      (c.closeLine g how).2.flags.hyphenated = decide (how = .hyphen) := by
  obtain ⟨overset, hyphenated⟩ := c.setting_flags how
  have overset' (flags : Flags) : (c.record g how flags).flags.overset = flags.overset := by
    show (((c.setting how).flags.overset || flags.overset) || false) = _
    rw [overset, Bool.or_false, Bool.false_or]
  have hyphenated' (flags : Flags) : (c.record g how flags).flags.hyphenated = flags.hyphenated := by
    show (((c.setting how).flags.hyphenated || flags.hyphenated) || false) = _
    rw [hyphenated, Bool.or_false, Bool.false_or]
  cases how <;> exact ⟨overset' _, hyphenated' _⟩

theorem Composer.closeLine_codes (c : Composer) (g : Galley) (how : Closing) :
    (c.closeLine g how).2.codes = c.line.boxes.filterMap Box.code? := c.record_codes ..

theorem Composer.closeLine_kind {how : Closing} (boxes : c.line.boxes ≠ []) :
    (c.closeLine g how).2.kind = .text := by
  show (if !c.line.boxes.isEmpty then LineKind.text else .blank) = _
  rw [if_pos (by simpa using boxes)]

/-! ## Words placed (R44, R50) -/

theorem wordItems_boxes (boxes : List Box) : (wordItems boxes).filterMap Item.box? = boxes := by
  have rest (bs : List Box) : (bs.map fun b => Item.box b false).filterMap Item.box? = bs := by
    rw [List.filterMap_map]
    exact List.filterMap_some
  cases boxes with
  | nil => rfl
  | cons b bs =>
    show b :: (bs.map fun b => Item.box b false).filterMap Item.box? = _
    rw [rest]

/-- The boxes of a line behind which a word is placed: the waiting space between them holds none. -/
theorem Composer.place_boxes (c : Composer) (boxes : List Box) : (c.place boxes).line.boxes = c.line.boxes ++ boxes := by
  have space : (if c.line.items = [] then [] else (c.space.map Item.glue).toList).filterMap Item.box? = [] := by
    split
    · rfl
    · cases c.space <;> rfl
  show ((c.line.items ++ (if c.line.items = [] then [] else (c.space.map Item.glue).toList)) ++ wordItems boxes).filterMap
    Item.box? = _
  rw [List.filterMap_append, List.filterMap_append, space, wordItems_boxes, List.append_nil]
  rfl

theorem Word.carried_boxes (w : Word) (n : Nat) : (w.carried n).boxes = w.boxes.drop n := by
  unfold Word.carried
  split
  · rename_i none'
    rw [none']
    rfl
  · rfl

/-! ## The test of a word (R50 to R53) -/

/-- The word in progress fits the line, behind the waiting space (R50, R51). -/
def Composer.Fits (c : Composer) : Prop :=
  c.line.items = [] ∧ boxesWidth c.word.boxes ≤ c.params.available ∨
    c.line.items ≠ [] ∧ c.testBase + boxesWidth c.word.boxes ≤ c.params.available ∧
      c.line.chars + boxesChars c.word.boxes ≤ 160 ∧ (fontsOf (c.line.boxes ++ c.word.boxes)).length ≤ 8

/-- The character and font limits of a line with the word on it (R53). -/
def Composer.withinLimits (c : Composer) : Bool :=
  decide (c.line.chars + boxesChars c.word.boxes ≤ Config.maxCharacters) &&
    decide ((fontsOf (c.line.boxes ++ c.word.boxes)).length ≤ Config.maxFonts)

theorem Composer.withinLimits_iff : c.withinLimits = true ↔
    c.line.chars + boxesChars c.word.boxes ≤ 160 ∧ (fontsOf (c.line.boxes ++ c.word.boxes)).length ≤ 8 := by
  unfold Composer.withinLimits
  rw [Bool.and_eq_true, decide_eq_true_eq, decide_eq_true_eq]
  rfl

/-- The hyphen break that R52 allows, if there is one. -/
def Composer.hyphenBreak (c : Composer) (u : Hyphenation) (fs : FontStore) : Option (Nat × List Box) :=
  if c.params.hyphenation ∧ c.params.ladderCount < c.params.ladderLimit ∧ c.withinLimits then
    c.bestPoint fs (u.points c.word.boxes c.word.soft)
  else none

/-- The composer behind a break: the line closed with these boxes placed, and a word carried. -/
def Composer.broken (c : Composer) (g : Galley) (how : Closing) (w : Word) (todo : List Task) : Composer :=
  { (c.closeLine g how).1 with word := w, todo := .offer (c.closeLine g how).2 :: .test :: todo }

theorem Composer.testWord_of_no_boxes (none' : c.word.boxes = []) :
    c.testWord u fs g =
      { c with
        line :=
          { c.line with
            missing := c.line.missing || c.word.missing, substituted := c.line.substituted || c.word.substituted }
        word := Word.empty } := by
  unfold Composer.testWord
  exact if_pos none'

theorem Composer.testWord_of_fits (boxes : c.word.boxes ≠ []) (fits : c.Fits) :
    c.testWord u fs g = { c.place c.word.boxes with word := Word.empty } := by
  unfold Composer.testWord
  dsimp only
  rw [if_neg boxes]
  obtain ⟨empty, short⟩ | ⟨words, short, limits⟩ := fits
  · rw [if_pos empty, if_pos short]
  · rw [if_neg words]
    exact if_pos ⟨short, Composer.withinLimits_iff.mpr limits⟩

/-- How many boxes a forced break places (R50). -/
def Composer.forcedCount (c : Composer) : Nat := max 1 (fitCount c.params.available c.word.boxes)

theorem Composer.testWord_of_forced (boxes : c.word.boxes ≠ []) (empty : c.line.items = [])
    (long : c.params.available < boxesWidth c.word.boxes) :
    c.testWord u fs g =
      (c.place (c.word.boxes.take c.forcedCount)).broken g .forced (c.word.carried c.forcedCount) c.todo := by
  unfold Composer.testWord
  dsimp only
  rw [if_neg boxes, if_pos empty, if_neg (Nat.not_le.mpr long)]
  rfl

theorem Composer.testWord_of_break (boxes : c.word.boxes ≠ []) (words : c.line.items ≠ []) (tight : ¬c.Fits) :
    c.testWord u fs g =
      match c.hyphenBreak u fs with
      | some (p, placed) => (c.place placed).broken g .hyphen (c.word.carried p) c.todo
      | none => c.broken g .plain c.word c.todo := by
  have out : ¬(c.testBase + boxesWidth c.word.boxes ≤ c.params.available ∧ c.withinLimits = true) := fun ⟨short, limits⟩ =>
    tight (.inr ⟨words, short, Composer.withinLimits_iff.mp limits⟩)
  unfold Composer.testWord
  dsimp only
  rw [if_neg boxes, if_neg words]
  refine (if_neg out).trans ?_
  rfl

/-- What the test of a word is: the word taken, or one of the three breaks. -/
theorem Composer.testWord_cases (c : Composer) (u : Hyphenation) (fs : FontStore) (g : Galley) :
    (c.word.boxes = [] ∨ c.Fits) ∧ (c.testWord u fs g).todo = c.todo ∧ (c.testWord u fs g).word = Word.empty ∧
        (c.testWord u fs g).nextLine = c.nextLine ∨
      c.word.boxes ≠ [] ∧ ¬c.Fits ∧ ∃ c' how w, c.testWord u fs g = c'.broken g how w c.todo ∧
        (c.line.items = [] ∧ how = .forced ∧ c' = c.place (c.word.boxes.take c.forcedCount) ∧
            w = c.word.carried c.forcedCount ∨
          c.line.items ≠ [] ∧
            ((∃ p placed, c.hyphenBreak u fs = some (p, placed) ∧ how = .hyphen ∧ c' = c.place placed ∧
                w = c.word.carried p) ∨
              c.hyphenBreak u fs = none ∧ how = .plain ∧ c' = c ∧ w = c.word)) := by
  by_cases boxes : c.word.boxes = []
  · rw [Composer.testWord_of_no_boxes boxes]
    exact .inl ⟨.inl boxes, rfl, rfl, rfl⟩
  by_cases fits : c.Fits
  · rw [Composer.testWord_of_fits boxes fits]
    exact .inl ⟨.inr fits, rfl, rfl, rfl⟩
  refine .inr ⟨boxes, fits, ?_⟩
  by_cases empty : c.line.items = []
  · have long : c.params.available < boxesWidth c.word.boxes := by
      by_contra short
      exact fits (.inl ⟨empty, Nat.not_lt.mp short⟩)
    exact ⟨_, _, _, Composer.testWord_of_forced boxes empty long, .inl ⟨empty, rfl, rfl, rfl⟩⟩
  · have breaks := Composer.testWord_of_break (u := u) (fs := fs) (g := g) boxes empty fits
    cases best : c.hyphenBreak u fs with
    | none =>
      rw [best] at breaks
      exact ⟨_, _, _, breaks, .inr ⟨empty, .inr ⟨rfl, rfl, rfl, rfl⟩⟩⟩
    | some pair =>
      rw [best] at breaks
      exact ⟨_, _, _, breaks, .inr ⟨empty, .inl ⟨_, _, rfl, rfl, rfl, rfl⟩⟩⟩

/-! ## Breaks (R50) -/

theorem boxesWidth_cons (b : Box) (bs : List Box) : boxesWidth (b :: bs) = b.width + boxesWidth bs := List.sum_cons

theorem boxesWidth_append (as bs : List Box) : boxesWidth (as ++ bs) = boxesWidth as + boxesWidth bs := by
  unfold boxesWidth
  rw [List.map_append, List.sum_append]

theorem boxesChars_append (as bs : List Box) : boxesChars (as ++ bs) = boxesChars as + boxesChars bs := List.countP_append

/-- A forced break's count is as large as the width allows. -/
theorem fitCount_spec (width : Nat) (bs : List Box) :
    fitCount width bs ≤ bs.length ∧ boxesWidth (bs.take (fitCount width bs)) ≤ width ∧
      (fitCount width bs < bs.length → width < boxesWidth (bs.take (fitCount width bs + 1))) := by
  induction bs generalizing width with
  | nil => exact ⟨le_refl _, Nat.zero_le _, fun h => absurd h (Nat.lt_irrefl _)⟩
  | cons b rest ih =>
    obtain ⟨within, fits, most⟩ := ih (width - b.width)
    unfold fitCount
    split
    · rename_i short
      rw [List.take_succ_cons, List.take_succ_cons, boxesWidth_cons, boxesWidth_cons, List.length_cons]
      exact ⟨by omega, by omega, fun more => by have := most (by omega); omega⟩
    · refine ⟨Nat.zero_le _, Nat.zero_le _, fun _ => ?_⟩
      rw [Nat.zero_add, List.take_succ_cons, boxesWidth_cons]
      omega

theorem boxesWidth_take_le (bs : List Box) {m n : Nat} (le : m ≤ n) :
    boxesWidth (bs.take m) ≤ boxesWidth (bs.take n) := by
  obtain ⟨k, rfl⟩ := Nat.exists_eq_add_of_le le
  rw [List.take_add, boxesWidth_append]
  exact Nat.le_add_right ..

theorem Composer.broken_todo (c : Composer) (g : Galley) (how : Closing) (w : Word) (todo : List Task) :
    (c.broken g how w todo).todo = .offer (c.closeLine g how).2 :: .test :: todo := rfl

theorem Composer.hyphenBreak_mem {p : Nat} {placed : List Box} (best : c.hyphenBreak u fs = some (p, placed)) :
    p ∈ u.points c.word.boxes c.word.soft ∧ c.params.hyphenation = true ∧ c.params.ladderCount < c.params.ladderLimit := by
  unfold Composer.hyphenBreak at best
  split at best
  · rename_i allowed
    unfold Composer.bestPoint at best
    obtain ⟨p', mem, found⟩ := List.mem_filterMap.mp (List.mem_of_getLast? best)
    split at found
    · split at found
      · cases found
        exact ⟨mem, allowed.1, allowed.2.1⟩
      · exact absurd found nofun
    · exact absurd found nofun
  · exact absurd best nofun

theorem claims_breaksPlaceBoxes : Claims.BreaksPlaceBoxes := by
  intro c u fs g solid
  refine ⟨fun fits => ?_, ?_⟩
  · obtain ⟨-, same⟩ | ⟨-, tight, -⟩ := c.testWord_cases u fs g
    · exact same
    · exact absurd fits tight
  · obtain ⟨-, same⟩ | ⟨boxes, -, c', how, w, broken, kinds⟩ := c.testWord_cases u fs g
    · exact .inl same
    refine .inr ⟨(c'.closeLine g how).2, ?_⟩
    have solid' : c'.line.boxes ≠ [] ∧ c'.nextLine = c.nextLine ∧
        (w.boxes.length < c.word.boxes.length ∨ c.line.items ≠ [] ∧ w = c.word) := by
      obtain ⟨empty, -, rfl, rfl⟩ | ⟨words, ⟨p, placed, best, -, rfl, rfl⟩ | ⟨-, -, rfl, rfl⟩⟩ := kinds
      · have some' : 1 ≤ c.forcedCount := le_max_left ..
        refine ⟨?_, rfl, .inl ?_⟩
        · rw [Composer.place_boxes]
          refine List.append_ne_nil_of_right_ne_nil _ fun none' => ?_
          obtain zero | nil := List.take_eq_nil_iff.mp none'
          · omega
          · exact boxes nil
        · have := List.length_pos_iff.mpr boxes
          rw [Word.carried_boxes, List.length_drop]
          omega
      · obtain ⟨mem, -⟩ := Composer.hyphenBreak_mem best
        obtain ⟨from', below⟩ := (hyphenReply u c.word.boxes c.word.soft).2.1 p mem
        refine ⟨?_, rfl, .inl ?_⟩
        · rw [Composer.place_boxes]
          exact List.append_ne_nil_of_left_ne_nil (solid words) _
        · rw [Word.carried_boxes, List.length_drop]
          omega
      · exact ⟨solid words, rfl, .inr ⟨words, rfl⟩⟩
    obtain ⟨placed, number, carried⟩ := solid'
    rw [broken]
    exact ⟨rfl, Composer.closeLine_kind placed, number, rfl, rfl, congrArg (· + 1) number, carried⟩

theorem claims_wordThatDoesNotFitClosesTheLine : Claims.WordThatDoesNotFitClosesTheLine := by
  intro c u fs g boxes
  refine ⟨fun empty long => ?_, fun words out => ?_⟩
  · obtain ⟨within, fits, most⟩ := fitCount_spec c.params.available c.word.boxes
    have some' := List.length_pos_iff.mpr boxes
    obtain ⟨overset, hyphenated⟩ := (c.place (c.word.boxes.take c.forcedCount)).closeLine_flags g .forced
    have bare : c.line.boxes = [] := by
      unfold LineBuild.boxes
      rw [empty]
      rfl
    refine ⟨_, c.forcedCount, by rw [Composer.testWord_of_forced boxes empty long, Composer.broken_todo], overset, hyphenated,
      le_max_left .., max_le some' within, fun two => ?_, fun less => ?_, ?_, ?_⟩
    · have same : c.forcedCount = fitCount c.params.available c.word.boxes := by
        unfold Composer.forcedCount at *
        omega
      rw [same]
      exact fits
    · have more := most ((le_max_right ..).trans_lt less)
      exact more.trans_le (boxesWidth_take_le _ (Nat.succ_le_succ (le_max_right ..)))
    · rw [Composer.closeLine_codes, Composer.place_boxes, bare]
      rfl
    · rw [Composer.testWord_of_forced boxes empty long]
      exact Word.carried_boxes ..
  · have tight : ¬c.Fits := by
      rintro (⟨empty, -⟩ | ⟨-, short, chars, fonts⟩)
      · exact words empty
      · omega
    obtain ⟨done, -⟩ | ⟨-, -, c', how, w, broken, kinds⟩ := c.testWord_cases u fs g
    · exact absurd done (by rintro (none' | fits); exacts [boxes none', tight fits])
    · refine ⟨(c'.closeLine g how).2, by rw [broken, Composer.broken_todo], ?_⟩
      rw [(c'.closeLine_flags g how).1]
      obtain ⟨empty, -⟩ | ⟨-, ⟨_, _, -, rfl, -⟩ | ⟨-, rfl, -⟩⟩ := kinds
      · exact absurd empty words
      · rfl
      · rfl

theorem claims_ladderHolds : Claims.LadderHolds := by
  intro c u fs g r closes
  obtain ⟨-, same, -⟩ | ⟨-, -, c', how, w, broken, kinds⟩ := c.testWord_cases u fs g
  · have length := congrArg List.length (same.symm.trans closes)
    simp only [List.length_cons] at length
    omega
  · have record : (c'.closeLine g how).2 = r := by
      rw [broken, Composer.broken_todo] at closes
      cases closes
      rfl
    have count : (c.testWord u fs g).params.ladderCount = if how = .hyphen then c'.params.ladderCount + 1 else 0 := by
      rw [broken]
      rfl
    have same : c'.params.ladderCount = c.params.ladderCount ∧
        (c.params.hyphenation = false ∨ c.params.ladderLimit ≤ c.params.ladderCount → how ≠ .hyphen) := by
      obtain ⟨-, rfl, rfl, -⟩ | ⟨-, ⟨_, _, best, rfl, rfl, -⟩ | ⟨-, rfl, rfl, -⟩⟩ := kinds
      · exact ⟨rfl, fun _ => nofun⟩
      · obtain ⟨-, allowed, below⟩ := Composer.hyphenBreak_mem best
        refine ⟨rfl, fun off => absurd off ?_⟩
        rw [allowed]
        exact not_or.mpr ⟨nofun, Nat.not_le.mpr below⟩
      · exact ⟨rfl, fun _ => nofun⟩
    obtain ⟨kept, off⟩ := same
    rw [← record, (c'.closeLine_flags g how).2, count, kept]
    exact ⟨fun h => decide_eq_false (off h), fun h => if_pos (of_decide_eq_true h), fun h => if_neg (of_decide_eq_false h)⟩

/-! ## Hyphen breaks (R52) -/

/-- The last character box's face, and where it stands. -/
theorem lastFace_eq_some_iff {boxes : List Box} {font size : Nat} :
    lastFace boxes = some (font, size) ↔
      ∃ before code width behind, boxes = before ++ .char code font size width :: behind ∧
        ∀ b ∈ behind, b.isChar = false := by
  have face (b : Box) : b.face? = none ↔ b.isChar = false := by cases b <;> simp [Box.face?, Box.isChar]
  unfold lastFace
  rw [List.getLast?_eq_some_iff]
  constructor
  · rintro ⟨ys, faces⟩
    obtain ⟨before, rest, rfl, -, faces⟩ := List.filterMap_eq_append_iff.mp faces
    obtain ⟨skipped, b, behind, rfl, -, here, none'⟩ := List.filterMap_eq_cons_iff.mp faces
    cases b with
    | fixed w => exact absurd here nofun
    | char code font' size' width =>
      cases here
      refine ⟨before ++ skipped, code, width, behind, (List.append_assoc ..).symm, fun b mem => (face b).mp ?_⟩
      exact List.filterMap_eq_nil_iff.mp none' b mem
  · rintro ⟨before, code, width, behind, rfl, none'⟩
    refine ⟨before.filterMap Box.face?, ?_⟩
    rw [List.filterMap_append, List.filterMap_cons]
    show _ ++ (font, size) :: _ = _
    rw [List.filterMap_eq_nil_iff.mpr fun b mem => (face b).mpr (none' b mem)]

/-- What the point places where it fits. -/
def Composer.pointPlaced (c : Composer) (fs : FontStore) (p : Nat) : Option (Nat × List Box) :=
  match pointBoxes fs c.params.track c.word.boxes p with
  | some boxes =>
    if c.testBase + boxesWidth boxes ≤ c.params.available ∧
        c.line.chars + boxesChars boxes ≤ Config.maxCharacters then some (p, boxes)
    else none
  | none => none

theorem Composer.bestPoint_eq (c : Composer) (fs : FontStore) (points : List Nat) :
    c.bestPoint fs points = (points.filterMap (c.pointPlaced fs)).getLast? := rfl

theorem getLast?_take_of_le {boxes : List Box} {p : Nat} (from' : 1 ≤ p) (below : p < boxes.length) :
    (boxes.take p).getLast? = boxes[p - 1]? := by
  rw [List.getLast?_eq_getElem?, List.length_take, Nat.min_eq_left below.le, List.getElem?_take_of_lt (by omega)]

theorem boxesChars_concat_char (boxes : List Box) (code font size width : Nat) :
    boxesChars (boxes ++ [.char code font size width]) = boxesChars boxes + 1 := boxesChars_append ..

/-- The hyphen of a point, in the face of the last character box before it. -/
theorem hyphenBox_of_face {boxes : List Box} {font size : Nat} (face : lastFace boxes = some (font, size)) (track : Int) :
    hyphenBox fs track boxes =
      some (.char 45 font size
        (characterWidth (((fs.metricsOf font).bind fun m => m.width 45).getD 21) track size)) := by
  unfold hyphenBox
  rw [face, Option.map_some]
  dsimp only
  cases fs.metricsOf font <;> rfl

theorem Composer.pointPlaced_of_hyphen {p : Nat} (from' : 1 ≤ p) (below : p < c.word.boxes.length)
    (hyphen : c.word.boxes[p - 1]?.any Box.isHyphen = true) :
    c.pointPlaced fs p =
      if c.testBase + boxesWidth (c.word.boxes.take p) ≤ c.params.available ∧
          c.line.chars + boxesChars (c.word.boxes.take p) ≤ 160 then some (p, c.word.boxes.take p)
      else none := by
  unfold Composer.pointPlaced pointBoxes
  dsimp only
  rw [if_pos (by rw [getLast?_take_of_le from' below]; exact hyphen)]
  rfl

theorem Composer.pointPlaced_of_face {p font size : Nat} (from' : 1 ≤ p) (below : p < c.word.boxes.length)
    (other : c.word.boxes[p - 1]?.any Box.isHyphen = false) (face : lastFace (c.word.boxes.take p) = some (font, size)) :
    ∃ hyphen : Box, hyphen.code? = some 45 ∧
      c.pointPlaced fs p =
        if c.testBase + boxesWidth (c.word.boxes.take p) +
              characterWidth (((fs.metricsOf font).bind fun m => m.width 45).getD 21) c.params.track size ≤
            c.params.available ∧ c.line.chars + boxesChars (c.word.boxes.take p) + 1 ≤ 160 then
          some (p, c.word.boxes.take p ++ [hyphen])
        else none := by
  let width := characterWidth (((fs.metricsOf font).bind fun m => m.width 45).getD 21) c.params.track size
  refine ⟨.char 45 font size width, rfl, ?_⟩
  have placed : pointBoxes fs c.params.track c.word.boxes p = some (c.word.boxes.take p ++ [.char 45 font size width]) := by
    unfold pointBoxes
    dsimp only
    rw [if_neg (by rw [getLast?_take_of_le from' below, other]; exact nofun), hyphenBox_of_face face]
    rfl
  have wide : boxesWidth (c.word.boxes.take p ++ [.char 45 font size width]) = boxesWidth (c.word.boxes.take p) + width :=
    boxesWidth_append ..
  unfold Composer.pointPlaced
  rw [placed]
  dsimp only
  rw [wide, boxesChars_concat_char, ← Nat.add_assoc, ← Nat.add_assoc]
  rfl

theorem Composer.pointPlaced_of_fits {p : Nat} (from' : 1 ≤ p) (below : p < c.word.boxes.length)
    (fits : c.PointFits fs p) :
    ∃ placed, c.pointPlaced fs p = some (p, placed) ∧
      placed.filterMap Box.code? =
        (c.word.boxes.take p).filterMap Box.code? ++ (if c.word.boxes[p - 1]?.any Box.isHyphen then [] else [45]) := by
  obtain ⟨hyphen, short⟩ | ⟨other, before, code, font, size, width, behind, here, bare, short⟩ := fits
  · refine ⟨c.word.boxes.take p, ?_, by rw [if_pos hyphen, List.append_nil]⟩
    rw [Composer.pointPlaced_of_hyphen from' below hyphen, if_pos short]
  · obtain ⟨hyphen, code45, placed⟩ := Composer.pointPlaced_of_face (fs := fs) from' below other
      (lastFace_eq_some_iff.mpr ⟨before, code, width, behind, here, bare⟩)
    refine ⟨_, placed.trans (if_pos short), ?_⟩
    rw [if_neg (by rw [other]; exact nofun), List.filterMap_append, List.filterMap_cons, code45]
    rfl

theorem Composer.fits_of_pointPlaced {p : Nat} {x : Nat × List Box} (from' : 1 ≤ p) (below : p < c.word.boxes.length)
    (placed : c.pointPlaced fs p = some x) : c.PointFits fs p := by
  cases hyphen : c.word.boxes[p - 1]?.any Box.isHyphen with
  | true =>
    rw [Composer.pointPlaced_of_hyphen from' below hyphen] at placed
    split at placed
    · rename_i short
      exact .inl ⟨hyphen, short⟩
    · exact absurd placed nofun
  | false =>
    cases face : lastFace (c.word.boxes.take p) with
    | none =>
      have bare : pointBoxes fs c.params.track c.word.boxes p = none := by
        unfold pointBoxes hyphenBox
        dsimp only
        rw [if_neg (by rw [getLast?_take_of_le from' below, hyphen]; exact nofun), face]
        rfl
      unfold Composer.pointPlaced at placed
      rw [bare] at placed
      exact absurd placed nofun
    | some pair =>
      obtain ⟨font, size⟩ := pair
      obtain ⟨h, -, effect⟩ := Composer.pointPlaced_of_face (fs := fs) from' below hyphen face
      obtain ⟨before, code, width, behind, here, bare⟩ := lastFace_eq_some_iff.mp face
      rw [effect] at placed
      split at placed
      · rename_i short
        exact .inr ⟨hyphen, before, code, font, size, width, behind, here, bare, short⟩
      · exact absurd placed nofun

/-- The last of the fitting members of a rising list is its largest. -/
theorem getLast?_filterMap_of_greatest {β : Type} {f : Nat → Option β} {points : List Nat} {p : Nat} {y : β}
    (rising : points.Pairwise (· < ·)) (mem : p ∈ points) (fits : f p = some y)
    (greatest : ∀ p' ∈ points, f p' ≠ none → p' ≤ p) : (points.filterMap f).getLast? = some y := by
  obtain ⟨before, behind, rfl⟩ := List.append_of_mem mem
  rw [List.pairwise_append] at rising
  obtain ⟨-, above, -⟩ := rising
  have rest : behind.filterMap f = [] := by
    refine List.filterMap_eq_nil_iff.mpr fun p' mem' => ?_
    by_contra some'
    have := greatest p' (by simp [mem']) some'
    have := (List.pairwise_cons.mp above).1 p' mem'
    omega
  rw [List.filterMap_append, List.filterMap_cons, fits]
  show (_ ++ y :: behind.filterMap f).getLast? = _
  rw [rest, List.getLast?_concat]

theorem claims_hyphenBreakAtTheLastPointThatFits : Claims.HyphenBreakAtTheLastPointThatFits := by
  intro c u fs g boxes words long chars fonts allowed below
  obtain ⟨rising, within, -⟩ := hyphenReply u c.word.boxes c.word.soft
  have tight : ¬c.Fits := by
    rintro (⟨empty, -⟩ | ⟨-, short, -⟩)
    · exact words empty
    · omega
  have breaks := Composer.testWord_of_break (u := u) (fs := fs) (g := g) boxes words tight
  have best : c.hyphenBreak u fs = ((u.points c.word.boxes c.word.soft).filterMap (c.pointPlaced fs)).getLast? :=
    if_pos ⟨allowed, below, Composer.withinLimits_iff.mpr ⟨chars, fonts⟩⟩
  refine ⟨fun p mem fits greatest => ?_, fun none' => ?_⟩
  · obtain ⟨from', short⟩ := within p mem
    obtain ⟨placed, at', codes⟩ := Composer.pointPlaced_of_fits from' short fits
    have last := getLast?_filterMap_of_greatest (f := c.pointPlaced fs) rising mem at' fun p' mem' some' => by
      obtain ⟨x, found⟩ := Option.ne_none_iff_exists'.mp some'
      obtain ⟨from'', short'⟩ := within p' mem'
      exact greatest p' mem' (Composer.fits_of_pointPlaced from'' short' found)
    rw [best, last] at breaks
    rw [breaks]
    refine ⟨_, rfl, (Composer.closeLine_flags _ g .hyphen).2, ?_, Word.carried_boxes ..⟩
    rw [Composer.closeLine_codes, Composer.place_boxes, List.filterMap_append, codes, List.filterMap_append,
      List.append_assoc]
  · have nothing : (u.points c.word.boxes c.word.soft).filterMap (c.pointPlaced fs) = [] := by
      refine List.filterMap_eq_nil_iff.mpr fun p mem => ?_
      by_contra some'
      obtain ⟨x, found⟩ := Option.ne_none_iff_exists'.mp some'
      obtain ⟨from', short⟩ := within p mem
      exact none' p mem (Composer.fits_of_pointPlaced from' short found)
    rw [best, nothing] at breaks
    rw [breaks]
    exact ⟨_, rfl, (Composer.closeLine_flags _ g .plain).2, Composer.closeLine_codes .., rfl⟩

/-- Settles O31, over the cases of the test of a word. -/
theorem breaksAndRuns : Obligations.BreaksAndRuns :=
  ⟨claims_breaksPlaceBoxes, claims_wordThatDoesNotFitClosesTheLine, claims_hyphenBreakAtTheLastPointThatFits,
    claims_ladderHolds, claims_runsListTheCharacters⟩

end Sys2Proof.Machine
end

section
/-! SUPPORT for the proofs below. The settling of the composer's tasks: between them records leave and take marks, which changes
neither the composer, nor its galley, nor the records that wait at the exposure walk; so the tasks can be followed one by one. -/

namespace Sys2Proof.Machine

variable {s t u : State} {id : GalleyId} {g : Galley}

/-! ## The font store but for its pins -/

def DirEntry.unpinned (e : DirEntry) : DirEntry := { e with pins := 0 }

/-- The same directory but for the pins, and the same use count. -/
structure FontStore.Alike (a b : FontStore) : Prop where
  directory : b.directory.map DirEntry.unpinned = a.directory.map DirEntry.unpinned
  useCount : b.useCount = a.useCount

variable {a b : FontStore}

theorem FontStore.Alike.refl (a : FontStore) : a.Alike a := ⟨rfl, rfl⟩

theorem FontStore.Alike.trans {c : FontStore} (h : a.Alike b) (k : b.Alike c) : a.Alike c :=
  ⟨k.directory.trans h.directory, k.useCount.trans h.useCount⟩

theorem FontStore.recount_alike (a : FontStore) (f : Nat → Nat) : a.Alike (a.recount f) := by
  have pinned : (a.directory.map fun e => if e.state = .free then e else { e with pins := f e.font }).map DirEntry.unpinned =
      a.directory.map DirEntry.unpinned := by
    rw [List.map_map]
    refine List.map_congr_left fun e _ => ?_
    simp only [Function.comp_apply]
    split <;> rfl
  unfold FontStore.recount
  dsimp only
  split
  · exact ⟨pinned, rfl⟩
  · exact ⟨pinned, rfl⟩

theorem FontStore.Alike.entry (h : a.Alike b) (font : Nat) :
    (b.entry font).map DirEntry.unpinned = (a.entry font).map DirEntry.unpinned := by
  have reads (fs : FontStore) : (fs.entry font).map DirEntry.unpinned =
      (fs.directory.map DirEntry.unpinned).find? fun e => e.state ≠ .free ∧ e.font = font := by
    rw [List.find?_map]
    rfl
  rw [reads, reads, h.directory]

theorem FontStore.Alike.metricsOf (h : a.Alike b) (font : Nat) : b.metricsOf font = a.metricsOf font := by
  have reads (fs : FontStore) : fs.metricsOf font = ((fs.entry font).map DirEntry.unpinned).bind DirEntry.metrics := by
    unfold FontStore.metricsOf
    cases fs.entry font <;> rfl
  rw [reads, reads, h.entry]

theorem FontStore.Alike.map (h : a.Alike b) {f : DirEntry → DirEntry} (reads : ∀ e, (f e).unpinned = (f e.unpinned).unpinned) :
    (b.directory.map f).map DirEntry.unpinned = (a.directory.map f).map DirEntry.unpinned := by
  have through (xs : List DirEntry) : (xs.map f).map DirEntry.unpinned =
      (xs.map DirEntry.unpinned).map fun e => (f e).unpinned := by
    rw [List.map_map, List.map_map]
    exact List.map_congr_left fun e _ => reads e
  rw [through, through, h.directory]

theorem FontStore.Alike.stamps (h : a.Alike b) :
    (b.directory.filter fun e => e.state ≠ .free).map DirEntry.stamp =
      (a.directory.filter fun e => e.state ≠ .free).map DirEntry.stamp := by
  have through (xs : List DirEntry) : (xs.filter fun e => e.state ≠ .free).map DirEntry.stamp =
      ((xs.map DirEntry.unpinned).filter fun e => e.state ≠ .free).map DirEntry.stamp := by
    rw [List.filter_map, List.map_map]
    rfl
  rw [through b.directory, h.directory, ← through]

theorem FontStore.Alike.advanceUse (h : a.Alike b) : a.advanceUse.Alike b.advanceUse := by
  unfold FontStore.advanceUse
  rw [h.useCount, h.stamps]
  split
  · exact ⟨h.directory, rfl⟩
  · refine ⟨h.map fun e => ?_, rfl⟩
    show _ = DirEntry.unpinned (if e.state = .free then _ else _)
    split <;> rfl

/-- The stamping of a use reads nothing of the pins (R98). -/
theorem FontStore.Alike.stampUse (h : a.Alike b) (fonts : List Nat) : (a.stampUse fonts).Alike (b.stampUse fonts) := by
  unfold FontStore.stampUse
  rw [h.useCount]
  split
  · exact h
  · refine FontStore.Alike.advanceUse ⟨h.map fun e => ?_, rfl⟩
    show _ = DirEntry.unpinned (if e.state ≠ .free ∧ e.font ∈ fonts then _ else _)
    split <;> rfl

/-! ## Marks and departures -/

/-- A record with no more than another mark of the proof walk. -/
def QueueRecord.Aged (r q : QueueRecord) : Prop := q = { r with proofed := q.proofed }

theorem QueueRecord.Aged.refl (r : QueueRecord) : r.Aged r := rfl

theorem QueueRecord.Aged.trans {p q r : QueueRecord} (h : p.Aged q) (k : q.Aged r) : p.Aged r := by
  unfold QueueRecord.Aged at *
  rw [k, h]

/-- What marks and departures leave of a queue whose last records wait at the exposure walk. -/
def Shrinks (before after : List QueueRecord) : Prop :=
  ∀ rest tail, before = rest ++ tail → (∀ q ∈ tail, q.Unexposed) →
    ∃ rest' tail', after = rest' ++ tail' ∧ (rest'.map QueueRecord.line).Sublist (rest.map QueueRecord.line) ∧
      List.Forall₂ QueueRecord.Aged tail tail'

theorem forall₂_aged_refl (qs : List QueueRecord) : List.Forall₂ QueueRecord.Aged qs qs :=
  List.forall₂_same.mpr fun q _ => .refl q

theorem forall₂_aged_unexposed {qs qs' : List QueueRecord} (aged : List.Forall₂ QueueRecord.Aged qs qs')
    (un : ∀ q ∈ qs, q.Unexposed) : ∀ q ∈ qs', q.Unexposed := by
  induction aged with
  | nil => exact fun _ mem => absurd mem List.not_mem_nil
  | cons here _ ih =>
    intro q mem
    obtain rfl | mem := List.mem_cons.mp mem
    · exact (un _ List.mem_cons_self).of_proofed here
    · exact ih (fun q mem => un q (List.mem_cons_of_mem _ mem)) q mem

theorem markExposure_cons (q : QueueRecord) (rest : List QueueRecord) :
    markExposure (q :: rest) =
      if q.attached ∧ q.exposed = false then
        if q.line.needsExposure then q :: rest else { q with exposed := true } :: markExposure rest
      else q :: markExposure rest := rfl

theorem markExposure_of_unexposed {qs : List QueueRecord} (un : ∀ q ∈ qs, q.Unexposed) : markExposure qs = qs := by
  cases qs with
  | nil => rfl
  | cons q rest =>
    have here := un q List.mem_cons_self
    rw [markExposure_cons, if_pos ⟨here.attached, here.exposed⟩, if_pos here.needs]

theorem markExposure_of_tail (rest : List QueueRecord) {tail : List QueueRecord} (un : ∀ q ∈ tail, q.Unexposed) :
    ∃ rest', markExposure (rest ++ tail) = rest' ++ tail ∧ rest'.map QueueRecord.line = rest.map QueueRecord.line := by
  induction rest with
  | nil => exact ⟨[], markExposure_of_unexposed un, rfl⟩
  | cons q rest ih =>
    obtain ⟨rest', marked, lines⟩ := ih
    rw [List.cons_append, markExposure_cons, marked]
    split
    · split
      · exact ⟨q :: rest, rfl, rfl⟩
      · exact ⟨{ q with exposed := true } :: rest', rfl, by rw [List.map_cons, List.map_cons, lines]⟩
    · exact ⟨q :: rest', rfl, by rw [List.map_cons, List.map_cons, lines]⟩

theorem markProof_aged (qs : List QueueRecord) : List.Forall₂ QueueRecord.Aged qs (markProof qs) := by
  induction qs with
  | nil => exact .nil
  | cons q qs ih =>
    unfold markProof
    split
    · split
      · exact forall₂_aged_refl _
      · exact .cons rfl ih
    · exact .cons (.refl q) ih

theorem forall₂_aged_lines {qs qs' : List QueueRecord} (aged : List.Forall₂ QueueRecord.Aged qs qs') :
    qs'.map QueueRecord.line = qs.map QueueRecord.line := by
  induction aged with
  | nil => rfl
  | cons here _ ih =>
    rw [List.map_cons, List.map_cons, ih]
    exact congrArg (· :: _) (by rw [here])

theorem forall₂_append_left {α β : Type} {R : α → β → Prop} {xs ys : List α} {zs : List β}
    (all : List.Forall₂ R (xs ++ ys) zs) : ∃ xs' ys', zs = xs' ++ ys' ∧ List.Forall₂ R xs xs' ∧ List.Forall₂ R ys ys' :=
  ⟨_, _, (List.take_append_drop xs.length zs).symm, (List.forall₂_take_append zs xs ys all.flip).flip,
    (List.forall₂_drop_append zs xs ys all.flip).flip⟩

theorem markNotNeeded_shrinks (s : State) : Shrinks s.queue s.markNotNeeded.queue := by
  intro rest tail here un
  obtain ⟨rest', marked, lines⟩ := markExposure_of_tail rest un
  have aged := markProof_aged (rest' ++ tail)
  obtain ⟨rest'', tail', both, first, last⟩ := forall₂_append_left aged
  refine ⟨rest'', tail', ?_, ?_, last⟩
  · show markProof (markExposure s.queue) = _
    rw [here, marked, both]
  · rw [forall₂_aged_lines first, lines]

/-- What a departure is: one record fewer, and what follows from its leaving (R89, R91). -/
theorem State.departure_shrinks (left : s.departure = some t) :
    ∃ q : List QueueRecord, q.length + 1 = s.queue.length ∧ Shrinks s.queue q ∧
      (∀ r ∈ s.queue, r.Unexposed → r ∈ q) ∧
      (t = State.takeWaiting (State.recount { s with queue := q }) ∨
        ∃ id, t = State.checkDone (State.takeWaiting (State.recount { s with queue := q })) id) := by
  unfold State.departure at left
  split at left
  · rename_i i found
    cases left
    obtain ⟨bound, spent, -⟩ := List.findIdx?_eq_some_iff_getElem.mp found
    have stays (r : QueueRecord) (mem : r ∈ s.queue) (un : r.Unexposed) : r ∈ s.queue.eraseIdx i := by
      obtain ⟨j, hj, rfl⟩ := List.mem_iff_getElem.mp mem
      refine List.mem_eraseIdx_iff_getElem.mpr ⟨j, hj, ?_, rfl⟩
      rintro rfl
      exact absurd spent (by rw [un.not_spent]; exact nofun)
    refine ⟨_, by rw [List.length_eraseIdx_of_lt bound]; omega, fun rest tail here un => ?_, stays, .inl rfl⟩
    have early : i < rest.length := by
      by_contra late
      have mem : s.queue[i] ∈ tail := by
        simp only [here] at bound ⊢
        rw [List.getElem_append_right (Nat.not_lt.mp late)]
        exact List.getElem_mem _
      exact absurd spent (by rw [(un _ mem).not_spent]; exact nofun)
    refine ⟨rest.eraseIdx i, tail, ?_, (List.eraseIdx_sublist ..).map _, forall₂_aged_refl tail⟩
    rw [here, List.eraseIdx_append_of_lt_length early]
  split at left
  · rename_i r rest queue
    split at left
    · rename_i finished
      cases left
      have apart (q : QueueRecord) (un : q.Unexposed) : q ≠ r := by
        rintro rfl
        exact absurd finished (by rw [un.not_finished]; exact nofun)
      refine ⟨rest, by rw [queue, List.length_cons], fun rest' tail here un => ?_, fun q mem un => ?_, .inr ⟨_, rfl⟩⟩
      · rw [queue] at here
        cases rest' with
        | nil => exact absurd rfl (apart r (un r (by rw [← List.nil_append tail, ← here]; exact List.mem_cons_self)))
        | cons r' rest' =>
          obtain ⟨rfl, rfl⟩ := List.cons_eq_cons.mp here
          exact ⟨rest', tail, rfl, (List.sublist_cons_self ..).map _, forall₂_aged_refl tail⟩
      · rw [queue] at mem
        exact (List.mem_cons.mp mem).resolve_left (apart q un)
    · cases left
  · cases left

end Sys2Proof.Machine
end

section
/-! SUPPORT for the proofs below. The composer's tasks followed one by one, from scene to scene. -/

namespace Sys2Proof.Machine

variable {s s₀ t : State} {g : Galley}

theorem forall₂_aged_trans {qs qs' qs'' : List QueueRecord} (h : List.Forall₂ QueueRecord.Aged qs qs')
    (k : List.Forall₂ QueueRecord.Aged qs' qs'') : List.Forall₂ QueueRecord.Aged qs qs'' := by
  induction h generalizing qs'' with
  | nil => exact k
  | cons here _ ih =>
    cases k with
    | cons here' k => exact .cons (here.trans here') (ih k)

theorem forall₂_aged_mem {qs qs' : List QueueRecord} (aged : List.Forall₂ QueueRecord.Aged qs qs') {q : QueueRecord}
    (mem : q ∈ qs) : ∃ q' ∈ qs', q.Aged q' := by
  induction aged with
  | nil => exact absurd mem List.not_mem_nil
  | cons first _ ih =>
    obtain rfl | mem := List.mem_cons.mp mem
    · exact ⟨_, List.mem_cons_self, first⟩
    · obtain ⟨q', mem', old⟩ := ih mem
      exact ⟨q', List.mem_cons_of_mem _ mem', old⟩

theorem State.markNotNeeded_length (s : State) : s.markNotNeeded.queue.length = s.queue.length :=
  (markProof_aged _).length_eq.symm.trans (markExposure_length s.queue)

/-! ## Scenes -/

/-- What the work of the composer is followed by: the composer, the lines that may stand in the queue, the records that the
composer has appended behind them, its galley's record, and the font store but for the pins. -/
structure Scene where
  composer : Composer
  lines : List SetLine
  tail : List QueueRecord
  galley : Galley
  fonts : FontStore

/-- The state shows this scene, nothing having happened since `s₀` but the composer's and the queue's work. -/
structure State.Shows (s₀ : State) (x : Scene) (s : State) : Prop where
  kept : State.MachineryKept s₀ s
  composer : s.composer = x.composer
  galley : s.HeldAs x.galley.id x.galley
  queue : ∃ rest tail, s.queue = rest ++ tail ∧ (rest.map QueueRecord.line).Sublist x.lines ∧
    List.Forall₂ QueueRecord.Aged x.tail tail
  fonts : x.fonts.Alike s.fonts

/-- Marks and departures do not change the scene: the appended records wait at the exposure walk, the composer waits for no
place in the queue, and its galley is bound to stay. -/
structure Scene.Steady (x : Scene) : Prop where
  unexposed : ∀ q ∈ x.tail, q.Unexposed
  going : x.composer.state ≠ .waitQueue
  own : x.composer.galley = some x.galley.id ∨ x.composer.galley = none
  bound : (∃ q ∈ x.tail, q.line.galley = x.galley.id) ∨
    x.composer.galley = some x.galley.id ∧ (x.composer.owes = true ∨ x.galley.compositionEnded = false)

variable {x y : Scene}

theorem State.Shows.length_le (h : State.Shows s₀ x s) : s.queue.length ≤ x.lines.length + x.tail.length := by
  obtain ⟨rest, tail, here, lines, aged⟩ := h.queue
  have short := lines.length_le
  rw [List.length_map] at short
  rw [here, List.length_append, ← aged.length_eq]
  exact Nat.add_le_add_right short _

theorem State.Shows.of_shrinks (h : State.Shows s₀ x s) (un : ∀ q ∈ x.tail, q.Unexposed) (kept : State.MachineryKept s t)
    (composer : t.composer = s.composer) (galley : s.HeldAs x.galley.id x.galley → t.HeldAs x.galley.id x.galley)
    (queue : Shrinks s.queue t.queue) (fonts : s.fonts.Alike t.fonts) : State.Shows s₀ x t where
  kept := h.kept.trans kept
  composer := composer.trans h.composer
  galley := galley h.galley
  queue := by
    obtain ⟨rest, tail, here, lines, aged⟩ := h.queue
    obtain ⟨rest', tail', here', lines', aged'⟩ := queue rest tail here (forall₂_aged_unexposed aged un)
    refine ⟨rest', tail', here', lines'.trans lines, ?_⟩
    exact forall₂_aged_trans aged aged'
  fonts := h.fonts.trans fonts

theorem State.Shows.marks (h : State.Shows s₀ x s) (un : ∀ q ∈ x.tail, q.Unexposed) : State.Shows s₀ x s.markNotNeeded :=
  h.of_shrinks un s.markNotNeeded_kept rfl id (markNotNeeded_shrinks s) (.refl _)

theorem State.Shows.hasLines (h : State.Shows s₀ x s) (steady : x.Steady) : s.hasLines x.galley.id = true := by
  unfold State.hasLines
  rw [Bool.or_eq_true]
  obtain ⟨q, mem, own⟩ | ⟨works, more⟩ := steady.bound
  · left
    obtain ⟨rest, tail, here, -, aged⟩ := h.queue
    obtain ⟨q', mem', old⟩ := forall₂_aged_mem aged mem
    have un := (steady.unexposed q mem).of_proofed old
    refine State.hasRecords_of_unexposed (r := q') (by rw [here]; exact List.mem_append_right _ mem') un ?_
    rw [old]
    exact own
  · right
    obtain ⟨g', held, same⟩ := h.galley
    have ended : g'.compositionEnded = x.galley.compositionEnded := congrArg (fun g => g.compositionEnded) same
    unfold State.stillComposing
    rw [h.composer, held, works]
    dsimp only
    rw [ended]
    rcases more with more | more <;> simp [more]

/-- A departure leaves the scene as it is. -/
theorem State.Shows.leaves (h : State.Shows s₀ x s) (steady : x.Steady) (left : s.departure = some t) :
    State.Shows s₀ x t ∧ t.queue.length < s.queue.length := by
  have kept := State.departure_kept left
  obtain ⟨q, length, shrinks, -, cases⟩ := State.departure_shrinks left
  let v : State := State.recount { s with queue := q }
  have gone : State.Shows s₀ x v :=
    h.of_shrinks steady.unexposed ((s.queue_kept q).trans (State.recount_kept _)) rfl id shrinks (FontStore.recount_alike ..)
  have waits : v.takeWaiting = v := by
    unfold State.takeWaiting
    split
    · refine if_neg fun full => steady.going ?_
      rw [← gone.composer]
      exact full.1
    · rfl
  rw [show State.takeWaiting (State.recount { s with queue := q }) = v from waits] at cases
  have short : v.queue.length < s.queue.length := by
    show q.length < _
    omega
  obtain rfl | ⟨i, rfl⟩ := cases
  · exact ⟨gone, short⟩
  rw [State.checkDone_queue]
  refine ⟨?_, short⟩
  unfold State.checkDone
  split
  · exact gone
  split
  · exact gone
  rename_i none'
  split
  · have ne : i ≠ x.galley.id := by
      rintro rfl
      exact none' (.inl (gone.hasLines steady))
    have free : v.freeComposer i = v := by
      refine if_neg ?_
      rw [gone.composer]
      rcases steady.own with own | own <;> rw [own]
      · exact fun same => ne (Option.some.inj same).symm
      · exact nofun
    rw [free]
    refine gone.of_shrinks steady.unexposed (State.finishGalley_kept v i) (v.finishGalley_composer i)
      (fun held => held.finishGalley ne) ?_ (by rw [State.finishGalley_fonts]; exact .refl _)
    rw [State.finishGalley_queue]
    exact fun rest tail here _ => ⟨rest, tail, here, List.Sublist.refl _, forall₂_aged_refl tail⟩
  · exact gone

/-! ## From scene to scene -/

/-- Marks and departures do not lead out of these states. -/
structure Stable (S : State → Prop) : Prop where
  marks : ∀ s, S s → S s.markNotNeeded
  leaves : ∀ s t, S s → s.departure = some t → S t ∧ t.queue.length < s.queue.length

theorem Scene.Steady.stable (steady : x.Steady) (s₀ : State) : Stable (State.Shows s₀ x) :=
  ⟨fun _ shows => shows.marks steady.unexposed, fun _ _ shows left => shows.leaves steady left⟩

/-- From such a state, settling with as much fuel as `n` more tasks take leads to the goal. -/
def LeadsFrom (S : State → Prop) (n : Nat) (Goal : State → Prop) : Prop :=
  ∀ fuel s, S s → s.queue.length + 2 * n ≤ fuel → Goal (State.settleFor fuel s)

variable {S : State → Prop} {n : Nat} {Goal : State → Prop}

theorem LeadsFrom.settle (leads : LeadsFrom S n Goal) (few : n ≤ 32) (here : S s) : Goal s.settle := by
  refine leads _ s here ?_
  unfold State.settleFuel
  omega

/-- Where the composer does nothing more. -/
theorem LeadsFrom.done (stable : Stable S) (idle : ∀ s, S s → s.composerTask = none) (goal : ∀ s, S s → Goal s) :
    LeadsFrom S 0 Goal := by
  intro fuel
  induction fuel with
  | zero => exact fun s here _ => goal _ (stable.marks s here)
  | succ fuel ih =>
    intro s here short
    have marked := stable.marks s here
    have length := s.markNotNeeded_length
    unfold State.settleFor
    have step : s.settleStep = s.markNotNeeded.departure := by
      unfold State.settleStep
      dsimp only
      rw [idle _ marked]
      cases s.markNotNeeded.departure <;> rfl
    rw [step]
    cases left : s.markNotNeeded.departure with
    | none => exact goal _ marked
    | some t =>
      obtain ⟨here', short'⟩ := stable.leaves _ t marked left
      exact ih t here' (by omega)

/-- One task of the composer, and what follows it. -/
theorem LeadsFrom.step (stable : Stable S)
    (step : ∀ s, S s → ∃ (t : State) (T : State → Prop), s.composerTask = some t ∧ T t ∧
      t.queue.length ≤ s.queue.length + 1 ∧ LeadsFrom T n Goal) : LeadsFrom S (n + 1) Goal := by
  intro fuel
  induction fuel with
  | zero => exact fun s _ none' => absurd none' (by omega)
  | succ fuel ih =>
    intro s here short
    have marked := stable.marks s here
    have length := s.markNotNeeded_length
    unfold State.settleFor
    cases left : s.markNotNeeded.departure with
    | some t =>
      have step : s.settleStep = some t := by
        unfold State.settleStep
        dsimp only
        rw [left]
      rw [step]
      obtain ⟨here', short'⟩ := stable.leaves _ t marked left
      exact ih t here' (by omega)
    | none =>
      obtain ⟨t, T, task, there, longer, leads⟩ := step _ marked
      have step : s.settleStep = some t := by
        unfold State.settleStep
        dsimp only
        rw [left]
        exact task
      rw [step]
      exact leads fuel t there (by omega)

/-- From a state that shows this scene, settling with as much fuel as `n` more tasks take leads to the goal. -/
def Leads (s₀ : State) (x : Scene) (n : Nat) (Goal : State → Prop) : Prop := LeadsFrom (State.Shows s₀ x) n Goal

theorem State.Shows.composerTask_eq_none (h : State.Shows s₀ x s)
    (rests : x.composer.state ≠ .running ∨ x.composer.todo = []) : s.composerTask = none := by
  unfold State.composerTask
  rw [h.composer]
  split
  · rename_i running todo _
    rcases rests with rests | rests
    · exact absurd running rests
    · exact absurd (rests.symm.trans todo) nofun
  · rfl

theorem Leads.done (steady : x.Steady) (rests : x.composer.state ≠ .running ∨ x.composer.todo = [])
    (goal : ∀ s, State.Shows s₀ x s → Goal s) : Leads s₀ x 0 Goal :=
  LeadsFrom.done (steady.stable s₀) (fun _ shows => shows.composerTask_eq_none rests) goal

theorem Leads.step (steady : x.Steady)
    (step : ∀ s, State.Shows s₀ x s → ∃ t y, s.composerTask = some t ∧ State.Shows s₀ y t ∧
      t.queue.length ≤ s.queue.length + 1 ∧ Leads s₀ y n Goal) : Leads s₀ x (n + 1) Goal :=
  LeadsFrom.step (steady.stable s₀) fun s shows => by
    obtain ⟨t, y, task, shows', longer, leads⟩ := step s shows
    exact ⟨t, _, task, shows', longer, leads⟩

/-! ## The tasks -/

/-- The composer is to perform this task next. -/
structure Scene.Next (x : Scene) (task : Task) (rest : List Task) : Prop where
  running : x.composer.state = .running
  works : x.composer.galley = some x.galley.id
  todo : x.composer.todo = task :: rest

/-- The scene with the composer changed. -/
def Scene.withComposer (x : Scene) (c : Composer) : Scene := { x with composer := c }

theorem State.Shows.composerTask {task : Task} {rest : List Task} (h : State.Shows s₀ x s) (next : x.Next task rest) :
    ∃ g, s.galleys.find x.galley.id = some g ∧ g.uncredited = x.galley.uncredited ∧
      s.composerTask = some (State.recount (s.perform g task rest)) := by
  obtain ⟨g, held, same⟩ := h.galley
  refine ⟨g, held, same, ?_⟩
  have works : s.workingGalley = some g := by
    unfold State.workingGalley
    rw [h.composer, next.works]
    exact held
  unfold State.composerTask
  rw [h.composer, next.running, next.todo, works]

theorem State.Shows.composing (h : State.Shows s₀ x s) (c : Composer) :
    State.Shows s₀ (x.withComposer c) (State.recount { s with composer := c }) where
  kept := h.kept.trans ((State.mapComposer_kept s fun _ => c).trans (State.recount_kept _))
  composer := rfl
  galley := h.galley
  queue := h.queue
  fonts := h.fonts.trans (FontStore.recount_alike ..)

/-- A task that changes the composer alone. -/
theorem Leads.compose {task : Task} {rest : List Task} {c : Composer} (steady : x.Steady) (next : x.Next task rest)
    (effect : ∀ s g, State.Shows s₀ x s → g.uncredited = x.galley.uncredited →
      s.perform g task rest = { s with composer := c })
    (leads : Leads s₀ (x.withComposer c) n Goal) : Leads s₀ x (n + 1) Goal := by
  refine .step steady fun s shows => ?_
  obtain ⟨g, -, same, task⟩ := shows.composerTask next
  rw [effect s g shows same] at task
  exact ⟨_, _, task, shows.composing c, Nat.le_succ _, leads⟩

/-- The record of a line reads nothing of the galley's credit. -/
theorem Composer.closeLine_of_uncredited {g g' : Galley} (same : g'.uncredited = g.uncredited) (c : Composer) (how : Closing) :
    c.closeLine g' how = c.closeLine g how := by
  show c.closeLine g'.uncredited how = c.closeLine g.uncredited how
  rw [same]

/-- A record just appended. -/
def SetLine.fresh (r : SetLine) : QueueRecord :=
  { line := r, exposed := false, proofed := false, attached := true, exposing := false, rasterizing := false }

/-- The galley's record behind an append: counted, and suspended at a HALTED station (R63, R10). -/
def Galley.recorded (halted : Bool) (flags : Flags) (g : Galley) : Galley :=
  let counted := { g with counters := g.counters.appended flags }
  if halted ∧ (g.state = .composing ∨ g.state = .draining) then counted.suspendedFor .halt else counted

/-- The scene with a record appended. -/
def Scene.withRecord (x : Scene) (halted : Bool) (r : SetLine) (rest : List Task) : Scene where
  composer := { x.composer with todo := rest }
  lines := x.lines
  tail := x.tail ++ [r.fresh]
  galley := x.galley.recorded halted r.flags
  fonts := x.fonts.stampUse r.fonts

theorem Galley.recorded_id (halted : Bool) (flags : Flags) (g : Galley) : (g.recorded halted flags).id = g.id := by
  unfold Galley.recorded
  dsimp only
  split <;> rfl

theorem Galley.recorded_uncredited {g g' : Galley} (same : g'.uncredited = g.uncredited) (halted : Bool) (flags : Flags) :
    (g'.recorded halted flags).uncredited = (g.recorded halted flags).uncredited := by
  have through (g : Galley) : (g.recorded halted flags).uncredited = (g.uncredited.recorded halted flags).uncredited := by
    unfold Galley.recorded
    show _ = Galley.uncredited (if halted ∧ (g.state = .composing ∨ g.state = .draining) then _ else _)
    dsimp only
    split <;> rfl
  rw [through, same, ← through]

theorem State.appendRecord_find {r : SetLine} (held : s.galleys.find r.galley = some g) :
    (s.appendRecord r).galleys.find r.galley = some (g.recorded (s.station.mode == .halted) r.flags) := by
  let v : State :=
    { s with
      queue := s.queue ++ [r.fresh]
      galleys := s.galleys.update r.galley fun g => { g with counters := g.counters.appended r.flags }
      fonts := s.fonts.stampUse r.fonts }
  have counted : v.galleys.find r.galley = some { g with counters := g.counters.appended r.flags } :=
    State.find_update_self (by exact fun _ => rfl) held
  have added : s.appendRecord r = if s.station.mode = .halted then v.suspend r.galley .halt else v := rfl
  rw [added]
  unfold Galley.recorded
  by_cases halted : s.station.mode = .halted
  · rw [if_pos halted, halted]
    by_cases active : g.state = .composing ∨ g.state = .draining
    · rw [if_pos ⟨rfl, active⟩, State.suspend_of_suspendable counted active]
      exact State.find_update_self (s := v) (f := Galley.suspendedFor .halt) (fun _ => rfl) counted
    · rw [if_neg fun h => active h.2, State.suspend_of_not_suspendable]
      · exact counted
      · intro g' found
        obtain rfl := Option.some.inj (counted.symm.trans found)
        exact active
  · rw [if_neg halted, if_neg fun h => halted (by simpa using h.1)]
    exact counted

theorem State.appendRecord_fonts (s : State) (r : SetLine) : (s.appendRecord r).fonts = s.fonts.stampUse r.fonts := by
  unfold State.appendRecord
  dsimp only
  split
  · rw [State.suspend_alone]
  · rfl

/-- A record that finds room is appended (R63). -/
theorem Leads.offer {r : SetLine} {rest : List Task} (steady : x.Steady) (next : x.Next (.offer r) rest)
    (own : r.galley = x.galley.id) (room : x.lines.length + x.tail.length < 32)
    (leads : Leads s₀ (x.withRecord (s₀.station.mode == .halted) r rest) n Goal) : Leads s₀ x (n + 1) Goal := by
  refine .step steady fun s shows => ?_
  obtain ⟨g, held, same, task⟩ := shows.composerTask next
  let v : State := { s with composer := { s.composer with todo := rest } }
  have free : s.queue.length < Config.queueCapacity := shows.length_le.trans_lt room
  have appended : s.perform g (.offer r) rest = v.appendRecord r := if_pos free
  rw [appended] at task
  have queue : (v.appendRecord r).queue = s.queue ++ [r.fresh] := State.appendRecord_queue v r
  refine ⟨_, _, task, ?_, ?_, leads⟩
  · have found := State.appendRecord_find (s := v) (r := r) (g := g) (by rw [own]; exact held)
    have mode : v.station.mode = s₀.station.mode := congrArg Station.mode shows.kept.station
    obtain ⟨before, tail, here, lines, aged⟩ := shows.queue
    refine
      { kept := shows.kept.trans (State.MachineryKept.trans (State.mapComposer_kept s fun c => { c with todo := rest })
          ((State.appendRecord_kept v r).trans (State.recount_kept _)))
        composer := ?_
        galley := ?_
        queue := ⟨before, tail ++ [r.fresh], ?_, lines, ?_⟩
        fonts := ?_ }
    · show (v.appendRecord r).composer = _
      rw [State.appendRecord_composer]
      show { s.composer with todo := rest } = _
      rw [shows.composer]
      rfl
    · refine ⟨_, ?_, Galley.recorded_uncredited same _ _⟩
      show (v.appendRecord r).galleys.find (Galley.recorded _ _ x.galley).id = _
      rw [Galley.recorded_id, ← own, found, mode]
    · show (v.appendRecord r).queue = _
      rw [queue, here, List.append_assoc]
    · exact List.rel_append aged (.cons (.refl _) .nil)
    · show (x.fonts.stampUse r.fonts).Alike ((v.appendRecord r).fonts.recount _)
      rw [State.appendRecord_fonts]
      exact (shows.fonts.stampUse r.fonts).trans (FontStore.recount_alike ..)
  · show (v.appendRecord r).queue.length ≤ _
    rw [queue, List.length_append]
    exact le_refl _

/-- The composer asks for the next unit, and goes on or waits for text (R16). -/
theorem Leads.ask {rest : List Task} (steady : x.Steady) (next : x.Next .ask rest)
    (leads : ∀ state, state = .running ∨ state = .waitText →
      Leads s₀ (x.withComposer { x.composer with state := state, todo := rest }) n Goal) : Leads s₀ x (n + 1) Goal := by
  refine .step steady fun s shows => ?_
  obtain ⟨g, held, same, task⟩ := shows.composerTask next
  let v : State := { s with composer := { s.composer with todo := rest } }
  have asked : s.perform g .ask rest = v.askNext := rfl
  rw [asked] at task
  have state : v.askNext.composer.state = .running ∨ v.askNext.composer.state = .waitText := by
    obtain ⟨gu, l, st, effect, kept | waits⟩ := v.askNext_cases
    · rw [effect]
      exact .inl (kept.trans ((congrArg Composer.state shows.composer).trans next.running))
    · rw [effect]
      exact .inr waits
  refine ⟨_, _, task, ?_, ?_, leads _ state⟩
  · refine
      { kept := shows.kept.trans (State.MachineryKept.trans (State.mapComposer_kept s fun c => { c with todo := rest })
          ((State.askNext_kept v).trans (State.recount_kept _)))
        composer := ?_
        galley := ?_
        queue := ?_
        fonts := ?_ }
    · show v.askNext.composer = _
      rw [State.askNext_composer]
      exact congrArg (fun c : Composer => { c with state := v.askNext.composer.state, todo := rest }) shows.composer
    · obtain ⟨⟨g', held', same'⟩, -⟩ := State.askNext_galley v held
      exact ⟨g', held', same'.trans same⟩
    · show ∃ _ _, v.askNext.queue = _ ∧ _
      rw [State.askNext_queue]
      exact shows.queue
    · show x.fonts.Alike (v.askNext.fonts.recount _)
      rw [State.askNext_fonts]
      exact shows.fonts.trans (FontStore.recount_alike ..)
  · show v.askNext.queue.length ≤ _
    rw [State.askNext_queue]
    exact Nat.le_succ _

/-- The scene with its appended records counted among the others, of which they may leave as they will. -/
def Scene.forgetting (x : Scene) : Scene := { x with lines := x.lines ++ x.tail.map QueueRecord.line, tail := [] }

theorem Leads.forget (leads : Leads s₀ x.forgetting n Goal) : Leads s₀ x n Goal := by
  intro fuel s shows
  obtain ⟨rest, tail, here, lines, aged⟩ := shows.queue
  refine leads fuel s { kept := shows.kept, composer := shows.composer, galley := shows.galley, fonts := shows.fonts, queue := ?_ }
  refine ⟨rest ++ tail, [], by rw [here, List.append_nil], ?_, .nil⟩
  rw [List.map_append, forall₂_aged_lines aged]
  exact lines.append (List.Sublist.refl _)

/-- The word in progress tested. -/
theorem Leads.test {rest : List Task} {c : Composer} (steady : x.Steady) (next : x.Next .test rest)
    (effect : ∀ u fs g, g.uncredited = x.galley.uncredited → Composer.testWord { x.composer with todo := rest } u fs g = c)
    (leads : Leads s₀ (x.withComposer c) n Goal) : Leads s₀ x (n + 1) Goal :=
  .compose steady next (fun s g shows same => by
    rw [← effect s.hyphenation s.fonts g same, ← shows.composer]
    rfl) leads

/-- The interword space taken (R26, R48). -/
theorem Leads.space {rest : List Task} (steady : x.Steady) (next : x.Next .space rest)
    (leads : Leads s₀ (x.withComposer (Composer.takeSpace { x.composer with todo := rest } x.fonts)) n Goal) :
    Leads s₀ x (n + 1) Goal := by
  refine .compose steady next (fun s g shows _ => ?_) leads
  have glue (c : Composer) : c.glueNow s.fonts = c.glueNow x.fonts := by
    unfold Composer.glueNow
    split
    · rw [shows.fonts.metricsOf]
    · rfl
  have taken (c : Composer) : c.takeSpace s.fonts = c.takeSpace x.fonts := by
    unfold Composer.takeSpace
    rw [glue]
  rw [← shows.composer, ← taken]
  rfl

theorem Composer.closeUnit_of_uncredited {g g' : Galley} (same : g'.uncredited = g.uncredited) (c : Composer) :
    c.closeUnit g' = c.closeUnit g := by
  unfold Composer.closeUnit
  rw [Composer.closeLine_of_uncredited same]

theorem Composer.closePara_of_uncredited {g g' : Galley} (same : g'.uncredited = g.uncredited) (c : Composer) :
    c.closePara g' = c.closePara g := by
  unfold Composer.closePara
  rw [Composer.closeUnit_of_uncredited same]

/-- The line or the paragraph ended (R35, R36). -/
theorem Leads.close {para : Bool} {rest : List Task} (steady : x.Steady) (next : x.Next (.close para) rest)
    (leads : Leads s₀ (x.withComposer
      (if para then Composer.closePara { x.composer with todo := rest } x.galley
        else Composer.closeUnit { x.composer with todo := rest } x.galley)) n Goal) : Leads s₀ x (n + 1) Goal := by
  refine .compose steady next (fun s g shows same => ?_) leads
  rw [← shows.composer, ← Composer.closePara_of_uncredited same, ← Composer.closeUnit_of_uncredited same]
  rfl

/-! ## The tasks of a unit -/

/-- The composer works on its galley, whose text has not ended. -/
structure Scene.Composing (x : Scene) : Prop where
  unexposed : ∀ q ∈ x.tail, q.Unexposed
  works : x.composer.galley = some x.galley.id
  more : x.galley.compositionEnded = false

theorem Scene.Composing.steady (h : x.Composing) (going : x.composer.state ≠ .waitQueue) : x.Steady :=
  ⟨h.unexposed, going, .inl h.works, .inr ⟨h.works, .inr h.more⟩⟩

theorem Scene.Composing.next {task : Task} {rest : List Task} (h : x.Composing) (running : x.composer.state = .running)
    (todo : x.composer.todo = task :: rest) : x.Next task rest := ⟨running, h.works, todo⟩

theorem Scene.Composing.withComposer {c : Composer} (h : x.Composing) (same : c.galley = x.composer.galley) :
    (x.withComposer c).Composing := ⟨h.unexposed, same.trans h.works, h.more⟩

/-- The galley whose unit is taken, its text not ended. -/
theorem State.workingGalley_of_taking {i : Instr} (taking : s.taking i = true) :
    ∃ g, s.workingGalley = some g ∧ s.galleys.find g.id = some g ∧ s.composer.galley = some g.id ∧
      g.compositionEnded = false ∧ s.composer.state = .running ∧ s.composer.todo = [] := by
  unfold State.taking at taking
  simp only [Bool.and_eq_true, beq_iff_eq, List.isEmpty_iff] at taking
  obtain ⟨⟨running, todo⟩, next⟩ := taking
  split at next
  · rename_i g works
    have works' := works
    unfold State.workingGalley at works'
    split at works'
    · rename_i id galley
      obtain rfl := GalleyUnit.find_id works'
      refine ⟨g, works, works', galley, ?_, running, todo⟩
      cases ended : g.compositionEnded with
      | false => rfl
      | true =>
        unfold Galley.nextCommand at next
        rw [if_pos ended] at next
        exact absurd next nofun
    · exact absurd works' nofun
  · exact absurd next nofun

theorem Galley.consumedOne_kept (g : Galley) :
    g.consumedOne = { g with
      segments := g.consumedOne.segments, unitsRead := g.consumedOne.unitsRead, consumed := g.consumedOne.consumed } := by
  unfold Galley.consumedOne
  split
  · rfl
  · split <;> rfl

theorem State.consumeUnit_heldAs (works : s.workingGalley = some g) (held : s.galleys.find g.id = some g) :
    s.consumeUnit.HeldAs g.id g.consumedOne := by
  unfold State.consumeUnit Galley.consumedOne
  rw [works]
  dsimp only
  cases units : g.segments with
  | nil => exact .of_find held
  | cons slot rest =>
    dsimp only
    by_cases more : g.unitsRead + 1 < slot.length
    · rw [if_pos more, if_pos more, ← units]
      exact .of_find (State.find_update_self (by exact fun _ => rfl) held)
    · rw [if_neg more, if_neg more]
      exact .evaluateCredit (.of_find (State.find_update_self (by exact fun _ => rfl) held))

/-- The scene in which a consumed unit gives the composer its tasks. -/
def State.unitScene (s : State) (g : Galley) (tasks : List Task) : Scene where
  composer := { s.composer with todo := tasks }
  lines := s.queue.map QueueRecord.line
  tail := []
  galley := g.consumedOne
  fonts := s.fonts

theorem State.unitScene_composing {tasks : List Task} (works : s.composer.galley = some g.id)
    (more : g.compositionEnded = false) : (s.unitScene g tasks).Composing := by
  have id' : g.consumedOne.id = g.id := by rw [g.consumedOne_kept]
  refine ⟨fun _ mem => absurd mem List.not_mem_nil, works.trans (congrArg some id'.symm), ?_⟩
  show g.consumedOne.compositionEnded = _
  rw [g.consumedOne_kept]
  exact more

theorem State.unitScene_shows {tasks : List Task} (works : s.workingGalley = some g) (held : s.galleys.find g.id = some g) :
    State.Shows s (s.unitScene g tasks) (s.consumeUnit.mapComposer fun c => { c with todo := tasks }) where
  kept := s.consumeUnit_kept.trans (State.mapComposer_kept _ _)
  composer := congrArg (fun c : Composer => { c with todo := tasks }) s.consumeUnit_composer
  galley := by
    have id' : g.consumedOne.id = g.id := by rw [g.consumedOne_kept]
    show State.HeldAs _ g.consumedOne.id g.consumedOne
    rw [id']
    exact State.consumeUnit_heldAs works held
  queue := ⟨s.queue, [], by rw [List.append_nil]; exact s.consumeUnit_queue, List.Sublist.refl _, .nil⟩
  fonts := by
    show s.fonts.Alike s.consumeUnit.fonts
    rw [State.consumeUnit_fonts]
    exact .refl _

/-- What the taking of such a unit leads to. -/
theorem State.work_leadsFrom {tasks : List Task} (works : s.workingGalley = some g) (held : s.galleys.find g.id = some g)
    (here : S (s.consumeUnit.mapComposer fun c => { c with todo := tasks })) (leads : LeadsFrom S n Goal) (few : n ≤ 32) :
    ∃ u, s.consumeUnit.work tasks = u.examine s.exposureNextName ∧ Goal u ∧ s.FollowUp (s.consumeUnit.work tasks) := by
  refine ⟨_, ?_, leads.settle few here, .of_kept (State.unitScene_shows (tasks := tasks) works held).kept
    (State.event_followUp s.consumeUnit fun s => s.mapComposer fun c => { c with todo := tasks })⟩
  unfold State.work State.event
  rw [show s.consumeUnit.exposureNextName = s.exposureNextName from
    congrArg (Option.map QueueRecord.name) (State.exposureNext_of_queue s.consumeUnit_queue)]

theorem State.work_leads {tasks : List Task} (works : s.workingGalley = some g) (held : s.galleys.find g.id = some g)
    (leads : Leads s (s.unitScene g tasks) n Goal) (few : n ≤ 32) :
    ∃ u, s.consumeUnit.work tasks = u.examine s.exposureNextName ∧ Goal u ∧ s.FollowUp (s.consumeUnit.work tasks) :=
  State.work_leadsFrom works held (State.unitScene_shows works held) leads few

/-- The galley behind the examination: as it was, or suspended. -/
theorem State.Shows.examine_galley (h : State.Shows s₀ x s) (old : Option (GalleyId × Nat)) :
    ∃ g', (s.examine old).galleys.find x.galley.id = some g' ∧ g'.counters = x.galley.counters ∧
      g'.compositionEnded = x.galley.compositionEnded ∧ (g'.state = x.galley.state ∨ g'.state = .suspended) := by
  obtain ⟨g₁, held, same⟩ := h.galley
  have counters : g₁.counters = x.galley.counters := congrArg (fun g => g.counters) same
  have ended : g₁.compositionEnded = x.galley.compositionEnded := congrArg (fun g => g.compositionEnded) same
  obtain kept | ⟨g₂, why, held', -, -, suspended⟩ := (s.examine_examined old).records x.galley.id
  · exact ⟨g₁, kept.trans held, counters, ended, .inl (congrArg (fun g => g.state) same)⟩
  · obtain rfl := Option.some.inj (held.symm.trans held')
    exact ⟨_, suspended, counters, ended, .inr rfl⟩

end Sys2Proof.Machine
end

section
/-! The interword space (R26, R48, R50, R51, R54). -/

namespace Sys2Proof.Machine

variable {s : State} {g : Galley} {c : Composer}

/-- The composer behind a word that fits. -/
def Composer.placed (c : Composer) : Composer := { c.place c.word.boxes with word := Word.empty }

/-- The line behind a word that fits, the waiting space in front of the word (R44, R50). -/
theorem Composer.placed_line (c : Composer) :
    c.placed.line =
      { items := c.line.items ++ (if c.line.items = [] then [] else (c.space.map Item.glue).toList) ++ wordItems c.word.boxes
        missing := c.line.missing || c.word.missing, substituted := c.line.substituted || c.word.substituted } := rfl

theorem Composer.placed_boxes (c : Composer) : c.placed.line.boxes = c.line.boxes ++ c.word.boxes := c.place_boxes _

theorem wordItems_ne_nil {boxes : List Box} (some' : boxes ≠ []) : wordItems boxes ≠ [] := by
  cases boxes with
  | nil => exact absurd rfl some'
  | cons b bs => exact List.cons_ne_nil _ _

/-- The glue of a space behind these boxes, as the rule says it (R48). -/
theorem Composer.glueNow_is {c : Composer} {boxes : List Box} (same : c.line.boxes = boxes)
    (size : c.params.size = s.composer.params.size) : s.SpaceIs boxes (some (c.glueNow s.fonts)) := by
  unfold Composer.glueNow
  rw [same]
  refine ⟨fun before code font size width behind m here bare metrics => ?_, fun bare => ?_⟩
  · rw [lastFace_eq_some_iff.mpr ⟨before, code, width, behind, here, bare⟩]
    dsimp only
    rw [metrics]
    rfl
  · have none' : lastFace boxes = none := by
      unfold lastFace
      have faces : boxes.filterMap Box.face? = [] := by
        refine List.filterMap_eq_nil_iff.mpr fun b mem => ?_
        have := bare b mem
        cases b with
        | char => exact absurd this nofun
        | fixed => rfl
      rw [faces]
      rfl
    rw [none']
    dsimp only
    rw [size]
    rfl

theorem exec_space_of_taking (taking : s.taking (.characterUnit 32) = true) (learn : s.composer.params.learn = none) :
    exec (.characterUnit 32) s = .next (s.consumeUnit.work [.test, .space, .ask]) := by
  obtain ⟨g, works, -⟩ := State.workingGalley_of_taking taking
  show execCharacterUnit 32 s = _
  unfold execCharacterUnit
  rw [works]
  dsimp only
  rw [if_pos taking]
  unfold State.takeCharacter
  rw [learn]
  rfl

theorem Composer.testWord_of_empty {u : Hyphenation} {fs : FontStore} (none' : c.word = Word.empty) :
    c.testWord u fs g = c := by
  rw [Composer.testWord_of_no_boxes (by rw [none']; rfl)]
  have line : ({ c.line with
      missing := c.line.missing || c.word.missing
      substituted := c.line.substituted || c.word.substituted } : LineBuild) = c.line := by
    rw [none']
    show LineBuild.mk c.line.items (c.line.missing || false) (c.line.substituted || false) = _
    rw [Bool.or_false, Bool.or_false]
  rw [line, ← none']

theorem Composer.takeSpace_kept (c : Composer) (fs : FontStore) : c.takeSpace fs = { c with space := (c.takeSpace fs).space } := by
  unfold Composer.takeSpace
  split <;> rfl

/-- What an interword space leads to where the test of the word closes no line. -/
theorem exec_space_leads (taking : s.taking (.characterUnit 32) = true) (learn : s.composer.params.learn = none)
    (state : c.state = s.composer.state) (galley : c.galley = s.composer.galley) (todo : c.todo = [.space, .ask])
    (effect : ∀ u fs g, Composer.testWord { s.composer with todo := [.space, .ask] } u fs g = c) :
    ∃ t, exec (.characterUnit 32) s = .next t ∧ s.FollowUp t ∧ t.composer.params = c.params ∧
      t.composer.nextLine = c.nextLine ∧ t.composer.word = c.word ∧ t.composer.line = c.line ∧
      t.composer.space = (c.takeSpace s.fonts).space := by
  obtain ⟨g, works, held, galley', more, running, -⟩ := State.workingGalley_of_taking taking
  have composing := State.unitScene_composing (tasks := [.test, .space, .ask]) galley' more
  let d := Composer.takeSpace { c with todo := [.ask] } s.fonts
  have kept : d = { c with todo := [.ask], space := d.space } := Composer.takeSpace_kept ..
  have taken : d.space = (c.takeSpace s.fonts).space := by
    show (Composer.takeSpace _ _).space = _
    unfold Composer.takeSpace
    split <;> rfl
  have leads : Leads s (s.unitScene g [.test, .space, .ask]) 3 fun u => ∃ st,
      State.Shows s ((s.unitScene g [.test, .space, .ask]).withComposer { d with state := st, todo := [] }) u := by
    have running' : c.state = .running := state.trans running
    have composing' := composing.withComposer (c := c) galley
    have composing'' := composing.withComposer (c := d) (by rw [kept]; exact galley)
    refine .test (composing.steady (by exact running ▸ nofun)) (composing.next running rfl) (fun u fs g _ => effect u fs g) ?_
    refine .space (composing'.steady (by exact running' ▸ nofun)) (composing'.next running' todo) ?_
    refine .ask (composing''.steady ((congrArg Composer.state kept).trans running' ▸ nofun))
      (composing''.next ((congrArg Composer.state kept).trans running') (congrArg Composer.todo kept)) fun st reached => ?_
    refine .done ((composing''.withComposer (c := { d with state := st, todo := [] }) rfl).steady ?_) (.inr rfl) fun u shows => ⟨st, shows⟩
    rcases reached with rfl | rfl <;> exact nofun
  obtain ⟨u, done, ⟨st, shows⟩, follow⟩ := State.work_leads works held leads (by decide)
  have composer : (s.consumeUnit.work [.test, .space, .ask]).composer = { d with state := st, todo := [] } := by
    rw [done, State.examine_composer]
    exact shows.composer
  refine ⟨_, exec_space_of_taking taking learn, follow, ?_, ?_, ?_, ?_, ?_⟩
  all_goals rw [composer]
  · rw [kept]
  · rw [kept]
  · rw [kept]
  · rw [kept]
  · exact taken

theorem claims_spaceBehindPlacedWords : Claims.SpaceBehindPlacedWords := by
  intro s taking learn word
  let d : Composer := { s.composer with todo := [.space, .ask] }
  obtain ⟨t, done, follow, -, -, word', line, space⟩ := exec_space_leads (c := d) taking learn rfl rfl rfl
    fun u fs g => Composer.testWord_of_empty word
  refine ⟨t, done, follow, line, word'.trans word, fun drops => ?_, fun words none' => ?_⟩
  · rw [space]
    unfold Composer.takeSpace
    rw [if_pos drops]
  · rw [space]
    unfold Composer.takeSpace
    rw [if_neg (by rw [none']; exact not_or.mpr ⟨words, nofun⟩)]
    exact Composer.glueNow_is rfl rfl

theorem claims_spaceEndsTheWord : Claims.SpaceEndsTheWord := by
  rintro s c taking learn rfl boxes fits
  let d : Composer := { s.composer with todo := [.space, .ask] }
  have effect (u : Hyphenation) (fs : FontStore) (g : Galley) : d.testWord u fs g = d.placed :=
    Composer.testWord_of_fits boxes fits
  obtain ⟨t, done, follow, params, nextLine, word, line, space⟩ := exec_space_leads (c := d.placed) taking learn rfl rfl rfl effect
  refine ⟨t, done, follow, params, nextLine, word, line, ?_⟩
  have some' : d.placed.line.items ≠ [] := List.append_ne_nil_of_right_ne_nil _ (wordItems_ne_nil boxes)
  rw [space]
  unfold Composer.takeSpace
  rw [if_neg (not_or.mpr ⟨some', nofun⟩)]
  exact Composer.glueNow_is d.placed_boxes rfl

/-- Settles O25, by the composer's tasks behind an interword space. -/
theorem interwordSpace : Obligations.InterwordSpace := ⟨claims_spaceBehindPlacedWords, claims_spaceEndsTheWord⟩

end Sys2Proof.Machine
end

section
/-! Lines and paragraphs ended (R35, R36, R50, R51, R53 to R55, R60 to R63, R84). -/

namespace Sys2Proof.Machine

variable {s s₀ : State} {g : Galley} {c : Composer} {x : Scene} {n : Nat} {Goal : State → Prop}

/-! ## The close of a line, and its record's append -/

/-- The record of a line that a unit ends (R55, R62). -/
def Composer.unitRecord (c : Composer) (g : Galley) : SetLine := (c.closeLine g .unit).2

/-- The composer behind it, its next tasks given. -/
def Composer.lineEnded (c : Composer) (g : Galley) (para : Bool) (rest : List Task) : Composer :=
  if para then { c.closePara g with todo := rest } else { c.closeUnit g with todo := rest }

/-- The scene with its line closed and the record appended. -/
def Scene.lineEnded (x : Scene) (halted para : Bool) (rest : List Task) : Scene where
  composer := x.composer.lineEnded x.galley para rest
  lines := x.lines
  tail := x.tail ++ [(x.composer.unitRecord x.galley).fresh]
  galley := x.galley.recorded halted (x.composer.unitRecord x.galley).flags
  fonts := x.fonts.stampUse (x.composer.unitRecord x.galley).fonts

theorem Leads.lineEnd {para : Bool} {rest : List Task} (composing : x.Composing) (running : x.composer.state = .running)
    (todo : x.composer.todo = .close para :: rest) (room : x.lines.length + x.tail.length < 32)
    (leads : Leads s₀ (x.lineEnded (s₀.station.mode == .halted) para rest) n Goal) : Leads s₀ x (n + 2) Goal := by
  let c : Composer := { x.composer with todo := rest }
  have steady : x.Steady := composing.steady (by rw [running]; exact nofun)
  refine Leads.close steady (composing.next running todo) ?_
  cases para with
  | false =>
    have composing' := composing.withComposer (c := c.closeUnit x.galley) rfl
    exact Leads.offer (r := x.composer.unitRecord x.galley) (composing'.steady (by exact running ▸ nofun))
      (composing'.next running rfl) rfl room leads
  | true =>
    have composing' := composing.withComposer (c := c.closePara x.galley) rfl
    exact Leads.offer (r := x.composer.unitRecord x.galley) (composing'.steady (by exact running ▸ nofun))
      (composing'.next running rfl) rfl room leads

/-- The composer asks for the next unit, and that is all. -/
theorem Leads.askLast (composing : x.Composing) (running : x.composer.state = .running) (todo : x.composer.todo = [.ask]) :
    Leads s₀ x 1 fun u => ∃ st, State.Shows s₀ (x.withComposer { x.composer with state := st, todo := [] }) u := by
  refine .ask (composing.steady (by rw [running]; exact nofun)) (composing.next running todo) fun st reached => ?_
  refine .done ((composing.withComposer (c := { x.composer with state := st, todo := [] }) rfl).steady ?_) (.inr rfl)
    fun u shows => ⟨st, shows⟩
  rcases reached with rfl | rfl <;> exact nofun

theorem Composer.lineEnded_kept (c : Composer) (g : Galley) (para : Bool) (rest : List Task) :
    (c.lineEnded g para rest).galley = c.galley ∧ (c.lineEnded g para rest).state = c.state ∧
      (c.lineEnded g para rest).todo = rest := by
  cases para <;> exact ⟨rfl, rfl, rfl⟩

theorem Galley.recorded_ended (halted : Bool) (flags : Flags) (g : Galley) :
    (g.recorded halted flags).compositionEnded = g.compositionEnded ∧
      (g.recorded halted flags).counters = g.counters.appended flags ∧ (g.recorded halted flags).mode = g.mode := by
  unfold Galley.recorded
  dsimp only
  split <;> exact ⟨rfl, rfl, rfl⟩

theorem SetLine.fresh_unexposed {r : SetLine} (needs : r.needsExposure = true) : r.fresh.Unexposed := ⟨rfl, rfl, needs⟩

theorem Scene.Composing.lineEnded (composing : x.Composing) (film : x.galley.mode.wantsFilm = true) (halted para : Bool)
    (rest : List Task) : (x.lineEnded halted para rest).Composing where
  unexposed q mem := by
    obtain mem | mem := List.mem_append.mp mem
    · exact composing.unexposed q mem
    · obtain rfl := List.mem_singleton.mp mem
      exact SetLine.fresh_unexposed film
  works := ((x.composer.lineEnded_kept ..).1.trans composing.works).trans (congrArg some (Galley.recorded_id ..).symm)
  more := (Galley.recorded_ended ..).1.trans composing.more

theorem Scene.Composing.lineEnded_forgetting (composing : x.Composing) (halted para : Bool) (rest : List Task) :
    (x.lineEnded halted para rest).forgetting.Composing where
  unexposed _ mem := absurd mem List.not_mem_nil
  works := ((x.composer.lineEnded_kept ..).1.trans composing.works).trans (congrArg some (Galley.recorded_id ..).symm)
  more := (Galley.recorded_ended ..).1.trans composing.more

/-- A line ended in a scene, and the next unit asked for, whatever becomes of the record. -/
theorem Leads.endsLine {para : Bool} (composing : x.Composing) (running : x.composer.state = .running)
    (todo : x.composer.todo = [.close para, .ask]) (room : x.lines.length + x.tail.length < 32) {y : Scene}
    (behind : y = (x.lineEnded (s₀.station.mode == .halted) para [.ask]).forgetting ∨
      x.galley.mode.wantsFilm = true ∧ y = x.lineEnded (s₀.station.mode == .halted) para [.ask]) :
    Leads s₀ x 3 fun u => ∃ st, State.Shows s₀ (y.withComposer { y.composer with state := st, todo := [] }) u := by
  obtain ⟨-, state, todo'⟩ := x.composer.lineEnded_kept x.galley para [.ask]
  refine .lineEnd composing running todo room ?_
  obtain rfl | ⟨film, rfl⟩ := behind
  · exact .forget (.askLast (composing.lineEnded_forgetting ..) (state.trans running) todo')
  · exact .askLast (composing.lineEnded film ..) (state.trans running) todo'

/-! ## END LINE and END PARA -/

theorem exec_end_of_taking {para : Bool} (taking : s.taking (if para then .endPara else .endLine) = true) :
    exec (if para then .endPara else .endLine) s = .next (s.consumeUnit.work [.test, .close para, .ask]) := by
  cases para <;> exact congrArg Host.Outcome.next (if_pos taking)

/-- The scene behind the test of a word that closes no line. -/
def State.testedScene (s : State) (g : Galley) (c : Composer) (para : Bool) : Scene :=
  (s.unitScene g [.test, .close para, .ask]).withComposer c

/-- Where the test of the word closes no line, END LINE and END PARA close one. -/
theorem State.work_endsLine {para : Bool} {i : Instr} (taking : s.taking i = true) (works : s.workingGalley = some g)
    (state : c.state = s.composer.state) (galley : c.galley = s.composer.galley) (todo : c.todo = [.close para, .ask])
    (effect : ∀ u fs g, Composer.testWord { s.composer with todo := [.close para, .ask] } u fs g = c)
    (room : s.queue.length < 32) {y : Scene}
    (behind : y = ((s.testedScene g c para).lineEnded (s.station.mode == .halted) para [.ask]).forgetting ∨
      g.mode.wantsFilm = true ∧ y = (s.testedScene g c para).lineEnded (s.station.mode == .halted) para [.ask]) :
    ∃ u st, s.consumeUnit.work [.test, .close para, .ask] = u.examine s.exposureNextName ∧
      State.Shows s (y.withComposer { y.composer with state := st, todo := [] }) u ∧
      s.FollowUp (s.consumeUnit.work [.test, .close para, .ask]) := by
  obtain ⟨g', works', held, galley', more, running, -⟩ := State.workingGalley_of_taking taking
  obtain rfl := Option.some.inj (works.symm.trans works')
  have composing := State.unitScene_composing (tasks := [.test, .close para, .ask]) galley' more
  have leads : Leads s (s.unitScene g [.test, .close para, .ask]) 4 fun u => ∃ st,
      State.Shows s (y.withComposer { y.composer with state := st, todo := [] }) u := by
    refine .test (composing.steady (by exact running ▸ nofun)) (composing.next running rfl) (fun u fs g _ => effect u fs g) ?_
    refine Leads.endsLine (composing.withComposer galley) (state.trans running) todo ?_ ?_
    · show (s.queue.map QueueRecord.line).length + 0 < 32
      rw [List.length_map]
      exact room
    · refine behind.imp_right fun film => ⟨?_, film.2⟩
      show g.consumedOne.mode.wantsFilm = true
      rw [g.consumedOne_kept]
      exact film.1
  obtain ⟨u, done, ⟨st, shows⟩, follow⟩ := State.work_leads works held leads (by decide)
  exact ⟨u, st, done, shows, follow⟩

/-- The record of a line reads nothing of the galley's text. -/
theorem Composer.unitRecord_consumedOne (c : Composer) (g : Galley) : c.unitRecord g.consumedOne = c.unitRecord g := by
  rw [g.consumedOne_kept]
  rfl

theorem Composer.lineEnded_galley (c : Composer) (g g' : Galley) (para : Bool) (rest : List Task) :
    c.lineEnded g para rest = c.lineEnded g' para rest := by
  cases para <;> rfl

/-- What the line ended leaves in the composer: nothing on the line, and the running state of its close (R29, R55). -/
theorem Composer.lineEnded_eq (c : Composer) (g : Galley) (para : Bool) (rest : List Task) :
    c.lineEnded g para rest =
      { c with
        params :=
          { c.params.afterClose (!c.line.boxes.isEmpty) 0 with
            firstLine := para || (c.params.firstLine && c.line.boxes.isEmpty) }
        line := LineBuild.empty, space := none, nextLine := c.nextLine + 1, todo := rest } := by
  cases para with
  | false =>
    unfold Composer.lineEnded Composer.closeUnit Composer.closeLine Params.afterClose
    rw [if_neg nofun]
    dsimp only
    rw [Bool.not_not, Bool.false_or]
    rfl
  | true => rfl

/-- What an ended line leaves, where the test of the word closes none before it. -/
structure State.LineEnded (s : State) (g : Galley) (c : Composer) (para : Bool) (t : State) : Prop where
  follow : s.FollowUp t
  composer : ∃ st, t.composer = { c.lineEnded g para [.ask] with state := st, todo := [] }
  galley : ∃ g', t.galleys.find g.id = some g' ∧ g'.counters = g.counters.appended (c.unitRecord g).flags
  record : g.mode = .film ∨ g.mode = .both →
    ∃ rest q, t.queue = rest ++ [q] ∧ (rest.map QueueRecord.line).Sublist (s.queue.map QueueRecord.line) ∧
      (c.unitRecord g).fresh.Aged q ∧ (s.fonts.stampUse (c.unitRecord g).fonts).Alike t.fonts

theorem exec_end_lineEnded {para : Bool} (taking : s.taking (if para then .endPara else .endLine) = true)
    (works : s.workingGalley = some g) (state : c.state = s.composer.state) (galley : c.galley = s.composer.galley)
    (todo : c.todo = [.close para, .ask])
    (effect : ∀ u fs g, Composer.testWord { s.composer with todo := [.close para, .ask] } u fs g = c)
    (room : s.queue.length < 32) :
    ∃ t, exec (if para then .endPara else .endLine) s = .next t ∧ s.LineEnded g c para t := by
  refine ⟨_, exec_end_of_taking taking, ?_⟩
  obtain ⟨u, st, done, shows, follow⟩ := State.work_endsLine taking works state galley todo effect room (.inl rfl)
  obtain ⟨g', held, counters, -⟩ := shows.examine_galley s.exposureNextName
  rw [← done] at held
  refine ⟨follow, ⟨st, ?_⟩, ⟨g', ?_, ?_⟩, fun film => ?_⟩
  · rw [done, State.examine_composer, c.lineEnded_galley g g.consumedOne]
    exact shows.composer
  · have id' : (g.consumedOne.recorded (s.station.mode == .halted) (c.unitRecord g.consumedOne).flags).id = g.id := by
      rw [Galley.recorded_id, g.consumedOne_kept]
    rw [← id']
    exact held
  · have counted : (g.consumedOne.recorded (s.station.mode == .halted) (c.unitRecord g.consumedOne).flags).counters =
        g.counters.appended (c.unitRecord g).flags := by
      rw [(Galley.recorded_ended ..).2.1, c.unitRecord_consumedOne]
      rw [g.consumedOne_kept]
    exact counters.trans counted
  · have wants : g.mode.wantsFilm = true := by rcases film with mode | mode <;> rw [mode] <;> rfl
    obtain ⟨u', st', done', shows', -⟩ :=
      State.work_endsLine taking works state galley todo effect room (.inr ⟨wants, rfl⟩)
    obtain ⟨rest, tail, here, lines, aged⟩ := shows'.queue
    have examined := u'.examine_examined s.exposureNextName
    rw [← done'] at examined
    have fonts := shows'.fonts.trans ⟨congrArg _ examined.directory, examined.useCount⟩
    have aged' : List.Forall₂ QueueRecord.Aged [(c.unitRecord g).fresh] tail := by
      rw [← c.unitRecord_consumedOne]
      exact aged
    cases aged' with
    | cons first none' =>
      cases none'
      refine ⟨rest, _, examined.queue.trans here, lines, first, ?_⟩
      rw [← c.unitRecord_consumedOne]
      exact fonts

/-- The composer without the word in progress, whose marks pass to the line. -/
def Composer.wordless (c : Composer) : Composer :=
  { c with
    line :=
      { c.line with missing := c.line.missing || c.word.missing, substituted := c.line.substituted || c.word.substituted }
    word := Word.empty }

/-- Where no word is in progress. -/
theorem exec_end_of_no_word {para : Bool} (taking : s.taking (if para then .endPara else .endLine) = true)
    (works : s.workingGalley = some g) (bare : s.composer.word.boxes = []) (room : s.queue.length < 32) :
    ∃ t, exec (if para then .endPara else .endLine) s = .next t ∧
      s.LineEnded g { s.composer.wordless with todo := [.close para, .ask] } para t :=
  exec_end_lineEnded taking works rfl rfl rfl (fun _ _ _ => Composer.testWord_of_no_boxes bare) room

theorem claims_lineOrParagraphEnds : Claims.LineOrParagraphEnds := by
  intro para g s taking works bare room
  obtain ⟨t, done, ended⟩ := exec_end_of_no_word taking works bare room
  obtain ⟨st, composer⟩ := ended.composer
  obtain ⟨g', held, counters⟩ := ended.galley
  rw [Composer.lineEnded_eq] at composer
  refine ⟨t, g', done, ended.follow, ?_, ?_, ?_, ?_, held, ?_, ?_⟩
  · rw [composer]
  · rw [composer]
    rfl
  · rw [composer]
  · rw [composer]
    rfl
  · rw [counters]
    rfl
  · rw [composer]
    rfl

theorem distinct_nodup (xs : List Nat) : (distinct xs).Nodup := by
  induction xs using List.reverseRecOn with
  | nil => exact .nil
  | append_singleton xs y ih =>
    rw [distinct_append_singleton]
    split
    · exact ih
    · rename_i fresh
      exact ih.append (List.nodup_singleton y) (by simpa using fresh)

/-- The fonts of a record take the use count as their stamp (R98). -/
theorem FontStore.stampUse_stamp {fs : FontStore} {fonts : List Nat} {font : Nat} {e : DirEntry} (few : fs.useCount < 65535)
    (mem : font ∈ fonts) (found : (fs.stampUse fonts).entry font = some e) : e.stamp = fs.useCount := by
  have directory : (fs.stampUse fonts).directory = fs.directory.map fun e =>
      if e.state ≠ .free ∧ e.font ∈ fonts then { e with stamp := fs.useCount } else e := by
    unfold FontStore.stampUse FontStore.advanceUse
    rw [if_neg (List.ne_nil_of_mem mem)]
    exact congrArg FontStore.directory (if_pos few)
  obtain ⟨here, held, own⟩ := FontStore.entry_spec found
  rw [directory] at here
  obtain ⟨e', -, rfl⟩ := List.mem_map.mp here
  split
  · rfl
  · rename_i other
    rw [if_neg other] at held own
    exact absurd ⟨held, own ▸ mem⟩ other

theorem FontStore.Alike.stamp {t : State} {fs : FontStore} {fonts : List Nat} (alike : (fs.stampUse fonts).Alike t.fonts)
    (few : fs.useCount < 65535) {font : Nat} (mem : font ∈ fonts) {e : DirEntry} (found : t.fonts.entry font = some e) :
    e.stamp = fs.useCount := by
  have same := alike.entry font
  rw [found, Option.map_some] at same
  obtain ⟨e', found', alike'⟩ := Option.map_eq_some_iff.mp same.symm
  rw [← FontStore.stampUse_stamp few mem found']
  exact (congrArg DirEntry.stamp alike').symm

/-- The record of a line that a unit ends, field by field (R62). -/
theorem Composer.unitRecord_eq (c : Composer) (g : Galley) (film : g.mode = .film ∨ g.mode = .both) :
    c.unitRecord g =
      { galley := g.id, number := c.nextLine, kind := if !c.line.boxes.isEmpty then .text else .blank
        leading := c.params.leading, advance := c.params.pendingAdvance, back := c.params.pendingBack
        offset := c.params.offset, measure := c.params.measure
        setWidth := if !c.line.boxes.isEmpty then (c.line.natural : Int) else 0
        flags := { Flags.none with missing := c.line.missing, substituted := c.line.substituted }
        reverse := !c.line.boxes.isEmpty && c.params.reverse, trim := c.params.trim, cutAfter := c.params.cut
        runs :=
          runsOf (positions
            ((c.params.effectiveIndent + (setByQuad c.line c.params.available c.params.quad).quadOffset : Nat) : Int)
            c.line.items (setByQuad c.line c.params.available c.params.quad).glues [])
        fonts := (c.unitRecord g).fonts, needsExposure := true
        needsProof :=
          decide (g.mode = .both) && decide (g.firstLine ≤ c.nextLine) &&
            (decide (g.lastLine = 0) || decide (c.nextLine ≤ g.lastLine)) } := by
  have set : c.setting .unit = setNatural c.line (setByQuad c.line c.params.available c.params.quad).quadOffset :=
    setByQuad_eq_setNatural ..
  unfold Composer.unitRecord Composer.closeLine Composer.record
  rw [set, setByQuad_eq_setNatural]
  rcases film with mode | mode
  · rw [mode]
    rfl
  · rw [mode]
    rfl

theorem claims_closedRecordAppended : Claims.ClosedRecordAppended := by
  rintro para g s c set missing substituted text taking works rfl bare room film rfl rfl rfl rfl
  obtain ⟨t, done, ended⟩ := exec_end_of_no_word taking works bare room
  obtain ⟨g', held, counters⟩ := ended.galley
  obtain ⟨rest, q, queue, lines, aged, fonts⟩ := ended.record film
  let d : Composer := { s.composer.wordless with todo := [.close para, .ask] }
  have line : q.line = d.unitRecord g := by rw [aged]; rfl
  refine ⟨t, g', q, done, held, by rw [queue, List.getLast?_concat], by rw [queue, List.dropLast_concat]; exact lines,
    by rw [aged]; rfl, by rw [aged]; rfl, by rw [aged]; rfl, by rw [aged]; rfl, ?_, ?_, fun font => ?_, ?_, fun few font mem e found => ?_⟩
  · rw [line]
    exact d.unitRecord_eq g film
  · rw [line]
    exact distinct_nodup _
  · rw [line]
    exact mem_distinct.trans List.mem_map
  · rw [counters, d.unitRecord_eq g film]
    rfl
  · rw [line] at mem
    exact FontStore.Alike.stamp fonts few mem found

end Sys2Proof.Machine
end

section
/-! Lines and paragraphs ended with a word in progress, and the wait for a full queue (R35, R36, R50, R51, R53, R54, R63, R84). -/

namespace Sys2Proof.Machine

variable {s s₀ t : State} {g : Galley} {c : Composer} {x : Scene} {n : Nat} {Goal : State → Prop}

/-! ## A word that fits -/

theorem claims_wordThenLineEnds : Claims.WordThenLineEnds := by
  rintro para g s c line set taking works rfl boxes room film fits rfl rfl
  let d : Composer := { s.composer with todo := [.close para, .ask] }
  obtain ⟨t, done, ended⟩ := exec_end_lineEnded (c := d.placed) taking works rfl rfl rfl
    (fun u fs g => Composer.testWord_of_fits (c := d) boxes fits) room
  obtain ⟨st, composer⟩ := ended.composer
  obtain ⟨g', held, counters⟩ := ended.galley
  obtain ⟨rest, q, queue, lines, aged, -⟩ := ended.record film
  have text : d.placed.line.boxes ≠ [] := by
    rw [d.placed_boxes]
    exact List.append_ne_nil_of_right_ne_nil _ boxes
  have text' : d.placed.line.boxes.isEmpty = false := by simpa using text
  have record := d.placed.unitRecord_eq g film
  rw [text'] at record
  have line : q.line = d.placed.unitRecord g := by rw [aged]; rfl
  rw [Composer.lineEnded_eq, text'] at composer
  refine ⟨t, g', q, done, ended.follow, ?_, ?_, ?_, ?_, ?_, held, ?_, ?_, ?_, ?_, ?_, ?_, ?_, ?_, ?_, ?_⟩
  · rw [composer]
  · rw [composer]
    rfl
  · rw [composer]
  · rw [composer]
    rfl
  · rw [composer]
    show (para || (_ && false)) = para
    rw [Bool.and_false, Bool.or_false]
  · rw [counters]
    rfl
  · rw [queue, List.getLast?_concat]
  · rw [queue, List.dropLast_concat]
    exact lines
  · exact congrArg SetLine.galley (line.trans record)
  · exact congrArg SetLine.number (line.trans record)
  · exact congrArg SetLine.kind (line.trans record)
  · exact congrArg SetLine.setWidth (line.trans record)
  · exact congrArg SetLine.flags (line.trans record)
  · exact congrArg SetLine.cutAfter (line.trans record)
  · exact congrArg SetLine.runs (line.trans record)

/-! ## A word that does not -/

theorem wordItems_glues (bs : List Box) : (wordItems bs).filterMap Item.glue? = [] := by
  cases bs with
  | nil => rfl
  | cons b bs =>
    show (bs.map fun b => Item.box b false).filterMap Item.glue? = []
    rw [List.filterMap_map]
    exact List.filterMap_eq_nil_iff.mpr fun _ _ => rfl

theorem boxes_ne_nil_items {l : LineBuild} (boxes : l.boxes ≠ []) : l.items ≠ [] := by
  intro none'
  refine boxes ?_
  unfold LineBuild.boxes
  rw [none']
  rfl

/-- A break that is no hyphen break, where hyphenation is off (R53, R81). -/
theorem Composer.testWord_of_plain {u : Hyphenation} {fs : FontStore} (boxes : c.word.boxes ≠ []) (words : c.line.items ≠ [])
    (long : c.params.available < c.testBase + boxesWidth c.word.boxes) (off : c.params.hyphenation = false) :
    c.testWord u fs g = c.broken g .plain c.word c.todo := by
  have tight : ¬c.Fits := by
    rintro (⟨empty, -⟩ | ⟨-, short, -⟩)
    · exact words empty
    · omega
  rw [Composer.testWord_of_break boxes words tight]
  have none' : c.hyphenBreak u fs = none := if_neg fun h => by
    rw [off] at h
    exact absurd h.1 nofun
  rw [none']

/-- The record of a line broken before a word (R53, R62). -/
def Composer.plainRecord (c : Composer) (g : Galley) : SetLine := (c.closeLine g .plain).2

/-- A line broken before the word in progress: the record appended, and the word to be tested again. -/
def Scene.broken (x : Scene) (halted : Bool) (rest : List Task) : Scene where
  composer := { (x.composer.closeLine x.galley .plain).1 with todo := .test :: rest }
  lines := x.lines
  tail := x.tail ++ [(x.composer.plainRecord x.galley).fresh]
  galley := x.galley.recorded halted (x.composer.plainRecord x.galley).flags
  fonts := x.fonts.stampUse (x.composer.plainRecord x.galley).fonts

theorem Scene.Composing.broken (composing : x.Composing) (film : x.galley.mode.wantsFilm = true) (halted : Bool)
    (rest : List Task) : (x.broken halted rest).Composing where
  unexposed q mem := by
    obtain mem | mem := List.mem_append.mp mem
    · exact composing.unexposed q mem
    · obtain rfl := List.mem_singleton.mp mem
      exact SetLine.fresh_unexposed film
  works := composing.works.trans (congrArg some (Galley.recorded_id ..).symm)
  more := (Galley.recorded_ended ..).1.trans composing.more

theorem Leads.breaksLine {rest : List Task} (composing : x.Composing) (running : x.composer.state = .running)
    (todo : x.composer.todo = .test :: rest) (room : x.lines.length + x.tail.length < 32)
    (boxes : x.composer.word.boxes ≠ []) (words : x.composer.line.items ≠ [])
    (long : x.composer.params.available < x.composer.testBase + boxesWidth x.composer.word.boxes)
    (off : x.composer.params.hyphenation = false)
    (leads : Leads s₀ (x.broken (s₀.station.mode == .halted) rest) n Goal) : Leads s₀ x (n + 2) Goal := by
  let d : Composer := { x.composer with todo := rest }
  let c := d.broken x.galley .plain d.word rest
  have effect (u : Hyphenation) (fs : FontStore) (g : Galley) (same : g.uncredited = x.galley.uncredited) :
      d.testWord u fs g = c := by
    rw [Composer.testWord_of_plain (c := d) boxes words long off]
    unfold Composer.broken
    rw [Composer.closeLine_of_uncredited same]
    rfl
  refine .test (composing.steady (by rw [running]; exact nofun)) (composing.next running todo) effect ?_
  have composing' := composing.withComposer (c := c) rfl
  exact Leads.offer (r := x.composer.plainRecord x.galley) (composing'.steady (by exact running ▸ nofun))
    (composing'.next running rfl) rfl room leads

theorem claims_carriedWordThenLineEnds : Claims.CarriedWordThenLineEnds := by
  rintro para g s c taking works rfl text boxes room film long off short
  obtain ⟨g', works', held, galley', more, running, -⟩ := State.workingGalley_of_taking taking
  obtain rfl := Option.some.inj (works.symm.trans works')
  have wants : g.consumedOne.mode.wantsFilm = true := by
    rw [g.consumedOne_kept]
    rcases film with mode | mode <;> simp [mode, GalleyMode.wantsFilm]
  let halted := s.station.mode == .halted
  let x := s.unitScene g [.test, .close para, .ask]
  let y := x.broken halted [.close para, .ask]
  let d : Composer := { y.composer with todo := [.close para, .ask] }
  let z := y.withComposer d.placed
  let w := z.lineEnded halted para [.ask]
  have composing : x.Composing := State.unitScene_composing galley' more
  have composing' : y.Composing := composing.broken wants halted _
  have composing'' : z.Composing := composing'.withComposer rfl
  have modes : z.galley.mode.wantsFilm = true := by
    rw [← wants]
    exact congrArg GalleyMode.wantsFilm (Galley.recorded_ended ..).2.2
  have text' : s.composer.line.boxes.isEmpty = false := by simpa using text
  have fits : d.Fits := by
    refine .inl ⟨rfl, ?_⟩
    have indent : d.params.effectiveIndent = 0 := by
      have first : d.params.firstLine = (s.composer.params.firstLine && !(!s.composer.line.boxes.isEmpty)) := rfl
      rw [text', Bool.not_false, Bool.not_true, Bool.and_false] at first
      unfold Params.effectiveIndent
      rw [first, if_neg nofun]
    unfold Params.available
    rw [indent]
    exact short
  have few : x.lines.length = s.queue.length := List.length_map ..
  have leads : Leads s x 6 fun u => ∃ st, State.Shows s (w.withComposer { w.composer with state := st, todo := [] }) u := by
    refine .breaksLine composing running rfl (by show x.lines.length + 0 < 32; omega) boxes (boxes_ne_nil_items text) long off ?_
    refine .test (composing'.steady (by exact running ▸ nofun)) (composing'.next running rfl)
      (fun u fs g _ => Composer.testWord_of_fits (c := d) boxes fits) ?_
    exact .endsLine composing'' running rfl (by show x.lines.length + 1 < 32; omega) (.inr ⟨modes, rfl⟩)
  obtain ⟨u, done, ⟨st, shows⟩, follow⟩ := State.work_leads works held leads (by decide)
  obtain ⟨g', held', counters, -⟩ := shows.examine_galley s.exposureNextName
  have composer : (s.consumeUnit.work [.test, .close para, .ask]).composer = { w.composer with state := st, todo := [] } := by
    rw [done, State.examine_composer]
    exact shows.composer
  rw [← done] at held'
  have placed : d.placed.line.boxes = s.composer.word.boxes := d.placed_boxes
  have text'' : d.placed.line.boxes ≠ [] := by rw [placed]; exact boxes
  have text₂ : d.placed.line.boxes.isEmpty = false := by simpa using text''
  have ended : w.composer = _ := d.placed.lineEnded_eq z.galley para [.ask]
  rw [text₂] at ended
  rw [ended] at composer
  have own : w.galley.id = g.id := by
    show (Galley.recorded _ _ (Galley.recorded _ _ g.consumedOne)).id = _
    rw [Galley.recorded_id, Galley.recorded_id, g.consumedOne_kept]
  have own' : z.galley.id = g.id := own ▸ (Galley.recorded_id ..).symm
  obtain ⟨rest, tail, queue, lines, aged⟩ := shows.queue
  replace aged : List.Forall₂ QueueRecord.Aged
      [(x.composer.plainRecord x.galley).fresh, (d.placed.unitRecord z.galley).fresh] tail := aged
  obtain _ | ⟨first, _ | ⟨second, _ | _⟩⟩ := aged
  rename_i q q'
  have line : q.line = x.composer.plainRecord x.galley := by rw [first]; rfl
  have line' : q'.line = d.placed.unitRecord z.galley := by rw [second]; rfl
  have mode : z.galley.mode = .film ∨ z.galley.mode = .both := by
    have same : z.galley.mode = g.mode := (Galley.recorded_ended ..).2.2.trans (by show g.consumedOne.mode = _; rw [g.consumedOne_kept])
    rw [same]
    exact film
  have record := (d.placed.unitRecord_eq z.galley mode)
  rw [text₂] at record
  have fields := line'.trans record
  refine ⟨_, g', q, q', rest, exec_end_of_taking taking, follow, ?_, ?_, ?_, ?_, ?_, ?_, ?_, lines, ?_, ?_, ?_, ?_, ?_, ?_,
    ?_, ?_, ?_, ?_, ?_, ?_⟩
  · rw [composer]
  · rw [composer]
    rfl
  · rw [composer]
    rfl
  · rw [composer]
    show (para || (_ && false)) = para
    rw [Bool.and_false, Bool.or_false]
  · rw [← own]
    exact held'
  · have both : w.galley.counters =
        (g.counters.appended (x.composer.plainRecord x.galley).flags).appended (d.placed.unitRecord z.galley).flags := by
      refine (Galley.recorded_ended ..).2.1.trans (congrArg (fun k : Counters => k.appended _) ?_)
      refine (Galley.recorded_ended ..).2.1.trans (congrArg (fun k : Counters => k.appended _) ?_)
      show g.consumedOne.counters = _
      rw [g.consumedOne_kept]
    rw [counters]
    refine (congrArg Counters.setLines both).trans ?_
    show min (min (g.counters.setLines + 1) 65535 + 1) 65535 = _
    omega
  · rw [done, State.examine_queue]
    exact queue
  · refine (congrArg SetLine.galley line).trans ?_
    show g.consumedOne.id = g.id
    rw [g.consumedOne_kept]
  · exact congrArg SetLine.number line
  · rw [line]
    exact Composer.closeLine_kind text
  · rw [line]
    exact Composer.closeLine_codes ..
  · exact congrArg SetLine.cutAfter line
  · rw [line]
    exact (Composer.closeLine_flags ..).2
  · exact (congrArg SetLine.galley line').trans own'
  · exact congrArg SetLine.number line'
  · exact congrArg SetLine.kind fields
  · rw [line', ← placed]
    exact Composer.closeLine_codes ..
  · exact congrArg SetLine.cutAfter line'
  · have glues : d.placed.line.glues = [] := wordItems_glues s.composer.word.boxes
    refine (congrArg SetLine.setWidth fields).trans ?_
    show ((d.placed.line.natural : Nat) : Int) = _
    unfold LineBuild.natural
    rw [glues, placed]
    rfl

/-! ## A full queue -/

/-- No record may leave: all are attached, and the head waits at the exposure walk. -/
structure State.Blocked (lines : List SetLine) (s : State) : Prop where
  lines : s.queue.map QueueRecord.line = lines
  attached : ∀ q ∈ s.queue, q.attached = true
  head : ∃ q rest, s.queue = q :: rest ∧ q.Unexposed

theorem forall₂_aged_old {qs qs' : List QueueRecord} (aged : List.Forall₂ QueueRecord.Aged qs qs') {q' : QueueRecord}
    (mem : q' ∈ qs') : ∃ q ∈ qs, q.Aged q' := by
  induction aged with
  | nil => exact absurd mem List.not_mem_nil
  | cons first _ ih =>
    obtain rfl | mem := List.mem_cons.mp mem
    · exact ⟨_, List.mem_cons_self, first⟩
    · obtain ⟨q, mem', old⟩ := ih mem
      exact ⟨q, List.mem_cons_of_mem _ mem', old⟩

theorem State.Blocked.of_queue {lines : List SetLine} {t : State} (h : s.Blocked lines) (same : t.queue = s.queue) :
    t.Blocked lines := by
  obtain ⟨here, attached, head⟩ := h
  exact ⟨by rw [same]; exact here, by rw [same]; exact attached, by rw [same]; exact head⟩

theorem State.Blocked.departure {lines : List SetLine} (h : s.Blocked lines) : s.departure = none := by
  obtain ⟨q, rest, queue, un⟩ := h.head
  have spared : s.queue.findIdx? QueueRecord.spent = none :=
    List.findIdx?_eq_none_iff.mpr fun q mem => by simp [QueueRecord.spent, h.attached q mem]
  unfold State.departure
  rw [spared, queue]
  exact if_neg (by rw [un.not_finished]; exact nofun)

theorem State.Blocked.marks {lines : List SetLine} (h : s.Blocked lines) : s.markNotNeeded.Blocked lines := by
  obtain ⟨q, rest, queue, un⟩ := h.head
  have unmarked : markExposure s.queue = s.queue := by
    rw [queue, markExposure_cons, if_pos ⟨un.attached, un.exposed⟩, if_pos un.needs]
  have aged : List.Forall₂ QueueRecord.Aged s.queue s.markNotNeeded.queue := by
    show List.Forall₂ _ _ (markProof (markExposure s.queue))
    rw [unmarked]
    exact markProof_aged _
  refine ⟨(forall₂_aged_lines aged).trans h.lines, fun q' mem => ?_, ?_⟩
  · obtain ⟨q, mem', old⟩ := forall₂_aged_old aged mem
    rw [old]
    exact h.attached q mem'
  · rw [queue] at aged
    obtain ⟨q', rest', old, -, here⟩ := List.forall₂_cons_left_iff.mp aged
    exact ⟨q', rest', here, un.of_proofed old⟩

/-- The scene before a queue that no record may leave. -/
def State.ShowsBlocked (s₀ : State) (x : Scene) (s : State) : Prop :=
  State.Shows s₀ x s ∧ s.Blocked (s₀.queue.map QueueRecord.line)

theorem State.showsBlocked_stable (bare : x.tail = []) : Stable (State.ShowsBlocked s₀ x) where
  marks _ h := ⟨h.1.marks (by rw [bare]; exact fun _ mem => absurd mem List.not_mem_nil), h.2.marks⟩
  leaves _ _ h left := absurd (h.2.departure.symm.trans left) nofun

/-- A task that changes the composer alone, before such a queue. -/
theorem LeadsFrom.composeBlocked {task : Task} {rest : List Task} {c : Composer} (bare : x.tail = []) (next : x.Next task rest)
    (effect : ∀ s g, State.ShowsBlocked s₀ x s → g.uncredited = x.galley.uncredited →
      s.perform g task rest = { s with composer := c })
    (leads : LeadsFrom (State.ShowsBlocked s₀ (x.withComposer c)) n Goal) : LeadsFrom (State.ShowsBlocked s₀ x) (n + 1) Goal := by
  refine .step (State.showsBlocked_stable bare) fun s shows => ?_
  obtain ⟨g, -, same, task⟩ := shows.1.composerTask next
  rw [effect s g shows same] at task
  exact ⟨_, _, task, ⟨shows.1.composing c, shows.2.of_queue rfl⟩, Nat.le_succ _, leads⟩

theorem claims_fullQueueRefuses : Claims.FullQueueRefuses := by
  intro para g s r taking works bare full attached head exposed needs
  obtain ⟨g', works', held, galley', more, running, -⟩ := State.workingGalley_of_taking taking
  obtain rfl := Option.some.inj (works.symm.trans works')
  let x := s.unitScene g [.test, .close para, .ask]
  let d : Composer := { s.composer.wordless with todo := [.close para, .ask] }
  let y := x.withComposer d
  let l := d.unitRecord y.galley
  let e := d.lineEnded y.galley para [.ask]
  have composing : x.Composing := State.unitScene_composing galley' more
  have composing' : y.Composing := composing.withComposer rfl
  obtain ⟨rest, queue⟩ : ∃ rest, s.queue = r :: rest := List.head?_eq_some_iff.mp head
  have blocked : s.Blocked (s.queue.map QueueRecord.line) :=
    ⟨rfl, attached, r, rest, queue, attached r (by rw [queue]; exact List.mem_cons_self), exposed, needs⟩
  have here : State.ShowsBlocked s x (s.consumeUnit.mapComposer fun c => { c with todo := [.test, .close para, .ask] }) :=
    ⟨State.unitScene_shows works held, blocked.of_queue (State.consumeUnit_queue s)⟩
  have leads : LeadsFrom (State.ShowsBlocked s x) 3
      (State.ShowsBlocked s (y.withComposer { e with state := .waitQueue, waiting := some l })) := by
    refine .composeBlocked rfl (composing.next running rfl) (c := d) (fun u g shows _ => ?_) ?_
    · show u.mapComposer (fun _ => Composer.testWord { u.composer with todo := _ } u.hyphenation u.fonts g) = _
      rw [shows.1.composer]
      exact congrArg (fun c => u.mapComposer fun _ => c) (Composer.testWord_of_no_boxes bare)
    refine .composeBlocked rfl (composing'.next running rfl) (c := { e with todo := [.offer l, .ask] }) (fun u g shows same => ?_) ?_
    · have closes : u.perform g (.close para) [.ask] =
          u.mapComposer fun c => if para then Composer.closePara { c with todo := [.ask] } g
            else Composer.closeUnit { c with todo := [.ask] } g := rfl
      rw [closes]
      unfold State.mapComposer
      rw [shows.1.composer]
      dsimp only
      rw [Composer.closePara_of_uncredited same, Composer.closeUnit_of_uncredited same]
      cases para <;> rfl
    obtain ⟨galley, state, -⟩ := d.lineEnded_kept y.galley para [.ask]
    have composing'' := composing'.withComposer (c := { e with todo := [.offer l, .ask] }) galley
    refine .composeBlocked rfl (composing''.next (state.trans running) rfl)
      (c := { e with state := .waitQueue, waiting := some l }) (fun u g shows _ => ?_) ?_
    · have long : ¬u.queue.length < Config.queueCapacity := by
        have same := congrArg List.length shows.2.lines
        rw [List.length_map, List.length_map] at same
        rw [same]
        exact Nat.not_lt.mpr full
      refine (if_neg long).trans ?_
      unfold State.mapComposer
      rw [shows.1.composer]
      cases para <;> rfl
    exact .done (State.showsBlocked_stable rfl) (fun u shows => shows.1.composerTask_eq_none (.inl nofun)) fun u shows => shows
  obtain ⟨u, done, ⟨shows, blocked⟩, -⟩ := State.work_leadsFrom works held here leads (by decide)
  obtain ⟨g', held', counters, -⟩ := shows.examine_galley s.exposureNextName
  have composer : (s.consumeUnit.work [.test, .close para, .ask]).composer = { e with state := .waitQueue, waiting := some l } := by
    rw [done, State.examine_composer]
    exact shows.composer
  rw [← done] at held'
  refine ⟨_, g', l, exec_end_of_taking taking, ?_, ?_, ?_, ?_, ?_, ?_, ?_, ?_, ?_⟩
  · exact congrArg Composer.state composer
  · exact congrArg Composer.waiting composer
  · show g.consumedOne.id = g.id
    rw [g.consumedOne_kept]
  · rfl
  · refine (congrArg Composer.nextLine composer).trans ?_
    cases para <;> rfl
  · refine (congrArg Composer.line composer).trans ?_
    cases para <;> rfl
  · rw [done, State.examine_queue]
    exact blocked.lines
  · rw [show g.id = g.consumedOne.id by rw [g.consumedOne_kept]]
    exact held'
  · rw [counters]
    show g.consumedOne.counters = _
    rw [g.consumedOne_kept]

/-- Settles O26, the composer's tasks followed one by one from the unit taken. -/
theorem lineAndParagraphEnds : Obligations.LineAndParagraphEnds :=
  ⟨claims_lineOrParagraphEnds, claims_closedRecordAppended, claims_wordThenLineEnds, claims_carriedWordThenLineEnds,
    claims_fullQueueRefuses⟩

end Sys2Proof.Machine
end

section
/-! A record that becomes the walk's next record with no film for it (R130). -/

namespace Sys2Proof.Machine

variable {s s₀ t : State} {r : QueueRecord} {g : Galley}

/-- A record without characters that has become the walk's next record, and no film for it (R130). -/
theorem State.examine_withoutFilm {old : Option (GalleyId × Nat)} (next : s.exposureNext = some r) (new : old = none)
    (bare : r.line.fonts = []) (running : s.station.mode = .running) (without : s.transport.withoutFilm = true)
    (held : s.HeldAs r.line.galley g) (active : g.Suspendable) : (s.examine old).SuspendedForFilm r.line.galley := by
  have missing : s.missingFonts r = [] := by
    unfold State.missingFonts
    rw [bare]
    rfl
  have fonts : s.suspendForFonts = s := by
    unfold State.suspendForFonts
    rw [next]
    dsimp only
    rw [missing]
    rfl
  have arrived : s.nextArrived = s.suspend r.line.galley .film := by
    unfold State.nextArrived
    rw [next]
    dsimp only
    rw [missing]
    show s.suspendForFonts.filmCheck = _
    rw [fonts]
    unfold State.filmCheck
    rw [next]
    exact if_pos ⟨running, without⟩
  have busy : s.nextArrived.transport.state ≠ .idle := by
    rw [arrived, State.suspend_transport]
    intro idle
    simp [Transport.withoutFilm, idle] at without
  have untested : s.nextArrived.filmTest = s.nextArrived := by
    unfold State.filmTest
    split
    · rfl
    · exact if_neg fun h => busy h.2.2
  have named : s.exposureNextName ≠ old := by
    unfold State.exposureNextName
    rw [next, new]
    exact nofun
  have suspended := State.suspend_suspendedForFilm held active
  unfold State.examine
  rw [if_neg named]
  dsimp only
  rw [untested, arrived]
  exact suspended

theorem Composer.unitRecord_fonts_of_empty {c : Composer} (film : g.mode = .film ∨ g.mode = .both) (empty : c.line.items = []) :
    (c.unitRecord g).fonts = [] := by
  have runs : (c.unitRecord g).runs = [] := by
    rw [c.unitRecord_eq g film]
    show runsOf (positions _ c.line.items _ []) = []
    rw [empty]
    rfl
  show distinct ((c.unitRecord g).runs.map Run.font) = []
  rw [runs]
  rfl

theorem State.endLine_withoutFilm (without : s.transport.withoutFilm = true) (composing : g.state = .composing)
    (taking : s.taking .endLine = true) (works : s.workingGalley = some g) (bare : s.composer.word.boxes = [])
    (empty : s.composer.line.items = []) (alone : s.queue = []) (film : g.mode = .film ∨ g.mode = .both)
    (running : s.station.mode = .running) :
    ∃ t, exec .endLine s = .next t ∧ t.transport = s.transport ∧ t.SuspendedForFilm g.id := by
  have wants : g.mode.wantsFilm = true := by rcases film with mode | mode <;> rw [mode] <;> rfl
  let c : Composer := { s.composer.wordless with todo := [.close false, .ask] }
  obtain ⟨u, st, done, shows, follow⟩ := State.work_endsLine (c := c) (para := false) taking works rfl rfl rfl
    (fun _ _ _ => Composer.testWord_of_no_boxes bare) (by rw [alone]; decide) (.inr ⟨wants, rfl⟩)
  obtain ⟨rest, tail, queue, lines, aged⟩ := shows.queue
  have none' : rest = [] := by
    have none'' : rest.map QueueRecord.line = [] := by
      replace lines : (rest.map QueueRecord.line).Sublist (s.queue.map QueueRecord.line) := lines
      rw [alone] at lines
      exact List.sublist_nil.mp lines
    exact List.map_eq_nil_iff.mp none''
  replace aged : List.Forall₂ QueueRecord.Aged [(c.unitRecord g.consumedOne).fresh] tail := aged
  obtain _ | ⟨first, _ | _⟩ := aged
  rename_i q
  have line : q.line = c.unitRecord g := by
    rw [first, c.unitRecord_consumedOne]
    rfl
  have un : q.Unexposed := (SetLine.fresh_unexposed (by rw [c.unitRecord_consumedOne, c.unitRecord_eq g film])).of_proofed first
  have next : u.exposureNext = some q := by
    unfold State.exposureNext
    rw [queue, none']
    exact List.find?_cons_of_pos (by simp [un.attached, un.exposed])
  have own : (g.consumedOne.recorded (s.station.mode == .halted) (c.unitRecord g.consumedOne).flags).id = g.id := by
    rw [Galley.recorded_id, g.consumedOne_kept]
  have active : (g.consumedOne.recorded (s.station.mode == .halted) (c.unitRecord g.consumedOne).flags).state = .composing := by
    unfold Galley.recorded
    rw [if_neg (by rw [running]; exact fun h => absurd h.1 nofun), g.consumedOne_kept]
    exact composing
  have galley : q.line.galley = g.id := congrArg SetLine.galley (line.trans (c.unitRecord_eq g film))
  have held := shows.galley
  replace held : u.HeldAs g.id (g.consumedOne.recorded (s.station.mode == .halted) (c.unitRecord g.consumedOne).flags) := by
    rw [← own]
    exact held
  have suspended := State.examine_withoutFilm (old := s.exposureNextName) next
    (by unfold State.exposureNextName State.exposureNext; rw [alone]; rfl)
    (by rw [line]; exact Composer.unitRecord_fonts_of_empty film empty) (by rw [shows.kept.station]; exact running)
    (by rw [shows.kept.transport]; exact without) (by rw [galley]; exact held) (.inl active)
  rw [galley, ← done] at suspended
  refine ⟨_, exec_end_of_taking (para := false) taking, follow.transport_of_busy ?_, suspended⟩
  intro idle
  simp [Transport.withoutFilm, idle] at without

theorem claims_noFilmForTheNextRecord : Claims.NoFilmForTheNextRecord := by
  intro g s without unique composing
  have without' : s.transport.withoutFilm = true := by
    unfold Transport.withoutFilm
    rcases without with state | state | state <;> rw [state] <;> rfl
  refine ⟨fun r h next held heard halted => ?_, fun taking works bare empty alone film running => ?_⟩
  · obtain ⟨t, done, film, suspended⟩ := State.release_withoutFilm without' next held composing heard halted
    exact ⟨t, done, film, GalleyUnit.find_id held ▸ suspended⟩
  · exact State.endLine_withoutFilm without' composing taking works bare empty alone film running

/-- Settles O54, from cassettes put in and out, the film test, and what it leaves of the galleys. -/
theorem cassettes : Obligations.Cassettes :=
  ⟨claims_cassetteInserted, claims_cassetteRemoved, claims_filmTest, claims_filmRestored, claims_noFilmForTheNextRecord⟩

end Sys2Proof.Machine
end

section
/-! The marks of records that need no walk, and the records' leaving (R9, R11, R84, R86, R89). -/

namespace Sys2Proof.Machine

variable {s t : State} {r : QueueRecord} {g : Galley}

/-! ## Marks without an operation -/

/-- A walk past the records that do not need it, up to its next record (R86). -/
def walkMarks (done needs : QueueRecord → Bool) (mark : QueueRecord → QueueRecord) : List QueueRecord → List QueueRecord
  | [] => []
  | r :: rest =>
    if r.attached ∧ done r = false then
      if needs r then r :: rest else mark r :: walkMarks done needs mark rest
    else r :: walkMarks done needs mark rest

theorem markExposure_eq (qs : List QueueRecord) :
    markExposure qs = walkMarks QueueRecord.exposed (fun r => r.line.needsExposure) (fun r => { r with exposed := true }) qs := by
  induction qs with
  | nil => rfl
  | cons r rest ih => rw [walkMarks, ← ih, markExposure_cons]

theorem markProof_eq (qs : List QueueRecord) :
    markProof qs = walkMarks QueueRecord.proofed (fun r => r.line.needsProof) (fun r => { r with proofed := true }) qs := by
  induction qs with
  | nil => rfl
  | cons r rest ih => rw [walkMarks, ← ih, markProof]

section Walk

variable {done needs : QueueRecord → Bool} {mark : QueueRecord → QueueRecord}

/-- What the mark leaves of a record, the walk leaves of the queue. -/
theorem walkMarks_map {α : Type} {f : QueueRecord → α} (keeps : ∀ r, f (mark r) = f r) (qs : List QueueRecord) :
    (walkMarks done needs mark qs).map f = qs.map f := by
  induction qs with
  | nil => rfl
  | cons r rest ih =>
    rw [walkMarks]
    split
    · split
      · rfl
      · rw [List.map_cons, List.map_cons, ih, keeps]
    · rw [List.map_cons, List.map_cons, ih]

/-- The walk passes this record: it has its mark, or does not need it, or is attached to no galley. -/
def QueueRecord.passed (done needs : QueueRecord → Bool) (r : QueueRecord) : Bool := !(r.attached && needs r && !done r)

/-- A record takes the mark where it needs none, and the walk passes all before it. -/
theorem walkMarks_getElem? (qs : List QueueRecord) (i : Nat) :
    (walkMarks done needs mark qs)[i]? = qs[i]?.map fun r =>
      if r.attached = true ∧ done r = false ∧ needs r = false ∧ (qs.take i).all (QueueRecord.passed done needs) = true then mark r
      else r := by
  induction qs generalizing i with
  | nil => rfl
  | cons q rest ih =>
    rw [walkMarks]
    cases i with
    | zero =>
      by_cases waits : q.attached = true ∧ done q = false
      · by_cases needed : needs q = true
        · simp [waits, needed]
        · simp [waits, needed]
      · rw [if_neg waits]
        exact (congrArg some (if_neg fun h => waits ⟨h.1, h.2.1⟩)).symm
    | succ i =>
      by_cases waits : q.attached = true ∧ done q = false
      · by_cases needed : needs q = true
        · simp [waits, needed, QueueRecord.passed]
        · simp [waits, needed, QueueRecord.passed, ih]
      · have passes : q.passed done needs = true := by
          unfold QueueRecord.passed
          cases att : q.attached <;> cases d : done q <;> simp_all
        rw [if_neg waits]
        simp [passes, ih]

end Walk

theorem all_passed_iff {done needs : QueueRecord → Bool} {qs : List QueueRecord} :
    qs.all (QueueRecord.passed done needs) = true ↔ ∀ q ∈ qs, q.attached = true → needs q = true → done q = true := by
  rw [List.all_eq_true]
  refine forall₂_congr fun q _ => ?_
  unfold QueueRecord.passed
  cases q.attached <;> cases needs q <;> cases done q <;> decide

theorem not_passed_of_waits {done needs : QueueRecord → Bool} {qs : List QueueRecord}
    (waits : ∃ q ∈ qs, q.attached = true ∧ needs q = true ∧ done q = false) :
    ¬qs.all (QueueRecord.passed done needs) = true := by
  obtain ⟨q, mem, attached, needed, undone⟩ := waits
  exact fun all => absurd (undone.symm.trans (all_passed_iff.mp all q mem attached needed)) nofun

/-- The exposure walk's mark as a value. -/
theorem markedExposed_eq (r : QueueRecord) (free : Bool) :
    (if r.attached = true ∧ r.exposed = false ∧ r.line.needsExposure = false ∧ free = true then { r with exposed := true } else r) =
      { r with exposed := r.exposed || r.attached && !r.line.needsExposure && free } := by
  split
  · rename_i marks
    simp [marks]
  · rename_i stays
    have same : (r.exposed || r.attached && !r.line.needsExposure && free) = r.exposed := by
      cases done : r.exposed with
      | true => rfl
      | false => simp_all
    rw [same]

/-- The proof walk's. -/
theorem markedProofed_eq (r : QueueRecord) (free : Bool) :
    (if r.attached = true ∧ r.proofed = false ∧ r.line.needsProof = false ∧ free = true then { r with proofed := true } else r) =
      { r with proofed := r.proofed || r.attached && !r.line.needsProof && free } := by
  split
  · rename_i marks
    simp [marks]
  · rename_i stays
    have same : (r.proofed || r.attached && !r.line.needsProof && free) = r.proofed := by
      cases done : r.proofed with
      | true => rfl
      | false => simp_all
    rw [same]

/-- The marks that a record takes without an operation (R86). -/
theorem State.markNotNeeded_getElem? {before behind : List QueueRecord} (queue : s.queue = before ++ r :: behind) :
    s.markNotNeeded.queue[before.length]? = some
      { r with
        exposed := r.exposed ||
          r.attached && !r.line.needsExposure && before.all (QueueRecord.passed QueueRecord.exposed (fun r => r.line.needsExposure))
        proofed := r.proofed ||
          r.attached && !r.line.needsProof && before.all (QueueRecord.passed QueueRecord.proofed (fun r => r.line.needsProof)) } := by
  let unexposed (r : QueueRecord) : QueueRecord := { r with exposed := false }
  have same : (markExposure s.queue).map unexposed = s.queue.map unexposed := by
    rw [markExposure_eq]
    exact walkMarks_map (by exact fun _ => rfl) _
  have passes : ((markExposure s.queue).take before.length).all (QueueRecord.passed QueueRecord.proofed fun r => r.line.needsProof) =
      before.all (QueueRecord.passed QueueRecord.proofed fun r => r.line.needsProof) := by
    have through (qs : List QueueRecord) : qs.all (QueueRecord.passed QueueRecord.proofed fun r => r.line.needsProof) =
        (qs.map unexposed).all (QueueRecord.passed QueueRecord.proofed fun r => r.line.needsProof) := by
      rw [List.all_map]
      rfl
    rw [through, List.map_take, same, ← List.map_take, ← through, queue, List.take_left]
  show (markProof (markExposure s.queue))[before.length]? = _
  rw [markProof_eq, walkMarks_getElem?, passes, markExposure_eq, walkMarks_getElem?, queue,
    List.take_left, List.getElem?_append_right (le_refl _), Nat.sub_self]
  refine congrArg some ?_
  dsimp only
  refine (markedProofed_eq _ _).trans ?_
  rw [markedExposed_eq]

theorem claims_notNeededMarks : Claims.NotNeededMarks := by
  intro s
  refine ⟨rfl, ?_, fun before behind r queue => ⟨_, State.markNotNeeded_getElem? queue, ?_, ?_, ?_, ?_⟩⟩
  · show (markProof (markExposure s.queue)).map _ = _
    rw [markProof_eq, walkMarks_map (by exact fun _ => rfl), markExposure_eq, walkMarks_map (by exact fun _ => rfl)]
  · intro attached free passed
    simp [attached, free, all_passed_iff.mpr passed]
  · intro attached free passed
    simp [attached, free, all_passed_iff.mpr passed]
  · rintro (free | needed | waits)
    · simp [free]
    · simp [needed]
    · simp [Bool.eq_false_iff.mpr (not_passed_of_waits waits)]
  · rintro (free | needed | waits)
    · simp [free]
    · simp [needed]
    · simp [Bool.eq_false_iff.mpr (not_passed_of_waits waits)]

/-! ## The head leaves -/

theorem State.departure_of_attached {rest : List QueueRecord} (queue : s.queue = r :: rest)
    (attached : ∀ q ∈ s.queue, q.attached = true) :
    s.departure =
      if r.exposed && r.proofed then
        some (State.checkDone (State.takeWaiting (State.recount { s with queue := rest })) r.line.galley)
      else none := by
  have spared : s.queue.findIdx? QueueRecord.spent = none :=
    List.findIdx?_eq_none_iff.mpr fun q mem => by simp [QueueRecord.spent, attached q mem]
  have finished : r.finished = (r.exposed && r.proofed) := by
    unfold QueueRecord.finished
    rw [attached r (by rw [queue]; exact List.mem_cons_self), Bool.true_and]
  unfold State.departure
  rw [spared, queue]
  dsimp only
  rw [finished]

/-- The composer behind a DONE check: as it was, or at rest. -/
theorem State.checkDone_composer (s : State) (id : GalleyId) :
    (s.checkDone id).composer = s.composer ∨ (s.checkDone id).composer = Composer.rest := by
  unfold State.checkDone
  split
  · exact .inl rfl
  split
  · exact .inl rfl
  split
  · rw [State.finishGalley_composer]
    unfold State.freeComposer
    split
    · exact .inr rfl
    · exact .inl rfl
  · exact .inl rfl

/-- The record that waits with the composer takes the place that has come free (R84). -/
theorem State.departure_takesWaiting {l : SetLine} {rest : List QueueRecord} (waits : s.composer.state = .waitQueue)
    (waiting : s.composer.waiting = some l) (room : rest.length < 32) :
    (State.takeWaiting (State.recount { s with queue := rest })).composer =
        { s.composer with state := .running, waiting := none } ∧
      (State.takeWaiting (State.recount { s with queue := rest })).queue = rest ++ [l.fresh] := by
  let u : State := State.recount { s with queue := rest }
  have taken : u.takeWaiting =
      State.recount ((u.appendRecord l).mapComposer fun c => { c with state := .running, waiting := none }) := by
    unfold State.takeWaiting
    rw [show u.composer.waiting = some l from waiting]
    exact if_pos ⟨waits, room⟩
  rw [taken]
  refine ⟨?_, State.appendRecord_queue u l⟩
  show { (u.appendRecord l).composer with state := .running, waiting := none } = _
  rw [State.appendRecord_composer]
  rfl

/-- The DONE check for a galley that the composer is not on (R9, R89). -/
theorem State.checkDone_of_elsewhere {id : GalleyId} (held : s.galleys.find id = some g) (live : g.cancelPending = false)
    (elsewhere : s.composer.galley ≠ some id) :
    s.checkDone id =
      if s.hasRecords id = true then s
      else if g.state = .draining ∨ g.state = .suspended ∧ g.compositionEnded = true then s.finishGalley id
      else s := by
  have lines : s.hasLines id = s.hasRecords id := by
    have other : s.stillComposing id = false := by
      unfold State.stillComposing
      rw [beq_eq_false_iff_ne.mpr elsewhere, Bool.false_and]
    unfold State.hasLines
    rw [other, Bool.or_false]
  have free : s.freeComposer id = s := if_neg elsewhere
  unfold State.checkDone
  rw [held]
  dsimp only
  rw [lines, live, free]
  simp only [Bool.false_eq_true, or_false]

theorem State.finishGalley_reports {id : GalleyId} (held : s.galleys.find id = some g) (takesPart : s.station.takesPart = true)
    (addressable : id.poster < 32) (few : s.line.count ≤ 4) (galleys : s.galleys.table.length ≤ 4) :
    (s.finishGalley id).line.ReportWaits id 4 0 g.counters := by
  have waiting := State.lineReported_waits takesPart (show s.line.count < 16 by omega) id 4 0 g.counters
  have count := State.lineReported_count takesPart (show s.line.count < 16 by omega) id 4 0 g.counters
  have fewer := List.length_filter_le (fun g : Galley => g.id ≠ id) s.galleys.table
  rw [State.finishGalley_eq held addressable]
  refine waiting.grown (State.evaluateCredit_growsBy (s := { s with
    galleys := { s.galleys with table := s.galleys.table.filter fun g => g.id ≠ id }
    line := s.lineReported id 4 0 g.counters }) ?_)
  dsimp only [Config.transmitCapacity]
  omega

theorem claims_recordsLeave : Claims.RecordsLeave := by
  intro s r rest queue attached
  have left := State.departure_of_attached queue attached
  refine ⟨fun unmarked => ?_, fun exposed proofed => ?_⟩
  · rw [left, unmarked]
    rfl
  rw [exposed, proofed] at left
  refine ⟨_, left, fun l waits waiting room => ?_, fun waiting => ?_⟩
  · obtain ⟨composer, queue'⟩ := State.departure_takesWaiting (s := s) waits waiting room
    refine ⟨?_, ?_, by rw [State.checkDone_queue]; exact queue'⟩
    · obtain same | rests := State.checkDone_composer (State.takeWaiting (State.recount { s with queue := rest })) r.line.galley
      · rw [same, composer]
      · rw [rests]
        rfl
    · obtain same | rests := State.checkDone_composer (State.takeWaiting (State.recount { s with queue := rest })) r.line.galley
      · rw [same, composer]
        exact .inl rfl
      · rw [rests]
        exact .inr rfl
  let u : State := State.recount { s with queue := rest }
  have untaken : u.takeWaiting = u := by
    unfold State.takeWaiting
    rw [show u.composer.waiting = none from waiting]
  rw [show State.takeWaiting (State.recount { s with queue := rest }) = u from untaken]
  refine ⟨by rw [State.checkDone_queue]; rfl, fun g held live elsewhere => ⟨fun ended gone => ?_, fun stays => ?_⟩⟩
  · rw [State.checkDone_of_elsewhere (s := u) held live elsewhere]
    have none' : u.hasRecords r.line.galley = false :=
      List.any_eq_false.mpr fun q mem => by simp [gone q mem]
    rw [none', if_neg nofun, if_pos ended]
    exact ⟨State.removeGalley_find .., fun takesPart addressable few galleys =>
      State.finishGalley_reports (s := u) held takesPart addressable few galleys⟩
  · rw [State.checkDone_of_elsewhere (s := u) held live elsewhere]
    obtain ⟨q, mem, own⟩ | ⟨undrained, more⟩ := stays
    · have some' : u.hasRecords r.line.galley = true :=
        List.any_eq_true.mpr ⟨q, mem, by simp [attached q (by rw [queue]; exact List.mem_cons_of_mem _ mem), own]⟩
      rw [if_pos some']
      exact held
    · rw [if_neg (fun ended : g.state = .draining ∨ g.state = .suspended ∧ g.compositionEnded = true =>
        ended.elim undrained more)]
      split
      · exact held
      · exact held

end Sys2Proof.Machine
end

section
/-! END GALLEY taken: the galley's composition stays ended (R9, R11, R16, R41). -/

namespace Sys2Proof.Machine

variable {s t u : State} {id : GalleyId} {g : Galley}

/-- The galley, if it is held, was held before, and its composition has ended if it had. -/
structure State.Ripens (id : GalleyId) (s t : State) : Prop where
  find : ∀ g', t.galleys.find id = some g' →
    ∃ g, s.galleys.find id = some g ∧ (g.compositionEnded = true → g'.compositionEnded = true)

theorem State.Ripens.of_same (same : t.galleys.find id = s.galleys.find id) : State.Ripens id s t :=
  ⟨fun g' held => ⟨g', same.symm.trans held, fun ended => ended⟩⟩

theorem State.Ripens.refl (s : State) : State.Ripens id s s := .of_same rfl

theorem State.Ripens.trans (h : State.Ripens id s t) (k : State.Ripens id t u) : State.Ripens id s u := by
  refine ⟨fun g'' held => ?_⟩
  obtain ⟨g', held', ripe'⟩ := k.find g'' held
  obtain ⟨g, held, ripe⟩ := h.find g' held'
  exact ⟨g, held, fun ended => ripe' (ripe ended)⟩

theorem State.Ripens.update (s : State) (i : GalleyId) {f : Galley → Galley} (keeps : ∀ g, (f g).id = g.id)
    (ripe : ∀ g, g.compositionEnded = true → (f g).compositionEnded = true) :
    State.Ripens id s (s.mapGalleys fun gu => gu.update i f) := by
  refine ⟨fun g' held => ?_⟩
  obtain ⟨g, held', rfl⟩ := Option.map_eq_some_iff.mp ((GalleyUnit.find_update keeps id).symm.trans held)
  refine ⟨g, held', fun ended => ?_⟩
  split
  · exact ripe g ended
  · exact ended

theorem State.Ripens.evaluateCredit (s : State) : State.Ripens id s s.evaluateCredit := by
  refine ⟨fun g' held => ?_⟩
  cases held' : s.galleys.find id with
  | none => exact absurd ((State.Carried.evaluateCredit s).find_none held' ▸ held) nofun
  | some g =>
    obtain ⟨g'', held'', same⟩ := s.evaluateCredit_find held'
    obtain rfl := Option.some.inj (held.symm.trans held'')
    have ended : g'.compositionEnded = g.compositionEnded := congrArg (fun g => g.compositionEnded) same
    exact ⟨g, rfl, fun h => ended.trans h⟩

theorem State.Ripens.report (s : State) (i : GalleyId) (event : ReportEvent) (reason : Nat) :
    State.Ripens id s (s.report i event reason) := .of_same (by rw [State.report_galleys])

theorem State.Ripens.finishGalley (s : State) (i : GalleyId) : State.Ripens id s (s.finishGalley i) := by
  refine (State.Ripens.report s i .done 0).trans ?_
  refine ⟨fun g' held => ?_⟩
  by_cases own : i = id
  · subst own
    exact absurd ((State.removeGalley_find _ i).symm.trans held) nofun
  · exact (State.Ripens.trans
      (t := (s.report i .done 0).mapGalleys fun gu => { gu with table := gu.table.filter fun g => g.id ≠ i })
      (.of_same (GalleyUnit.find_filter_of_ne _ own)) (.evaluateCredit _)).find g' held

theorem State.Ripens.enterDraining (s : State) (i : GalleyId) : State.Ripens id s (s.enterDraining i) := by
  have drained := (State.Ripens.update s i (id := id) (f := fun g =>
    { g with
      state := .draining, suspension := none, compositionEnded := true, segments := [], unitsRead := 0, granted := none })
    (fun _ => rfl) fun _ _ => rfl).trans (.evaluateCredit _)
  unfold State.enterDraining
  dsimp only
  split
  · exact drained
  · exact drained.trans (.finishGalley ..)

theorem State.Ripens.checkDone (s : State) (i : GalleyId) : State.Ripens id s (s.checkDone i) := by
  have freed : State.Ripens id s (s.freeComposer i) := by
    unfold State.freeComposer
    split
    · exact .of_same rfl
    · exact .refl s
  unfold State.checkDone
  split
  · exact .refl s
  split
  · exact .refl s
  split
  · exact freed.trans (.finishGalley ..)
  · exact .refl s

theorem State.Ripens.suspend (s : State) (i : GalleyId) (why : Suspension) : State.Ripens id s (s.suspend i why) := by
  have suspended := State.Ripens.update s i (id := id) (f := Galley.suspendedFor why) (fun _ => rfl) fun _ ended => ended
  unfold State.suspend
  split
  · exact .refl s
  split
  · dsimp only
    split
    · exact suspended
    · exact suspended.trans (.report ..)
  · exact .refl s

theorem State.Ripens.appendRecord (s : State) (r : SetLine) : State.Ripens id s (s.appendRecord r) := by
  have counted := State.Ripens.update s r.galley (id := id)
    (f := fun g => { g with counters := g.counters.appended r.flags }) (fun _ => rfl) fun _ ended => ended
  have added : State.Ripens id s
      { s with
        queue := s.queue ++ [r.fresh]
        galleys := s.galleys.update r.galley fun g => { g with counters := g.counters.appended r.flags }
        fonts := s.fonts.stampUse r.fonts } := counted.trans (.of_same rfl)
  unfold State.appendRecord
  dsimp only
  split
  · exact added.trans (.suspend ..)
  · exact added

theorem State.Ripens.takeWaiting (s : State) : State.Ripens id s s.takeWaiting := by
  unfold State.takeWaiting
  split
  · split
    · exact (State.Ripens.appendRecord s _).trans (.of_same rfl)
    · exact .refl s
  · exact .refl s

theorem State.Ripens.departure (left : s.departure = some t) : State.Ripens id s t := by
  obtain ⟨q, -, -, cases⟩ := State.departure_cases left
  have leaves : State.Ripens id s (State.takeWaiting (State.recount { s with queue := q })) :=
    State.Ripens.trans (t := State.recount { s with queue := q }) (.of_same rfl) (.takeWaiting _)
  obtain rfl | ⟨i, rfl⟩ := cases
  · exact leaves
  · exact leaves.trans (.checkDone ..)

theorem State.Ripens.finishComposition (s : State) (i : GalleyId) : State.Ripens id s (s.finishComposition i) := by
  have released : State.Ripens id s s.releaseComposer := .of_same rfl
  unfold State.finishComposition
  dsimp only
  split
  · exact released
  split
  · exact released.trans ((State.Ripens.update _ i (f := fun g => { g with compositionEnded := true }) (fun _ => rfl)
      fun _ _ => rfl).trans (.evaluateCredit _))
  · exact released.trans (.enterDraining ..)

theorem State.Ripens.askNext (s : State) : State.Ripens id s s.askNext := by
  unfold State.askNext
  split
  · exact .refl s
  split
  · exact State.Ripens.trans
      (t := { s with
        composer := { s.composer with state := .waitText }
        galleys := { s.galleys with textTimer := some Config.textTimer } })
      (.of_same rfl) (.evaluateCredit _)
  · exact .refl s

theorem State.Ripens.perform (s : State) (g : Galley) (task : Task) (rest : List Task) :
    State.Ripens id s (s.perform g task rest) := by
  have taken : State.Ripens id s (s.mapComposer fun c => { c with todo := rest }) := .of_same rfl
  unfold State.perform
  dsimp only
  cases task with
  | offer r =>
    dsimp only
    split
    · exact taken.trans (.appendRecord ..)
    · exact .of_same rfl
  | finish => exact taken.trans (.finishComposition ..)
  | ask => exact taken.trans (.askNext _)
  | test | space | begin | close | closeLast | closeCut => exact .of_same rfl

theorem State.Ripens.settle (s : State) : State.Ripens id s s.settle := by
  have step {s t : State} (done : s.settleStep = some t) : State.Ripens id s t := by
    have marked : State.Ripens id s s.markNotNeeded := .of_same rfl
    unfold State.settleStep at done
    dsimp only at done
    split at done
    · rename_i left
      cases done
      exact marked.trans (.departure left)
    · obtain ⟨g, task, rest, -, -, rfl⟩ := State.composerTask_cases done
      exact marked.trans ((State.Ripens.perform _ g task rest).trans (.of_same rfl))
  have settles (fuel : Nat) (s : State) : State.Ripens id s (State.settleFor fuel s) := by
    induction fuel generalizing s with
    | zero => exact .of_same rfl
    | succ fuel ih =>
      unfold State.settleFor
      split
      · exact (step ‹_›).trans (ih _)
      · exact .of_same rfl
  exact settles _ s

theorem State.Ripens.examine (s : State) (old : Option (GalleyId × Nat)) : State.Ripens id s (s.examine old) := by
  refine ⟨fun g' held => ?_⟩
  obtain same | ⟨g, why, held', -, -, suspended⟩ := (s.examine_examined old).records id
  · exact ⟨g', same.symm.trans held, fun ended => ended⟩
  · obtain rfl := Option.some.inj (held.symm.trans suspended)
    exact ⟨g, held', fun ended => ended⟩

theorem State.Ripens.event (s : State) (f : State → State) : State.Ripens id (f s) (s.event f) :=
  (State.Ripens.settle _).trans (.examine ..)

theorem State.Ripens.consumeUnit (s : State) : State.Ripens id s s.consumeUnit := by
  unfold State.consumeUnit
  split
  · exact .refl s
  split
  · exact .refl s
  split
  · exact .update s _ (by exact fun _ => rfl) (by exact fun _ ended => ended)
  · exact (State.Ripens.update s _ (by exact fun _ => rfl) (by exact fun _ ended => ended)).trans (.evaluateCredit _)

/-! ## END GALLEY -/

/-- The galley with its composition ended. -/
def Galley.ended (g : Galley) : Galley := { g with compositionEnded := true }

/-- The state in which END GALLEY's unit is consumed. -/
def State.textEnded (s : State) (id : GalleyId) : State := s.mapGalleys fun gu => gu.update id Galley.ended

theorem exec_endGalley_of_taking (taking : s.taking .endGalley = true) (works : s.workingGalley = some g) :
    exec .endGalley s = .next ((s.textEnded g.id).consumeUnit.work [.test, .closeLast, .closeCut, .finish]) := by
  show execEndGalley s = _
  unfold execEndGalley
  rw [works]
  exact congrArg Host.Outcome.next (if_pos taking)

theorem claims_endGalleyTaken : Claims.EndGalleyTaken := by
  intro g s taking works
  refine ⟨_, exec_endGalley_of_taking taking works, ?_, fun g' held => ?_⟩
  · have kept : State.MachineryKept s (s.textEnded g.id) :=
      State.updateGalley_kept s g.id Galley.ended fun _ => rfl
    exact .of_kept ((kept.trans (State.consumeUnit_kept _)).trans
      (State.mapComposer_kept _ fun c => { c with todo := [.test, .closeLast, .closeCut, .finish] }))
      (State.event_followUp _ fun s => s.mapComposer fun c => { c with todo := [.test, .closeLast, .closeCut, .finish] })
  · have ripens : State.Ripens g.id (s.textEnded g.id)
        ((s.textEnded g.id).consumeUnit.work [.test, .closeLast, .closeCut, .finish]) :=
      (State.Ripens.consumeUnit _).trans (State.Ripens.trans
        (t := (s.textEnded g.id).consumeUnit.mapComposer fun c => { c with todo := [.test, .closeLast, .closeCut, .finish] })
        (.of_same rfl) (State.Ripens.event _ fun s => s.mapComposer fun c => { c with todo := [.test, .closeLast, .closeCut, .finish] }))
    obtain ⟨g₁, held₁, ripe⟩ := ripens.find g' held
    obtain ⟨g₂, held₂, rfl⟩ := Option.map_eq_some_iff.mp ((GalleyUnit.find_update (by exact fun _ => rfl) _).symm.trans held₁)
    rw [if_pos (GalleyUnit.find_id held₂)] at ripe
    exact ripe rfl

end Sys2Proof.Machine
end

section
/-! END GALLEY on an empty line (R9, R11, R41). -/

namespace Sys2Proof.Machine

variable {s s₀ t u : State} {id : GalleyId} {g : Galley} {x : Scene} {S D : State → Prop} {n : Nat} {Goal : State → Prop}

/-! ## The composition finished -/

/-- The galley whose composition is finished (R9, R11). -/
def Galley.composed (g : Galley) : Galley :=
  if g.state = .suspended then { g with compositionEnded := true }
  else
    { g with
      state := .draining, suspension := none, compositionEnded := true, segments := [], unitsRead := 0, granted := none }

theorem Galley.composed_spec (g : Galley) :
    g.composed.id = g.id ∧ g.composed.compositionEnded = true ∧ (g.composed.state = .draining ∨ g.composed.state = .suspended) ∧
      g.composed.counters = g.counters := by
  unfold Galley.composed
  split
  · exact ⟨rfl, rfl, .inr ‹_›, rfl⟩
  · exact ⟨rfl, rfl, .inl rfl, rfl⟩

theorem Galley.composed_uncredited {g g' : Galley} (same : g'.uncredited = g.uncredited) :
    g'.composed.uncredited = g.composed.uncredited := by
  have state : g'.state = g.state := congrArg (fun g => g.state) same
  have through (g : Galley) : g.composed.uncredited = g.uncredited.composed.uncredited := by
    unfold Galley.composed
    show _ = Galley.uncredited (if g.state = .suspended then _ else _)
    split <;> rfl
  rw [through, same, ← through]

theorem State.finishGalley_textTimer (s : State) (id : GalleyId) :
    (s.finishGalley id).galleys.textTimer = s.galleys.textTimer :=
  (State.evaluateCredit_uncredited _).2.trans (by
    show (s.report id .done 0).galleys.textTimer = _
    rw [State.report_galleys])

/-- What the end of the composition leaves (R9, R11, R41). -/
structure State.CompositionFinished (s : State) (id : GalleyId) (g : Galley) (t : State) : Prop where
  composer : t.composer = Composer.rest
  textTimer : t.galleys.textTimer = none
  queue : t.queue = s.queue
  fonts : s.fonts.Alike t.fonts
  galley : t.HeldAs id g.composed ∨ s.hasRecords id = false ∧ t.galleys.find id = none

theorem State.finishComposition_finished (held : s.galleys.find id = some g) :
    s.CompositionFinished id g (s.finishComposition id) := by
  let r := s.releaseComposer
  have fonts : s.fonts.Alike r.fonts := FontStore.recount_alike ..
  have held' : r.galleys.find id = some g := held
  have finished : s.finishComposition id =
      if g.state = .suspended then
        State.evaluateCredit (r.mapGalleys fun gu => gu.update id fun g => { g with compositionEnded := true })
      else r.enterDraining id := by
    unfold State.finishComposition
    dsimp only
    rw [show s.releaseComposer.galleys.find id = some g from held']
  rw [finished]
  split
  · rename_i suspended
    have composed : g.composed = { g with compositionEnded := true } := if_pos suspended
    refine ⟨rfl, (State.evaluateCredit_uncredited _).2, rfl, fonts, .inl (.evaluateCredit (.of_find ?_))⟩
    rw [composed]
    exact State.find_update_self (s := r) (by exact fun _ => rfl) held'
  · rename_i active
    let drained : State := State.evaluateCredit (r.mapGalleys fun gu => gu.update id fun g =>
      { g with
        state := .draining, suspension := none, compositionEnded := true, segments := [], unitsRead := 0,
        granted := none })
    have composed : g.composed = _ := if_neg active
    have here : drained.HeldAs id g.composed := by
      refine .evaluateCredit (.of_find ?_)
      rw [composed]
      exact State.find_update_self (s := r) (by exact fun _ => rfl) held'
    have timer : drained.galleys.textTimer = none := (State.evaluateCredit_uncredited _).2
    have lines : drained.hasLines id = s.hasRecords id := by
      show (s.hasRecords id || _) = _
      exact Bool.or_false _
    have drains : r.enterDraining id = if drained.hasLines id then drained else drained.finishGalley id := rfl
    rw [drains, lines]
    split
    · exact ⟨rfl, timer, rfl, fonts, .inl here⟩
    · rename_i none'
      refine ⟨State.finishGalley_composer .., (State.finishGalley_textTimer ..).trans timer, State.finishGalley_queue ..,
        ?_, .inr ⟨Bool.eq_false_iff.mpr none', State.removeGalley_find ..⟩⟩
      rw [State.finishGalley_fonts]
      exact fonts

/-! ## A queue that nothing leaves -/

/-- No mark is to be made in the queue, and no record is to leave. -/
def State.Resting (s : State) : Prop := s.markNotNeeded = s ∧ s.departure.isNone = true

/-- The queue is as it was, if it was at rest. -/
def State.QueueRests (s₀ s : State) : Prop := s₀.Resting → s.queue = s₀.queue

theorem State.departure_isNone_of_queue (same : t.queue = s.queue) : t.departure.isNone = s.departure.isNone := by
  unfold State.departure
  rw [same]
  split
  · rfl
  split
  · split <;> rfl
  · rfl

theorem State.QueueRests.marks (h : State.QueueRests s₀ s) : State.QueueRests s₀ s.markNotNeeded := by
  intro rests
  show markProof (markExposure s.queue) = _
  rw [h rests]
  exact congrArg State.queue rests.1

/-- Where a record leaves, the queue was not at rest. -/
theorem State.QueueRests.leaves (h : State.QueueRests s₀ s) (left : s.departure = some t) (u : State) :
    State.QueueRests s₀ u := by
  intro rests
  have none' := State.departure_isNone_of_queue (h rests)
  rw [left, rests.2] at none'
  exact absurd none' nofun

theorem State.QueueRests.of_queue (h : State.QueueRests s₀ s) (same : t.queue = s.queue) : State.QueueRests s₀ t :=
  fun rests => same.trans (h rests)

/-! ## The composer away from its galley -/

/-- The composer is at rest, and the galley, while it is held, has its composition ended, with these counters. -/
structure State.Away (s₀ : State) (id : GalleyId) (counted : Counters) (s : State) : Prop where
  kept : State.MachineryKept s₀ s
  composer : s.composer = Composer.rest
  textTimer : s.galleys.textTimer = none
  lines : (s.queue.map QueueRecord.line).Sublist (s₀.queue.map QueueRecord.line)
  rests : State.QueueRests s₀ s
  galley : ∀ g', s.galleys.find id = some g' →
    g'.compositionEnded = true ∧ (g'.state = .draining ∨ g'.state = .suspended) ∧ g'.counters = counted

theorem shrinks_lines {qs qs' : List QueueRecord} (h : Shrinks qs qs') :
    (qs'.map QueueRecord.line).Sublist (qs.map QueueRecord.line) := by
  obtain ⟨rest, tail, rfl, lines, aged⟩ := h qs [] (List.append_nil _).symm fun _ mem => absurd mem List.not_mem_nil
  cases aged
  rwa [List.append_nil]

/-- What a departure is where the composer does not wait for a place in the queue. -/
theorem State.departure_of_going (left : s.departure = some t) (going : s.composer.state ≠ .waitQueue) :
    ∃ q i, q.length + 1 = s.queue.length ∧ Shrinks s.queue q ∧
      (t = State.recount { s with queue := q } ∨
        t = ((State.recount { s with queue := q }).freeComposer i).finishGalley i) := by
  obtain ⟨q, length, shrinks, -, cases⟩ := State.departure_shrinks left
  let v : State := State.recount { s with queue := q }
  have waits : v.takeWaiting = v := by
    unfold State.takeWaiting
    split
    · exact if_neg fun full => going full.1
    · rfl
  rw [show State.takeWaiting (State.recount { s with queue := q }) = v from waits] at cases
  obtain rfl | ⟨i, rfl⟩ := cases
  · exact ⟨q, ⟨0, 0⟩, length, shrinks, .inl rfl⟩
  refine ⟨q, i, length, shrinks, ?_⟩
  unfold State.checkDone
  split
  · exact .inl rfl
  split
  · exact .inl rfl
  split
  · exact .inr rfl
  · exact .inl rfl

/-- Behind the end of a galley another that is held was held before. -/
theorem State.finishGalley_found {i : GalleyId} {g' : Galley} (found : (s.finishGalley i).galleys.find id = some g') :
    ∃ g, s.galleys.find id = some g ∧ g'.uncredited = g.uncredited := by
  cases held : s.galleys.find id with
  | none => exact absurd ((State.Carried.finishGalley s i).find_none held ▸ found) nofun
  | some g =>
    by_cases own : i = id
    · subst own
      exact absurd ((State.removeGalley_find _ i).symm.trans found) nofun
    · obtain ⟨g'', held'', same⟩ := State.HeldAs.finishGalley (.of_find held) own
      obtain rfl := Option.some.inj (found.symm.trans held'')
      exact ⟨g, rfl, same⟩

theorem State.Away.finishGalley (h : State.Away s₀ id g.counters s) (i : GalleyId) :
    State.Away s₀ id g.counters (s.finishGalley i) where
  kept := h.kept.trans (State.finishGalley_kept s i)
  composer := (State.finishGalley_composer s i).trans h.composer
  textTimer := (State.finishGalley_textTimer s i).trans h.textTimer
  lines := by
    rw [State.finishGalley_queue]
    exact h.lines
  rests := h.rests.of_queue (State.finishGalley_queue s i)
  galley g' found := by
    obtain ⟨g₁, held, same⟩ := State.finishGalley_found found
    obtain ⟨ended, state, counters⟩ := h.galley g₁ held
    have ended' : g'.compositionEnded = g₁.compositionEnded := congrArg (fun g => g.compositionEnded) same
    have state' : g'.state = g₁.state := congrArg (fun g => g.state) same
    have counters' : g'.counters = g₁.counters := congrArg (fun g => g.counters) same
    rw [ended', state', counters']
    exact ⟨ended, state, counters⟩

theorem State.Away.stable (s₀ : State) (id : GalleyId) (g : Galley) : Stable (State.Away s₀ id g.counters) where
  marks s h :=
    { kept := h.kept.trans s.markNotNeeded_kept
      composer := h.composer
      textTimer := h.textTimer
      lines := (shrinks_lines (markNotNeeded_shrinks s)).trans h.lines
      rests := h.rests.marks
      galley := h.galley }
  leaves s t h left := by
    obtain ⟨q, i, length, shrinks, cases⟩ := State.departure_of_going left (by rw [h.composer]; exact nofun)
    let v : State := State.recount { s with queue := q }
    have gone : State.Away s₀ id g.counters v :=
      { kept := h.kept.trans ((s.queue_kept q).trans (State.recount_kept _))
        composer := h.composer
        textTimer := h.textTimer
        lines := (shrinks_lines shrinks).trans h.lines
        rests := h.rests.leaves left v
        galley := h.galley }
    have short : q.length < s.queue.length := by omega
    obtain rfl | rfl := cases
    · exact ⟨gone, short⟩
    · have free : v.freeComposer i = v := if_neg (by rw [gone.composer]; exact nofun)
      rw [free, State.finishGalley_queue]
      exact ⟨gone.finishGalley i, short⟩

theorem Leads.away (goal : ∀ s, State.Away s₀ id g.counters s → Goal s) : LeadsFrom (State.Away s₀ id g.counters) 0 Goal := by
  refine .done (State.Away.stable s₀ id g) (fun s h => ?_) goal
  unfold State.composerTask
  rw [h.composer]
  rfl

/-! ## The tasks of END GALLEY on an empty line -/

/-- A task from states that departures may also lead into the second set, where nothing is left to do. -/
theorem LeadsFrom.stepOr (marks : ∀ s, S s → S s.markNotNeeded)
    (leaves : ∀ s t, S s → s.departure = some t → (S t ∨ D t) ∧ t.queue.length < s.queue.length)
    (away : LeadsFrom D 0 Goal)
    (step : ∀ s, S s → ∃ (t : State) (T : State → Prop), s.composerTask = some t ∧ T t ∧
      t.queue.length ≤ s.queue.length + 1 ∧ LeadsFrom T n Goal) : LeadsFrom S (n + 1) Goal := by
  intro fuel
  induction fuel with
  | zero => exact fun s _ none' => absurd none' (by omega)
  | succ fuel ih =>
    intro s here short
    have marked := marks s here
    have length := s.markNotNeeded_length
    unfold State.settleFor
    cases left : s.markNotNeeded.departure with
    | some t =>
      have step : s.settleStep = some t := by
        unfold State.settleStep
        dsimp only
        rw [left]
      rw [step]
      obtain ⟨here' | gone, short'⟩ := leaves _ t marked left
      · exact ih t here' (by omega)
      · exact away fuel t gone (by omega)
    | none =>
      obtain ⟨t, T, task, there, longer, leads⟩ := step _ marked
      have step : s.settleStep = some t := by
        unfold State.settleStep
        dsimp only
        rw [left]
        exact task
      rw [step]
      exact leads fuel t there (by omega)

/-- The scene, and the queue as it was if it was at rest. -/
def State.ShowsResting (s₀ : State) (x : Scene) (s : State) : Prop := State.Shows s₀ x s ∧ State.QueueRests s₀ s

/-- The composer has no more of its galley to close, and the scene's records are those that stood there. -/
structure Scene.Empty (s₀ : State) (x : Scene) : Prop where
  tail : x.tail = []
  lines : x.lines = s₀.queue.map QueueRecord.line
  works : x.composer.galley = some x.galley.id
  running : x.composer.state = .running

theorem State.ShowsResting.marks (h : State.ShowsResting s₀ x s) (empty : x.Empty s₀) : State.ShowsResting s₀ x s.markNotNeeded :=
  ⟨h.1.marks (by rw [empty.tail]; exact fun _ mem => absurd mem List.not_mem_nil), h.2.marks⟩

theorem State.Shows.lines (h : State.Shows s₀ x s) (empty : x.Empty s₀) :
    (s.queue.map QueueRecord.line).Sublist (s₀.queue.map QueueRecord.line) := by
  obtain ⟨rest, tail, queue, lines, aged⟩ := h.queue
  rw [empty.tail] at aged
  cases aged
  rw [queue, List.append_nil, ← empty.lines]
  exact lines

/-- A departure before such a scene leaves it, or ends the galley. -/
theorem State.ShowsResting.leaves (h : State.ShowsResting s₀ x s) (empty : x.Empty s₀) (left : s.departure = some t) :
    (State.ShowsResting s₀ x t ∨ State.Away s₀ x.galley.id g.counters t) ∧ t.queue.length < s.queue.length := by
  obtain ⟨shows, rests⟩ := h
  obtain ⟨q, i, length, shrinks, cases⟩ := State.departure_of_going left (by rw [shows.composer, empty.running]; exact nofun)
  let v : State := State.recount { s with queue := q }
  have none' : ∀ q ∈ x.tail, q.Unexposed := by
    rw [empty.tail]
    exact fun _ mem => absurd mem List.not_mem_nil
  have gone : State.Shows s₀ x v :=
    shows.of_shrinks none' ((s.queue_kept q).trans (State.recount_kept _)) rfl id shrinks (FontStore.recount_alike ..)
  have rests' : State.QueueRests s₀ v := rests.leaves left v
  have short : q.length < s.queue.length := by omega
  obtain rfl | rfl := cases
  · exact ⟨.inl ⟨gone, rests'⟩, short⟩
  rw [State.finishGalley_queue, State.freeComposer_queue]
  refine ⟨?_, short⟩
  by_cases own : i = x.galley.id
  · right
    subst own
    have free : v.freeComposer x.galley.id = v.releaseComposer := if_pos (by rw [gone.composer, empty.works])
    rw [free]
    refine
      { kept := gone.kept.trans (v.releaseComposer_kept.trans (State.finishGalley_kept ..))
        composer := State.finishGalley_composer ..
        textTimer := State.finishGalley_textTimer ..
        lines := ?_
        rests := rests'.of_queue (State.finishGalley_queue ..)
        galley := fun g' found => absurd ((State.removeGalley_find _ _).symm.trans found) nofun }
    rw [State.finishGalley_queue]
    exact gone.lines empty
  · left
    have free : v.freeComposer i = v := by
      refine if_neg ?_
      rw [gone.composer, empty.works]
      exact fun same => own (Option.some.inj same).symm
    rw [free]
    refine ⟨gone.of_shrinks none' (State.finishGalley_kept v i) (v.finishGalley_composer i)
      (fun held => held.finishGalley own) ?_ (by rw [State.finishGalley_fonts]; exact .refl _),
      rests'.of_queue (State.finishGalley_queue ..)⟩
    rw [State.finishGalley_queue]
    exact fun rest tail here _ => ⟨rest, tail, here, List.Sublist.refl _, forall₂_aged_refl tail⟩

theorem Scene.Empty.next {task : Task} {rest : List Task} (empty : x.Empty s₀) (todo : x.composer.todo = task :: rest) :
    x.Next task rest := ⟨empty.running, empty.works, todo⟩

/-- A task of END GALLEY that changes the composer alone. -/
theorem LeadsFrom.composeResting {task : Task} {rest : List Task} {c : Composer} (empty : x.Empty s₀)
    (todo : x.composer.todo = task :: rest)
    (effect : ∀ s g, State.Shows s₀ x s → s.perform g task rest = { s with composer := c })
    (leads : LeadsFrom (State.ShowsResting s₀ (x.withComposer c)) n (State.Away s₀ x.galley.id g.counters)) :
    LeadsFrom (State.ShowsResting s₀ x) (n + 1) (State.Away s₀ x.galley.id g.counters) := by
  refine .stepOr (fun s h => h.marks empty) (fun s t h left => h.leaves empty left) (Leads.away fun _ h => h) fun s h => ?_
  obtain ⟨g', -, -, task⟩ := h.1.composerTask (empty.next todo)
  rw [effect s g' h.1] at task
  exact ⟨_, _, task, ⟨h.1.composing c, h.2.of_queue rfl⟩, Nat.le_succ _, leads⟩

/-- Its last task. -/
theorem LeadsFrom.finishResting (empty : x.Empty s₀) (todo : x.composer.todo = [.finish])
    (counters : x.galley.counters = g.counters) :
    LeadsFrom (State.ShowsResting s₀ x) 1 (State.Away s₀ x.galley.id g.counters) := by
  refine .stepOr (fun s h => h.marks empty) (fun s t h left => h.leaves empty left) (Leads.away fun _ h => h) fun s h => ?_
  obtain ⟨shows, rests⟩ := h
  obtain ⟨g', held, same, task⟩ := shows.composerTask (empty.next todo)
  let v : State := { s with composer := { s.composer with todo := [] } }
  have finished : s.perform g' .finish [] = v.finishComposition g'.id := rfl
  rw [finished, GalleyUnit.find_id held] at task
  have spec := State.finishComposition_finished (s := v) held
  have queue : (State.recount (v.finishComposition x.galley.id)).queue = s.queue := spec.queue
  refine ⟨_, State.Away s₀ x.galley.id g.counters, task, ?_, by rw [queue]; exact Nat.le_succ _, Leads.away fun _ h => h⟩
  refine
    { kept := shows.kept.trans (State.MachineryKept.trans (State.mapComposer_kept s fun c => { c with todo := [] })
        ((State.finishComposition_kept v _).trans (State.recount_kept _)))
      composer := spec.composer
      textTimer := spec.textTimer
      lines := by
        rw [queue]
        exact shows.lines empty
      rests := rests.of_queue queue
      galley := fun g'' found => ?_ }
  replace found : (v.finishComposition x.galley.id).galleys.find x.galley.id = some g'' := found
  obtain ⟨g₁, held₁, same₁⟩ | ⟨-, gone⟩ := spec.galley
  · obtain rfl := Option.some.inj (found.symm.trans held₁)
    obtain ⟨-, ended, state, counters'⟩ := g'.composed_spec
    have ended' : g''.compositionEnded = g'.composed.compositionEnded := congrArg (fun g => g.compositionEnded) same₁
    have state' : g''.state = g'.composed.state := congrArg (fun g => g.state) same₁
    have counted : g''.counters = g'.composed.counters := congrArg (fun g => g.counters) same₁
    have before : g'.counters = x.galley.counters := congrArg (fun g => g.counters) same
    rw [ended', state', counted, counters', before]
    exact ⟨ended, state, counters⟩
  · exact absurd (gone.symm.trans found) nofun

theorem State.textEnded_find (held : s.galleys.find g.id = some g) : (s.textEnded g.id).galleys.find g.id = some g.ended :=
  State.find_update_self (f := Galley.ended) (fun _ => rfl) held

theorem State.textEnded_workingGalley (held : s.galleys.find g.id = some g) (works : s.composer.galley = some g.id) :
    (s.textEnded g.id).workingGalley = some g.ended := by
  unfold State.workingGalley
  rw [show (s.textEnded g.id).composer.galley = some g.id from works]
  exact State.textEnded_find held

theorem State.FollowUp.of_textEnded (follow : State.FollowUp (s.textEnded id) t) : s.FollowUp t :=
  .of_kept (State.updateGalley_kept s id Galley.ended fun _ => rfl) follow

theorem claims_endGalleyOnAnEmptyLine : Claims.EndGalleyOnAnEmptyLine := by
  intro g s taking works bare empty uncut
  obtain ⟨g', works', held, galley', more, running, -⟩ := State.workingGalley_of_taking taking
  obtain rfl := Option.some.inj (works.symm.trans works')
  let v := s.textEnded g.id
  let x := v.unitScene g.ended [.test, .closeLast, .closeCut, .finish]
  let c (todo : List Task) : Composer := { s.composer.wordless with todo := todo }
  have own : x.galley.id = g.id := by
    show g.ended.consumedOne.id = _
    rw [g.ended.consumedOne_kept]
    rfl
  have counters : x.galley.counters = g.counters := by
    show g.ended.consumedOne.counters = _
    rw [g.ended.consumedOne_kept]
    rfl
  have empty' : x.Empty v := ⟨rfl, rfl, galley'.trans (congrArg some own.symm), running⟩
  have behind (todo : List Task) : (x.withComposer (c todo)).Empty v := ⟨rfl, rfl, galley'.trans (congrArg some own.symm), running⟩
  have leads : LeadsFrom (State.ShowsResting v x) 4 (State.Away v x.galley.id g.counters) := by
    refine .composeResting empty' rfl (c := c [.closeLast, .closeCut, .finish]) (fun u g shows => ?_) ?_
    · show u.mapComposer (fun _ => Composer.testWord { u.composer with todo := _ } u.hyphenation u.fonts g) = _
      rw [shows.composer]
      exact congrArg (fun c => u.mapComposer fun _ => c) (Composer.testWord_of_no_boxes bare)
    refine .composeResting (behind _) rfl (c := c [.closeCut, .finish]) (fun u g shows => ?_) ?_
    · show u.mapComposer (fun _ => if u.composer.line.items = [] then { u.composer with todo := _ } else _) = _
      rw [shows.composer]
      exact congrArg (fun c => u.mapComposer fun _ => c) (if_pos empty)
    refine .composeResting (behind _) rfl (c := c [.finish]) (fun u g shows => ?_) ?_
    · show u.mapComposer (fun _ => if u.composer.params.cut = true then _ else { u.composer with todo := _ }) = _
      rw [shows.composer]
      exact congrArg (fun c => u.mapComposer fun _ => c) (if_neg (by exact fun cut => absurd (uncut.symm.trans cut) nofun))
    exact .finishResting (behind _) rfl counters
  have held' : v.galleys.find g.ended.id = some g.ended := State.textEnded_find held
  have works' : v.workingGalley = some g.ended := State.textEnded_workingGalley held galley'
  obtain ⟨u, done, away, follow⟩ := State.work_leadsFrom works' held'
    ⟨State.unitScene_shows works' held', fun _ => State.consumeUnit_queue v⟩ leads (by decide)
  have examined := u.examine_examined v.exposureNextName
  rw [← done] at examined
  refine ⟨_, exec_endGalley_of_taking taking works, follow.of_textEnded, examined.composer.trans away.composer,
    examined.textTimer.trans away.textTimer, ?_, fun marks rests => ?_, fun g' found => ?_⟩
  · rw [examined.queue]
    exact away.lines
  · have resting : v.Resting :=
      ⟨congrArg (fun q => { v with queue := q }) (congrArg State.queue marks),
        (State.departure_isNone_of_queue (s := s) (t := v) rfl).trans rests⟩
    exact examined.queue.trans (away.rests resting)
  · obtain same | ⟨g₁, why, held₁, -, -, suspended⟩ := examined.records g.id
    · refine away.galley g' ?_
      rw [own]
      exact same.symm.trans found
    · obtain rfl := Option.some.inj (found.symm.trans suspended)
      obtain ⟨ended, -, counted⟩ := away.galley g₁ (by rw [own]; exact held₁)
      exact ⟨ended, .inr rfl, counted⟩

end Sys2Proof.Machine
end

section
/-! END GALLEY with a line in progress, and with a cut (R38, R41). -/

namespace Sys2Proof.Machine

variable {s s₀ t u : State} {g : Galley} {c : Composer} {x : Scene} {n : Nat} {Goal : State → Prop} {r : SetLine}

/-- The scene with the galley's composition finished. -/
def Scene.finished (x : Scene) : Scene := { x with composer := Composer.rest, galley := x.galley.composed }

/-- The composition finished while a record of the galley waits at the exposure walk (R11, R41). -/
theorem Leads.finish (steady : x.Steady) (next : x.Next .finish []) (record : ∃ q ∈ x.tail, q.line.galley = x.galley.id)
    (leads : Leads s₀ x.finished n Goal) : Leads s₀ x (n + 1) Goal := by
  refine .step steady fun s shows => ?_
  obtain ⟨g, held, same, task⟩ := shows.composerTask next
  let v : State := { s with composer := { s.composer with todo := [] } }
  have finished : s.perform g .finish [] = v.finishComposition g.id := rfl
  rw [finished, GalleyUnit.find_id held] at task
  have spec := State.finishComposition_finished (s := v) held
  have queue : (State.recount (v.finishComposition x.galley.id)).queue = s.queue := spec.queue
  have records : v.hasRecords x.galley.id = true := by
    obtain ⟨q, mem, own⟩ := record
    obtain ⟨rest, tail, here, -, aged⟩ := shows.queue
    obtain ⟨q', mem', old⟩ := forall₂_aged_mem aged mem
    have there : q' ∈ v.queue := by
      show q' ∈ s.queue
      rw [here]
      exact List.mem_append_right _ mem'
    exact State.hasRecords_of_unexposed there ((steady.unexposed q mem).of_proofed old) (by rw [old]; exact own)
  refine ⟨_, x.finished, task, ?_, by rw [queue]; exact Nat.le_succ _, leads⟩
  refine
    { kept := shows.kept.trans (State.MachineryKept.trans (State.mapComposer_kept s fun c => { c with todo := [] })
        ((State.finishComposition_kept v _).trans (State.recount_kept _)))
      composer := spec.composer
      galley := ?_
      queue := by
        rw [queue]
        exact shows.queue
      fonts := shows.fonts.trans (spec.fonts.trans (FontStore.recount_alike ..)) }
  obtain ⟨g₁, held₁, same₁⟩ | ⟨none', -⟩ := spec.galley
  · refine ⟨g₁, ?_, same₁.trans (Galley.composed_uncredited same)⟩
    rw [show x.finished.galley.id = x.galley.id from x.galley.composed_spec.1]
    exact held₁
  · exact absurd (records.symm.trans none') nofun

/-- The scene behind END GALLEY with the record that it closes. -/
def Scene.galleyEnded (x : Scene) (halted : Bool) (r : SetLine) : Scene where
  composer := Composer.rest
  lines := x.lines
  tail := [r.fresh]
  galley := (x.galley.recorded halted r.flags).composed
  fonts := x.fonts.stampUse r.fonts

/-- The scene in which END GALLEY still has a record to close. -/
structure Scene.Owing (x : Scene) : Prop where
  tail : x.tail = []
  works : x.composer.galley = some x.galley.id
  running : x.composer.state = .running
  owes : x.composer.owes = true

theorem Scene.Owing.steady (h : x.Owing) : x.Steady where
  unexposed := by
    rw [h.tail]
    exact fun _ mem => absurd mem List.not_mem_nil
  going := by
    rw [h.running]
    exact nofun
  own := .inl h.works
  bound := .inr ⟨h.works, .inl h.owes⟩

theorem Scene.Owing.next {task : Task} {rest : List Task} (h : x.Owing) (todo : x.composer.todo = task :: rest) :
    x.Next task rest := ⟨h.running, h.works, todo⟩

theorem LeadsFrom.mono {S : State → Prop} {m : Nat} (leads : LeadsFrom S m Goal) (le : m ≤ n) : LeadsFrom S n Goal :=
  fun fuel s here enough => leads fuel s here (by omega)

/-- The last record appended and the composition finished, be a cut still looked for or not. -/
theorem Leads.lastRecord {rest : List Task} (owing : x.Owing) (todo : x.composer.todo = .offer r :: rest)
    (own : r.galley = x.galley.id) (film : r.needsExposure = true) (room : x.lines.length < 32)
    (last : rest = [.finish] ∨ rest = [.closeCut, .finish] ∧ x.composer.params.cut = false) :
    Leads s₀ x 3 (State.Shows s₀ (x.galleyEnded (s₀.station.mode == .halted) r)) := by
  have steadyBehind (rest : List Task) : (x.withRecord (s₀.station.mode == .halted) r rest).Steady := by
    refine ⟨fun q mem => ?_, by exact owing.running ▸ nofun, .inl (owing.works.trans (congrArg some (Galley.recorded_id ..).symm)),
      .inl ⟨r.fresh, List.mem_append_right _ List.mem_cons_self, own.trans (Galley.recorded_id ..).symm⟩⟩
    obtain mem | mem := List.mem_append.mp mem
    · rw [owing.tail] at mem
      exact absurd mem List.not_mem_nil
    · obtain rfl := List.mem_singleton.mp mem
      exact SetLine.fresh_unexposed film
  have nextBehind {task : Task} {rest : List Task} : (x.withRecord (s₀.station.mode == .halted) r (task :: rest)).Next task rest :=
    ⟨owing.running, owing.works.trans (congrArg some (Galley.recorded_id ..).symm), rfl⟩
  have finish : Leads s₀ (x.withRecord (s₀.station.mode == .halted) r [.finish]) 1
      (State.Shows s₀ (x.galleyEnded (s₀.station.mode == .halted) r)) := by
    refine .finish (steadyBehind _) nextBehind
      ⟨r.fresh, List.mem_append_right _ List.mem_cons_self, own.trans (Galley.recorded_id ..).symm⟩ ?_
    have behind : (x.withRecord (s₀.station.mode == .halted) r [.finish]).finished =
        x.galleyEnded (s₀.station.mode == .halted) r := by
      unfold Scene.finished Scene.withRecord Scene.galleyEnded
      rw [owing.tail]
      rfl
    rw [behind]
    refine .done ⟨fun q mem => ?_, nofun, .inr rfl, .inl ⟨r.fresh, List.mem_cons_self, ?_⟩⟩ (.inr rfl) fun u shows => shows
    · obtain rfl := List.mem_singleton.mp mem
      exact SetLine.fresh_unexposed film
    · exact own.trans ((Galley.composed_spec _).1.trans (Galley.recorded_id ..)).symm
  have room' : x.lines.length + x.tail.length < 32 := by
    rw [owing.tail]
    exact room
  obtain rfl | ⟨rfl, uncut⟩ := last
  · exact (Leads.offer owing.steady (owing.next todo) own room' finish).mono (by decide)
  · refine .offer owing.steady (owing.next todo) own room' ?_
    refine .compose (c := { x.composer with todo := [.finish] }) (steadyBehind _) nextBehind (fun u g shows _ => ?_) finish
    show u.mapComposer (fun _ => if u.composer.params.cut = true then _ else { u.composer with todo := _ }) = _
    rw [shows.composer]
    exact congrArg (fun c => u.mapComposer fun _ => c) (if_neg (by exact fun cut => absurd (uncut.symm.trans cut) nofun))

/-- A task of END GALLEY that changes the composer alone, with the record still to come. -/
theorem Leads.composeOwing {task : Task} {rest : List Task} {c : Composer} (owing : x.Owing)
    (todo : x.composer.todo = task :: rest)
    (effect : ∀ s g, State.Shows s₀ x s → g.uncredited = x.galley.uncredited →
      s.perform g task rest = { s with composer := c })
    (leads : Leads s₀ (x.withComposer c) n Goal) : Leads s₀ x (n + 1) Goal :=
  .compose owing.steady (owing.next todo) effect leads

/-- The composer at the close of its last line, its next tasks given. -/
def Composer.lastLine (c : Composer) (todo : List Task) : Composer := { c.wordless with todo := todo }

/-- The composer at a cut alone (R41). -/
def Composer.lastCut (c : Composer) : Composer :=
  { c.wordless with params := { c.params with pendingAdvance := 0, pendingBack := 0 }, todo := [.finish] }

/-- The record that END GALLEY closes (R41). -/
def Composer.lastRecord (c : Composer) (g : Galley) : SetLine :=
  if c.line.items = [] then c.lastCut.unitRecord g else (c.lastLine [.closeCut, .finish]).unitRecord g

theorem Composer.owes_of_closes
    (closes : .closeLast ∈ c.todo ∧ c.line.items ≠ [] ∨ .closeCut ∈ c.todo ∧ c.params.cut = true) : c.owes = true := by
  unfold Composer.owes
  rw [Bool.or_eq_true]
  obtain ⟨mem, items⟩ | ⟨mem, cut⟩ := closes
  · exact .inr (List.any_eq_true.mpr ⟨_, mem, by simp [Composer.lineEmpty, items]⟩)
  · exact .inr (List.any_eq_true.mpr ⟨_, mem, cut⟩)

theorem Leads.endsGalley (bare : x.composer.word.boxes = []) (tail : x.tail = []) (works : x.composer.galley = some x.galley.id)
    (running : x.composer.state = .running) (todo : x.composer.todo = [.test, .closeLast, .closeCut, .finish])
    (film : x.galley.mode.wantsFilm = true) (room : x.lines.length < 32)
    (closes : x.composer.line.items ≠ [] ∨ x.composer.params.cut = true) :
    Leads s₀ x 6 (State.Shows s₀ (x.galleyEnded (s₀.station.mode == .halted) (x.composer.lastRecord x.galley))) := by
  let c := x.composer.lastLine
  have tests : Leads s₀ (x.withComposer (c [.closeLast, .closeCut, .finish])) 5
      (State.Shows s₀ (x.galleyEnded (s₀.station.mode == .halted) (x.composer.lastRecord x.galley))) := by
    by_cases empty : x.composer.line.items = []
    · have cut : x.composer.params.cut = true := closes.resolve_left fun items => items empty
      have record : x.composer.lastRecord x.galley = x.composer.lastCut.unitRecord x.galley := if_pos empty
      have owing (todo : List Task) (mem : .closeCut ∈ todo) : (x.withComposer (c todo)).Owing :=
        ⟨tail, works, running, Composer.owes_of_closes (.inr ⟨mem, cut⟩)⟩
      refine .composeOwing (owing _ (by simp)) rfl (c := c [.closeCut, .finish]) (fun u g shows _ => ?_) ?_
      · show u.mapComposer (fun _ => if u.composer.line.items = [] then { u.composer with todo := _ } else _) = _
        rw [shows.composer]
        exact congrArg (fun c => u.mapComposer fun _ => c) (if_pos empty)
      refine .composeOwing (owing _ (by simp)) rfl (c := x.composer.lastCut.closeUnit x.galley) (fun u g shows same => ?_) ?_
      · rw [← Composer.closeUnit_of_uncredited (g := x.galley) same]
        show u.mapComposer (fun _ => if u.composer.params.cut = true then
          Composer.closeUnit
            { u.composer with
              params := { u.composer.params with pendingAdvance := 0, pendingBack := 0 }, todo := [.finish] } g
          else { u.composer with todo := [.finish] }) = _
        rw [shows.composer]
        exact congrArg (fun c => u.mapComposer fun _ => c) (if_pos cut)
      rw [record]
      exact Leads.lastRecord ⟨tail, works, running, Bool.or_true _⟩ rfl rfl film room (.inl rfl)
    · have record : x.composer.lastRecord x.galley = (c [.closeCut, .finish]).unitRecord x.galley := if_neg empty
      refine LeadsFrom.mono (m := 4) ?_ (by decide)
      refine Leads.composeOwing (x := x.withComposer (c [.closeLast, .closeCut, .finish]))
        ⟨tail, works, running, Composer.owes_of_closes (.inl ⟨List.mem_cons_self, empty⟩)⟩ rfl
        (c := (c [.closeCut, .finish]).closePara x.galley) (fun u g shows same => ?_) ?_
      · rw [← Composer.closePara_of_uncredited (g := x.galley) same]
        show u.mapComposer (fun _ => if u.composer.line.items = [] then _ else
          Composer.closePara { u.composer with todo := _ } g) = _
        rw [shows.composer]
        exact congrArg (fun c => u.mapComposer fun _ => c) (if_neg empty)
      rw [record]
      exact Leads.lastRecord ⟨tail, works, running, Bool.or_true _⟩ rfl rfl film room (.inr ⟨rfl, rfl⟩)
  refine .composeOwing ⟨tail, works, running, ?_⟩ todo (c := x.composer.lastLine [.closeLast, .closeCut, .finish])
    (fun u g shows _ => ?_) tests
  · rw [Composer.owes_of_closes]
    rw [todo]
    exact closes.imp (fun items => ⟨by simp, items⟩) fun cut => ⟨by simp, cut⟩
  · show u.mapComposer (fun _ => Composer.testWord { u.composer with todo := _ } u.hyphenation u.fonts g) = _
    rw [shows.composer]
    exact congrArg (fun c => u.mapComposer fun _ => c) (Composer.testWord_of_no_boxes bare)

/-- The record that END GALLEY closes, as R41 has it. -/
theorem Composer.lastRecord_spec (c : Composer) (g : Galley) (film : g.mode = .film ∨ g.mode = .both) :
    (c.lastRecord g).galley = g.id ∧ (c.lastRecord g).number = c.nextLine ∧ (c.lastRecord g).cutAfter = c.params.cut ∧
      (c.line.boxes ≠ [] → (c.lastRecord g).kind = .text ∧ (c.lastRecord g).advance = c.params.pendingAdvance ∧
        (c.lastRecord g).back = c.params.pendingBack) ∧
      (c.line.items = [] → (c.lastRecord g).kind = .blank ∧ (c.lastRecord g).advance = 0 ∧ (c.lastRecord g).back = 0 ∧
        (c.lastRecord g).runs = []) := by
  unfold Composer.lastRecord
  split
  · rename_i empty
    refine ⟨rfl, rfl, rfl, fun boxes => absurd empty (boxes_ne_nil_items boxes), fun _ => ?_⟩
    rw [c.lastCut.unitRecord_eq g film]
    have bare : c.lastCut.line.boxes = [] := by
      show c.line.items.filterMap _ = []
      rw [empty]
      rfl
    refine ⟨by rw [bare]; rfl, rfl, rfl, ?_⟩
    show runsOf (positions _ c.line.items _ []) = []
    rw [empty]
    rfl
  · rename_i some'
    refine ⟨rfl, rfl, rfl, fun boxes => ?_, fun empty => absurd empty some'⟩
    rw [(c.lastLine [.closeCut, .finish]).unitRecord_eq g film]
    refine ⟨?_, rfl, rfl⟩
    have text : (!c.line.boxes.isEmpty) = true := by simpa using boxes
    exact if_pos text

theorem claims_endGalleyClosesItsLine : Claims.EndGalleyClosesItsLine := by
  rintro g s c taking works rfl bare room film closes
  obtain ⟨g', works', held, galley', more, running, -⟩ := State.workingGalley_of_taking taking
  obtain rfl := Option.some.inj (works.symm.trans works')
  let v := s.textEnded g.id
  let x := v.unitScene g.ended [.test, .closeLast, .closeCut, .finish]
  have kept := g.ended.consumedOne_kept
  have own : x.galley.id = g.id := by
    show g.ended.consumedOne.id = _
    rw [kept]
    rfl
  have wants : x.galley.mode.wantsFilm = true := by
    show g.ended.consumedOne.mode.wantsFilm = true
    rw [kept]
    show g.mode.wantsFilm = true
    rcases film with mode | mode <;> rw [mode] <;> rfl
  let r := s.composer.lastRecord g
  have record : x.composer.lastRecord x.galley = r := by
    have same (c : Composer) : c.unitRecord g.ended.consumedOne = c.unitRecord g := c.unitRecord_consumedOne g.ended
    show (if s.composer.line.items = [] then s.composer.lastCut.unitRecord g.ended.consumedOne
      else (s.composer.lastLine [.closeCut, .finish]).unitRecord g.ended.consumedOne) = _
    rw [same, same]
    rfl
  have closes' : x.composer.line.items ≠ [] ∨ x.composer.params.cut = true :=
    closes.imp boxes_ne_nil_items And.right
  have leads := Leads.endsGalley (s₀ := v) (x := x) bare rfl (galley'.trans (congrArg some own.symm)) running rfl wants
    (by show (s.queue.map QueueRecord.line).length < 32; rwa [List.length_map]) closes'
  rw [record] at leads
  have held' : v.galleys.find g.ended.id = some g.ended := State.textEnded_find held
  obtain ⟨u, done, shows, -⟩ :=
    State.work_leads (State.textEnded_workingGalley held galley') held' leads (by decide)
  let y := x.galleyEnded (v.station.mode == .halted) r
  obtain ⟨g', found, counters, ended, state⟩ := shows.examine_galley v.exposureNextName
  rw [← done] at found
  have spec := Galley.composed_spec (x.galley.recorded (v.station.mode == .halted) r.flags)
  have own' : y.galley.id = g.id := spec.1.trans ((Galley.recorded_id ..).trans own)
  have counted : y.galley.counters = g.counters.appended r.flags := by
    refine spec.2.2.2.trans ((Galley.recorded_ended ..).2.1.trans ?_)
    show g.ended.consumedOne.counters.appended _ = _
    rw [kept]
    rfl
  obtain ⟨rest, tail, queue, lines, aged⟩ := shows.queue
  replace aged : List.Forall₂ QueueRecord.Aged [r.fresh] tail := aged
  obtain _ | ⟨first, _ | _⟩ := aged
  rename_i q
  have line : q.line = r := by
    rw [first]
    rfl
  have queue' : ((s.textEnded g.id).consumeUnit.work [.test, .closeLast, .closeCut, .finish]).queue = rest ++ [q] := by
    rw [done, State.examine_queue]
    exact queue
  obtain ⟨galley, number, cutAfter, text, blank⟩ := s.composer.lastRecord_spec g film
  refine ⟨_, g', q, exec_endGalley_of_taking taking works, ?_, ?_, ended.trans spec.2.1, ?_, ?_, ?_, ?_, ?_, ?_, ?_, ?_, ?_⟩
  · rw [done, State.examine_composer]
    exact shows.composer
  · exact (congrArg (GalleyUnit.find _) own'.symm).trans found
  · exact state.elim (fun same => spec.2.2.1.imp same.trans same.trans) .inr
  · rw [counters]
    refine (congrArg Counters.setLines counted).trans ?_
    show min (g.counters.setLines + 1) 65535 = _
    rfl
  · rw [queue', List.getLast?_concat]
  · rw [queue', List.dropLast_concat]
    exact lines
  · rw [line, galley]
  · rw [line, number]
  · rw [line, cutAfter]
  · rw [line]
    exact text
  · rw [line]
    exact blank

/-- Settles O27, from END GALLEY taken, the two ways in which it leaves the galley, the marks and the departures. -/
theorem galleyEnds : Obligations.GalleyEnds :=
  ⟨claims_endGalleyTaken, claims_endGalleyOnAnEmptyLine, claims_endGalleyClosesItsLine, claims_notNeededMarks, claims_recordsLeave⟩

end Sys2Proof.Machine
end

section
/-! A character without its font (R46, R47, R102 to R104). -/

namespace Sys2Proof.Machine

variable {s : State} {g : Galley} {font code : Nat} {w : Want}

/-! ## A demand (R104) -/

theorem FontStore.isUnavailable_of_want_none (absent : s.fonts.want font = none) : s.fonts.isUnavailable font = false := by
  unfold FontStore.isUnavailable
  rw [absent]

theorem FontStore.isUnavailable_of_want (found : s.fonts.want font = some w) :
    s.fonts.isUnavailable font = (w.state == .unavailable) := by
  unfold FontStore.isUnavailable
  rw [found]

/-- A demand for a font that has a want entry (R104, step 1). -/
theorem State.raiseDemand_of_want (party : Party) (found : s.fonts.want font = some w)
    (quiet : w.state ≠ .unavailable ∨ w.demand = true ∨ ∀ r, s.exposureNext = some r → font ∉ r.line.fonts) :
    s.raiseDemand party font = s.mapFonts fun fs => fs.updateWant font Want.demanded := by
  have once : s.demandOnce party font = s.mapFonts fun fs => fs.updateWant font Want.demanded := by
    unfold State.demandOnce
    rw [found]
    dsimp only
    split
    · rename_i counts
      have elsewhere := (quiet.resolve_left fun h => h counts.1).resolve_left fun h => absurd (h.symm.trans counts.2) nofun
      have same : (s.mapFonts fun fs => fs.updateWant font Want.demanded).exposureNext = s.exposureNext := rfl
      unfold State.suspendForFont
      rw [same]
      split
      · exact if_neg (elsewhere _ ‹_›)
      · rfl
    · rfl
  unfold State.raiseDemand
  rw [found, once]
  rfl

/-- A demand for a font that has none, where the list has room (R104, step 2). -/
theorem State.raiseDemand_of_room (party : Party) (absent : s.fonts.want font = none) (room : s.fonts.wants.length < 16) :
    s.raiseDemand party font = s.mapFonts fun fs => fs.addWant font true := by
  have once : s.demandOnce party font = s.mapFonts fun fs => fs.addWant font true := by
    unfold State.demandOnce
    rw [absent]
    exact if_pos room
  have few : decide (Config.wantCapacity ≤ s.fonts.wants.length) = false := decide_eq_false (Nat.not_le.mpr room)
  unfold State.raiseDemand
  rw [absent, once, few]
  rfl

/-- A demand on a full list takes the place of the youngest entry that it may replace (R104, step 3). -/
theorem State.raiseDemand_of_replaceable (party : Party) (absent : s.fonts.want font = none)
    (full : 16 ≤ s.fonts.wants.length) (may : s.fonts.replaceable = some w) (unrefused : s.fonts.refused = []) :
    s.raiseDemand party font = (s.dropWant w).mapFonts fun fs => fs.addWant font true := by
  have once : s.demandOnce party font = (s.dropWant w).mapFonts fun fs => fs.addWant font true := by
    unfold State.demandOnce
    rw [absent]
    dsimp only
    rw [if_neg (show ¬s.fonts.wants.length < Config.wantCapacity from Nat.not_lt.mpr full), may]
  have kept : ((s.dropWant w).mapFonts fun fs => fs.addWant font true).fonts.refused = [] := by
    show (s.dropWant w).fonts.refused = []
    unfold State.dropWant
    dsimp only
    split
    · exact unrefused
    · exact unrefused
  have nothing : ((s.dropWant w).mapFonts fun fs => fs.addWant font true).wantRemoved =
      (s.dropWant w).mapFonts fun fs => fs.addWant font true := by
    unfold State.wantRemoved
    rw [kept]
    rfl
  unfold State.raiseDemand
  rw [once]
  dsimp only
  rw [nothing]
  split <;> rfl

/-- A demand that finds no place is refused (R104, step 4). -/
theorem State.raiseDemand_of_refused (party : Party) (absent : s.fonts.want font = none) (full : 16 ≤ s.fonts.wants.length)
    (mayNot : s.fonts.replaceable = none) :
    s.raiseDemand party font =
      { s with
        fonts :=
          { s.fonts with
            refused := if (party, font) ∈ s.fonts.refused then s.fonts.refused else s.fonts.refused ++ [(party, font)] } } := by
  have once : s.demandOnce party font =
      { s with
        fonts :=
          { s.fonts with
            refused := if (party, font) ∈ s.fonts.refused then s.fonts.refused else s.fonts.refused ++ [(party, font)] } } := by
    unfold State.demandOnce
    rw [absent]
    dsimp only
    rw [if_neg (show ¬s.fonts.wants.length < Config.wantCapacity from Nat.not_lt.mpr full), mayNot]
    dsimp only
    split
    · rfl
    · rfl
  unfold State.raiseDemand
  rw [once, mayNot]
  simp

/-! ## The wait for a font (R46) -/

/-- The composer on its wait for a font. -/
def Composer.awaiting (c : Composer) (font : Nat) : Composer := { c with state := .waitFont, awaited := some font }

/-- A character whose font is not at hand and not given up (R46). -/
theorem exec_characterUnit_waits (taking : s.taking (.characterUnit code) = true) (char : code ≠ 32)
    (learning : s.composer.params.learn = none) (missing : s.fonts.atLeastMetrics s.composer.params.font = false)
    (open' : s.fonts.isUnavailable s.composer.params.font = false) :
    exec (.characterUnit code) s =
      .next ((s.raiseDemand .composer s.composer.params.font).mapComposer fun c => c.awaiting s.composer.params.font) := by
  obtain ⟨g, -, run⟩ := exec_characterUnit_of_taking taking learning char
  rw [run]
  unfold State.checkFont
  dsimp only
  rw [if_neg (by rw [missing]; exact nofun), if_neg (by rw [open']; exact nofun)]
  rfl

/-- The demand for the composer's font set on its want entry. -/
def State.fontDemanded (s : State) : State := s.mapFonts fun fs => fs.updateWant s.composer.params.font Want.demanded

/-- The composer's policy where the font is given up (R47). -/
theorem exec_characterUnit_givenUp (taking : s.taking (.characterUnit code) = true) (char : code ≠ 32)
    (learning : s.composer.params.learn = none) (works : s.workingGalley = some g)
    (missing : s.fonts.atLeastMetrics s.composer.params.font = false) (found : s.fonts.want s.composer.params.font = some w)
    (given : w.state = .unavailable)
    (quiet : w.demand = true ∨ ∀ r, s.exposureNext = some r → s.composer.params.font ∉ r.line.fonts) :
    (∀ t, s.fontDemanded.applyPolicy g s.composer.params.font = .stay t → exec (.characterUnit code) s = .next t) ∧
      ∀ fallback, s.fontDemanded.applyPolicy g s.composer.params.font = .goOn fallback →
        exec (.characterUnit code) s = .next (s.fontDemanded.setCharacter code fallback true) := by
  obtain ⟨g', works', run⟩ := exec_characterUnit_of_taking taking learning char
  obtain rfl := Option.some.inj (works.symm.trans works')
  have unavailable : s.fonts.isUnavailable s.composer.params.font = true := by
    rw [FontStore.isUnavailable_of_want found, given]
    rfl
  have raised : s.raiseDemand .composer s.composer.params.font = s.fontDemanded :=
    State.raiseDemand_of_want .composer found (.inr quiet)
  unfold State.checkFont at run
  dsimp only at run
  rw [if_neg (by rw [missing]; exact nofun), if_pos unavailable, raised] at run
  refine ⟨fun t stays => ?_, fun fallback goes => ?_⟩
  · rw [run, stays]
  · rw [run, goes]

theorem Want.demanded_of_unavailable (given : w.state = .unavailable) :
    w.demanded.state = .unavailable ∧ w.demanded.demand = true ∧ w.demanded.timer = some (w.timer.getD 10000) := by
  refine ⟨given, rfl, ?_⟩
  show (match w.state, w.timer with | .unavailable, none => _ | .deferred, none => _ | _, t => t) = _
  rw [given]
  cases w.timer <;> rfl

theorem Want.demanded_of_available (open' : w.state ≠ .unavailable) :
    w.demanded =
      { w with demand := true, timer := if w.state = .deferred ∧ w.timer = none then some 10000 else w.timer } := by
  have timer : w.demanded.timer = if w.state = .deferred ∧ w.timer = none then some 10000 else w.timer := by
    show (match w.state, w.timer with | .unavailable, none => _ | .deferred, none => _ | _, t => t) = _
    cases state : w.state with
    | unavailable => exact absurd state open'
    | deferred => cases w.timer <;> simp [Config.deferralLimit]
    | _ => simp
  rw [← timer]
  rfl

theorem claims_fontWaitedOnOrGivenUp : Claims.FontWaitedOnOrGivenUp := by
  intro code g s taking char learning works missing
  refine ⟨fun absent room => ?_, fun w found given quiet => ⟨fun hold composing => ?_,
    fun m v substitute have' metrics width chars fonts => ?_⟩⟩
  · rw [exec_characterUnit_waits taking char learning missing (FontStore.isUnavailable_of_want_none absent),
      State.raiseDemand_of_room .composer absent room]
    rfl
  · obtain ⟨run, -⟩ := exec_characterUnit_givenUp taking char learning works missing found given quiet
    obtain ⟨g', works', held, -⟩ := State.workingGalley_of_taking taking
    obtain rfl := Option.some.inj (works.symm.trans works')
    let font := s.composer.params.font
    let u := s.fontDemanded
    have policy : u.applyPolicy g font = .stay (u.holdComposer g.id font) := by
      unfold State.applyPolicy
      rw [hold]
    have suspended := State.suspend_of_suspendable (s := u) (why := .fontComposer font) held (.inl composing)
    obtain ⟨state, demand, timer⟩ := Want.demanded_of_unavailable given
    refine ⟨_, g.suspendedFor (.fontComposer font), w.demanded, run _ policy, ?_, ?_, rfl, rfl, rfl, ?_, ?_, state, demand, timer⟩
    · show { (u.suspend g.id (.fontComposer font)).composer with state := .held, awaited := some font } = _
      rw [State.suspend_composer]
      rfl
    · show (u.suspend g.id (.fontComposer font)).galleys.find g.id = _
      rw [suspended]
      exact State.find_update_self (s := u) (f := Galley.suspendedFor _) (fun _ => rfl) held
    · exact State.suspend_queue u g.id _
    · show (u.suspend g.id (.fontComposer font)).fonts.want font = _
      rw [State.suspend_fonts]
      exact (FontStore.want_updateWant (f := Want.demanded)).trans (by rw [found]; rfl)
  · obtain ⟨-, run⟩ := exec_characterUnit_givenUp taking char learning works missing found given quiet
    let font := s.composer.params.font
    let u := s.fontDemanded
    have policy : u.applyPolicy g font = .goOn g.fallback := by
      unfold State.applyPolicy
      rw [substitute]
      exact if_pos have'
    have set := State.setCharacter_of_width (s := u) (substituted := true) metrics width (Word.not_full chars fonts)
    refine ⟨_, (run _ policy).trans (congrArg Host.Outcome.next set), ?_, ?_, ?_, ?_⟩
    · rw [State.askNext_queue]
      exact u.consumeUnit_queue
    all_goals rw [State.askNext_composer]
    · show u.consumeUnit.composer.params.font = _
      rw [State.consumeUnit_composer]
      rfl
    · show (u.consumeUnit.composer.word.substituted || true) = true
      exact Bool.or_true _
    · show u.consumeUnit.composer.word.boxes ++ _ = _
      rw [State.consumeUnit_composer]
      rfl

theorem wants_apart {fs : FontStore} {before behind : List Want} (unique : (fs.wants.map Want.font).Nodup)
    (wants : fs.wants = before ++ w :: behind) : ∀ x ∈ before ++ behind, x.font ≠ w.font := by
  rw [wants, List.map_append, List.map_cons, List.nodup_middle, ← List.map_append] at unique
  intro x mem same
  exact (List.nodup_cons.mp unique).1 (List.mem_map.mpr ⟨x, mem, same⟩)

/-- What goes with a want entry that a demand replaces (R104, step 3). -/
theorem State.dropWant_spec (s : State) (w : Want) :
    (s.dropWant w).composer = s.composer ∧ (s.dropWant w).fonts.wants = s.fonts.wants.filter (fun x => x.font ≠ w.font) ∧
      (s.dropWant w).fonts.refused = s.fonts.refused ∧
      (w.state = .asking → (s.dropWant w).line = s.line.withdraw (Descriptor.asksFor w.font) ∧
        (s.dropWant w).fonts.inbound = s.fonts.inbound.unasked) ∧
      (w.state ≠ .asking → (s.dropWant w).line = s.line ∧ (s.dropWant w).fonts.inbound = s.fonts.inbound) ∧
      (s.dropWant w).queue = s.queue ∧ (s.dropWant w).galleys = s.galleys := by
  unfold State.dropWant
  dsimp only
  split
  · exact ⟨rfl, rfl, rfl, fun _ => ⟨rfl, rfl⟩, fun other => absurd ‹_› other, rfl, rfl⟩
  · exact ⟨rfl, rfl, rfl, fun asking => absurd asking ‹_›, fun _ => ⟨rfl, rfl⟩, rfl, rfl⟩

theorem claims_demandOnTheWantList : Claims.DemandOnTheWantList := by
  rintro code s c taking char learning missing unique rfl
  refine ⟨fun before w behind wants own open' => ?_, fun absent full => ⟨fun before w behind wants light idle pressing unrefused => ?_,
    fun pressing => ?_⟩⟩
  · have others := wants_apart unique wants
    have found : s.fonts.want s.composer.params.font = some w := by
      unfold FontStore.want
      rw [wants, List.find?_append, List.find?_eq_none.mpr fun x mem => by
        simpa using own ▸ others x (List.mem_append_left _ mem), Option.none_or]
      exact List.find?_cons_of_pos (decide_eq_true own)
    have kept {xs : List Want} (among : ∀ x ∈ xs, x ∈ before ++ behind) :
        xs.map (fun x => if x.font = s.composer.params.font then x.demanded else x) = xs :=
      (List.map_congr_left fun x mem => if_neg (own ▸ others x (among x mem))).trans (List.map_id' xs)
    have updated : (s.fonts.updateWant s.composer.params.font Want.demanded).wants = before ++ w.demanded :: behind := by
      show s.fonts.wants.map _ = _
      rw [wants, List.map_append, List.map_cons, if_pos own, kept fun x mem => List.mem_append_left _ mem,
        kept fun x mem => List.mem_append_right _ mem]
    rw [exec_characterUnit_waits taking char learning missing (by
        rw [FontStore.isUnavailable_of_want found]
        exact beq_eq_false_iff_ne.mpr open'), State.raiseDemand_of_want .composer found (.inl open')]
    rw [← Want.demanded_of_available open', ← updated]
    rfl
  · have waits := exec_characterUnit_waits taking char learning missing (FontStore.isUnavailable_of_want_none absent)
    have may : s.fonts.replaceable = some w := by
      have behind' : behind.filter (fun w => w.demand = false ∧ w.state ≠ .loading) = [] :=
        List.filter_eq_nil_iff.mpr fun x mem => by rcases pressing x mem with held | held <;> simp [held]
      unfold FontStore.replaceable
      rw [wants, List.filter_append, List.filter_cons_of_pos (by simp [light, idle]), behind']
      exact List.getLast?_concat
    rw [State.raiseDemand_of_replaceable .composer absent full may unrefused] at waits
    have others := wants_apart unique wants
    have removed : s.fonts.wants.filter (fun x => x.font ≠ w.font) = before ++ behind := by
      have kept {xs : List Want} (among : ∀ x ∈ xs, x ∈ before ++ behind) : xs.filter (fun x => x.font ≠ w.font) = xs :=
        List.filter_eq_self.mpr fun x mem => by simpa using others x (among x mem)
      rw [wants, List.filter_append, List.filter_cons_of_neg (by simp), kept fun x mem => List.mem_append_left _ mem,
        kept fun x mem => List.mem_append_right _ mem]
    obtain ⟨composer, wants', refused, asking, otherwise, queue, galleys⟩ := s.dropWant_spec w
    refine ⟨_, waits, ?_, ?_, refused.trans unrefused, fun own is ask => ?_, fun ask => otherwise ask, queue, galleys⟩
    · show Composer.awaiting (s.dropWant w).composer _ = _
      rw [composer]
      rfl
    · show (s.dropWant w).fonts.wants ++ _ = _
      rw [wants', removed]
    · rw [is]
      exact asking ask
  · have mayNot : s.fonts.replaceable = none := by
      unfold FontStore.replaceable
      rw [List.filter_eq_nil_iff.mpr fun x mem => by rcases pressing x mem with held | held <;> simp [held]]
      rfl
    rw [exec_characterUnit_waits taking char learning missing (FontStore.isUnavailable_of_want_none absent),
      State.raiseDemand_of_refused .composer absent full mayNot]
    rfl

/-- Settles O24, from the demand that a character without its font raises, and the font policy. -/
theorem characterWithoutItsFont : Obligations.CharacterWithoutItsFont :=
  ⟨claims_fontWaitedOnOrGivenUp, claims_demandOnTheWantList⟩

end Sys2Proof.Machine
end

section
/-! The bits on the line (R167, R168): stuffed bits read back, a frame read from its bits, and a bit error in the check. -/

namespace Sys2Proof

variable {f : Frame}

/-! ## Stuffing (R167) -/

/-- The count of the successive bits of equal level at the bit `b`. -/
def runCount (last : Bool) (count : Nat) (b : Bool) : Nat := if b = last then count + 1 else 1

theorem runCount_le {last b : Bool} {count : Nat} (few : count < 5) : runCount last count b ≤ 5 := by
  unfold runCount
  split
  · exact few
  · decide

theorem stuffFrom_cons_of_five {last b : Bool} {count : Nat} {rest : List Bool} (five : runCount last count b = 5) :
    stuffFrom last count (b :: rest) = b :: (!b) :: stuffFrom (!b) 1 rest := if_pos five

theorem stuffFrom_cons_of_fewer {last b : Bool} {count : Nat} {rest : List Bool} (fewer : runCount last count b ≠ 5) :
    stuffFrom last count (b :: rest) = b :: stuffFrom b (runCount last count b) rest := if_neg fewer

theorem destuffFrom_cons {last b : Bool} {count : Nat} {rest : List Bool} (few : count < 5) :
    destuffFrom last count (b :: rest) =
      (b :: (destuffFrom b (runCount last count b) rest).1, (destuffFrom b (runCount last count b) rest).2) :=
  if_neg (Nat.ne_of_lt few)

theorem destuffFrom_stuffed (b : Bool) (rest : List Bool) : destuffFrom b 5 ((!b) :: rest) = destuffFrom (!b) 1 rest := by
  cases b <;> rfl

/-- A receiver has the sender's bits again, and goes on behind them. -/
theorem destuffFrom_stuffFrom_append (bits behind : List Bool) {last : Bool} {count : Nat} (few : count < 5) :
    ∃ last' count', destuffFrom last count (stuffFrom last count bits ++ behind) =
      (bits ++ (destuffFrom last' count' behind).1, (destuffFrom last' count' behind).2) := by
  induction bits generalizing last count with
  | nil => exact ⟨last, count, rfl⟩
  | cons b rest ih =>
    by_cases five : runCount last count b = 5
    · obtain ⟨last', count', done⟩ := ih (last := !b) (count := 1) (by decide)
      refine ⟨last', count', ?_⟩
      rw [stuffFrom_cons_of_five five, List.cons_append, List.cons_append, destuffFrom_cons few, five, destuffFrom_stuffed, done]
      rfl
    · obtain ⟨last', count', done⟩ := ih (last := b) (lt_of_le_of_ne (runCount_le few) five)
      refine ⟨last', count', ?_⟩
      rw [stuffFrom_cons_of_fewer five, List.cons_append, destuffFrom_cons few, done]
      rfl

theorem destuffFrom_stuffFrom (bits : List Bool) {last : Bool} {count : Nat} (few : count < 5) :
    destuffFrom last count (stuffFrom last count bits) = (bits, false) := by
  obtain ⟨last', count', done⟩ := destuffFrom_stuffFrom_append bits [] (last := last) few
  rwa [List.append_nil, show destuffFrom last' count' [] = ([], false) from rfl, List.append_nil] at done

/-- Of the stuffed bits' beginning a receiver has the bits' beginning, and meets no violation. -/
theorem destuffFrom_take_stuffFrom (bits : List Bool) (n : Nat) {last : Bool} {count : Nat} (few : count < 5) :
    ∃ m, destuffFrom last count ((stuffFrom last count bits).take n) = (bits.take m, false) := by
  induction bits generalizing last count n with
  | nil => exact ⟨0, by rw [stuffFrom, List.take_nil]; rfl⟩
  | cons b rest ih =>
    obtain _ | n := n
    · exact ⟨0, rfl⟩
    by_cases five : runCount last count b = 5
    · rw [stuffFrom_cons_of_five five, List.take_succ_cons, destuffFrom_cons few, five]
      obtain _ | n := n
      · exact ⟨1, rfl⟩
      obtain ⟨m, done⟩ := ih n (last := !b) (count := 1) (by decide)
      refine ⟨m + 1, ?_⟩
      rw [List.take_succ_cons, destuffFrom_stuffed, done]
      rfl
    · obtain ⟨m, done⟩ := ih n (last := b) (lt_of_le_of_ne (runCount_le few) five)
      refine ⟨m + 1, ?_⟩
      rw [stuffFrom_cons_of_fewer five, List.take_succ_cons, destuffFrom_cons few, done]
      rfl

theorem claims_stuffedBitsReadBack : Claims.StuffedBitsReadBack := by
  intro bits
  cases bits with
  | nil => rfl
  | cons b rest =>
    have read : destuff (stuff (b :: rest)) = (b :: rest, false) := by
      show (b :: (destuffFrom b 1 (stuffFrom b 1 rest)).1, (destuffFrom b 1 (stuffFrom b 1 rest)).2) = _
      rw [destuffFrom_stuffFrom rest (by decide)]
    unfold unstuff
    rw [read]
    rfl

/-! ## A frame from its bits (R167) -/

theorem dropWhile_replicate_true (idle : Nat) (bits : List Bool) :
    (List.replicate idle true ++ false :: bits).dropWhile id = false :: bits := by
  induction idle with
  | zero => rfl
  | succ idle ih => exact ih

/-- The bits of a frame behind its start bit. -/
def frameTail (f : Frame) : List Bool :=
  natBits 2 f.cls.toNat ++ natBits 5 f.complement.toNat ++ coveredBits f.kind f.dest f.length f.body ++
    natBits 16 f.check.toNat

theorem frameBits_eq (f : Frame) : frameBits f = false :: frameTail f := by
  unfold frameBits frameTail
  simp

/-- What a receiver reads of a frame's bits, whatever comes behind them. -/
theorem exists_destuff_frameBits (f : Frame) (idle : Nat) (behind : List Bool) :
    ∃ more violated, destuff ((List.replicate idle true ++ stuff (frameBits f) ++ behind).dropWhile id) =
      (frameBits f ++ more, violated) := by
  rw [frameBits_eq]
  obtain ⟨last, count, done⟩ := destuffFrom_stuffFrom_append (frameTail f) behind (last := false) (count := 1) (by decide)
  refine ⟨(destuffFrom last count behind).1, (destuffFrom last count behind).2, ?_⟩
  rw [List.append_assoc]
  show destuff ((List.replicate idle true ++ false :: (stuffFrom false 1 (frameTail f) ++ behind)).dropWhile id) = _
  rw [dropWhile_replicate_true]
  show (false :: (destuffFrom false 1 _).1, (destuffFrom false 1 _).2) = _
  rw [done]
  rfl

/-! ## The fields -/

/-- A field is read behind the bits before it. -/
theorem bitField_append {before behind : List Bool} {start width n : Nat} (here : before.length = start) :
    bitField start width (before ++ natBits width n ++ behind) = n % 2 ^ width := by
  unfold bitField
  rw [List.append_assoc, ← here, List.drop_left, List.take_left' (natBits_length width n), bitsNat_natBits]

theorem bytesAt_flatMap (body : List Byte) (behind : List Bool) :
    bytesAt body.length (body.flatMap (fun b => natBits 8 b.toNat) ++ behind) = body := by
  induction body with
  | nil => rfl
  | cons b body ih =>
    have first : bitField 0 8 (natBits 8 b.toNat ++ (body.flatMap (fun b => natBits 8 b.toNat) ++ behind)) = b.toNat := by
      have read := bitField_append (before := []) (start := 0) (width := 8) (n := b.toNat)
        (behind := body.flatMap (fun b => natBits 8 b.toNat) ++ behind) rfl
      rw [List.nil_append] at read
      rw [read, Nat.mod_eq_of_lt b.isLt]
    rw [List.flatMap_cons, List.append_assoc, List.length_cons, bytesAt, first, List.drop_left' (natBits_length 8 b.toNat), ih]
    exact congrArg (· :: body) (BitVec.ofNat_toNat 8 b |>.trans (BitVec.setWidth_eq b))

theorem bitField_of_split {plain before behind : List Bool} {start width : Nat} {v : BitVec width}
    (split : plain = before ++ natBits width v.toNat ++ behind) (here : before.length = start) :
    bitField start width plain = v.toNat := by
  rw [split, bitField_append here, Nat.mod_eq_of_lt v.isLt]

theorem lengthField_frameBits (f : Frame) (more : List Bool) : lengthField (frameBits f ++ more) = f.length.toNat :=
  bitField_of_split (before := [false] ++ natBits 2 f.cls.toNat ++ natBits 5 f.complement.toNat ++
      natBits 5 f.kind.toNat ++ natBits 5 f.dest.toNat)
    (behind := f.body.flatMap (fun b => natBits 8 b.toNat) ++ natBits 16 f.check.toNat ++ more)
    (by simp [frameBits, coveredBits]) (by simp)

/-- The fields of a frame are read out of its bits (R167). -/
theorem splitFrame_frameBits (agree : f.body.length = f.length.toNat) (more : List Bool) :
    splitFrame (frameBits f ++ more) = f := by
  have length := lengthField_frameBits f more
  let body := f.body.flatMap fun b => natBits 8 b.toNat
  let head := [false] ++ natBits 2 f.cls.toNat ++ natBits 5 f.complement.toNat ++ natBits 5 f.kind.toNat ++
    natBits 5 f.dest.toNat ++ natBits 9 f.length.toNat
  have whole : frameBits f ++ more = head ++ (body ++ (natBits 16 f.check.toNat ++ more)) := by
    simp [frameBits, coveredBits, head, body]
  have headLength : head.length = headerBits := by simp [head, headerBits]
  have cls : bitField 1 2 (frameBits f ++ more) = f.cls.toNat :=
    bitField_of_split (before := [false]) (behind := _) (by simp [frameBits]; rfl) rfl
  have complement : bitField 3 5 (frameBits f ++ more) = f.complement.toNat :=
    bitField_of_split (before := [false] ++ natBits 2 f.cls.toNat) (behind := _) (by simp [frameBits]; rfl) (by simp)
  have kind : bitField 8 5 (frameBits f ++ more) = f.kind.toNat :=
    bitField_of_split (before := [false] ++ natBits 2 f.cls.toNat ++ natBits 5 f.complement.toNat) (behind := _)
      (by simp [frameBits, coveredBits]; rfl) (by simp)
  have dest : bitField 13 5 (frameBits f ++ more) = f.dest.toNat :=
    bitField_of_split (before := [false] ++ natBits 2 f.cls.toNat ++ natBits 5 f.complement.toNat ++ natBits 5 f.kind.toNat)
      (behind := _) (by simp [frameBits, coveredBits]; rfl) (by simp)
  have bytes : bytesAt f.length.toNat ((frameBits f ++ more).drop headerBits) = f.body := by
    rw [whole, List.drop_left' headLength, ← agree]
    exact bytesAt_flatMap ..
  have check : bitField (headerBits + 8 * f.length.toNat) 16 (frameBits f ++ more) = f.check.toNat := by
    refine bitField_of_split (before := head ++ body) (behind := more) (by rw [whole]; simp) ?_
    have bodyLength : body.length = 8 * f.body.length := by simp [body, List.length_flatMap, Nat.mul_comm]
    rw [List.length_append, headLength, bodyLength, agree]
  unfold splitFrame
  dsimp only
  rw [length, cls, complement, kind, dest, bytes, check]
  simp

/-! ## The receiver -/

/-- The body length field, once it has been read, is what it is whatever comes behind. -/
theorem lengthField_append {plain : List Bool} (read : headerBits ≤ plain.length) (behind : List Bool) :
    lengthField (plain ++ behind) = lengthField plain := by
  unfold headerBits at read
  unfold lengthField bitField
  rw [List.drop_append_of_le_length (by omega), List.take_append_of_le_length (by rw [List.length_drop]; omega)]

/-- No beginning of a frame's bits makes a receiver discard it. -/
theorem receive_take_ne_discarded (short : f.length.toNat ≤ Config.maxBody) (n : Nat) :
    receive ((stuff (frameBits f)).take n) ≠ .discarded := by
  rw [frameBits_eq]
  obtain _ | n := n
  · rw [List.take_zero]
    decide
  obtain ⟨m, done⟩ := destuffFrom_take_stuffFrom (frameTail f) n (last := false) (count := 1) (by decide)
  have begins : ((stuff (false :: frameTail f)).take (n + 1)).dropWhile id = false :: (stuffFrom false 1 (frameTail f)).take n := rfl
  have read : destuff (((stuff (false :: frameTail f)).take (n + 1)).dropWhile id) = (false :: (frameTail f).take m, false) := by
    rw [begins]
    show (false :: (destuffFrom false 1 _).1, (destuffFrom false 1 _).2) = _
    rw [done]
  have field (here : headerBits ≤ (false :: (frameTail f).take m).length) :
      lengthField (false :: (frameTail f).take m) = f.length.toNat := by
    rw [← lengthField_append here ((frameTail f).drop m), List.cons_append, List.take_append_drop, ← frameBits_eq,
      ← List.append_nil (frameBits f)]
    exact lengthField_frameBits f []
  unfold receive
  dsimp only
  rw [read]
  dsimp only
  rw [if_neg fun h => absurd h.2 (Nat.not_lt.mpr (by rw [field h.1]; exact short))]
  split
  · exact nofun
  · exact nofun

/-- Behind five bits of one level that leave the reading whole, a sixth is a violation. -/
theorem destuffFrom_six (before : List Bool) (b : Bool) {last : Bool} {count : Nat} (some' : 1 ≤ count) (most : count ≤ 5)
    (five : (destuffFrom last count (before ++ List.replicate 5 b)).2 = false) :
    destuffFrom last count (before ++ List.replicate 6 b) =
      ((destuffFrom last count (before ++ List.replicate 5 b)).1, true) := by
  induction before generalizing last count with
  | nil =>
    have all : ∀ last b : Bool, ∀ count < 6, 1 ≤ count → (destuffFrom last count (List.replicate 5 b)).2 = false →
        destuffFrom last count (List.replicate 6 b) = ((destuffFrom last count (List.replicate 5 b)).1, true) := by decide
    exact all last b count (Nat.lt_succ_of_le most) some' five
  | cons c before ih =>
    obtain few | rfl := Nat.lt_or_eq_of_le most
    · have start : 1 ≤ runCount last count c := by
        unfold runCount
        split <;> omega
      rw [List.cons_append, destuffFrom_cons few] at five ⊢
      rw [List.cons_append, destuffFrom_cons few, ih start (runCount_le few) five]
    · by_cases same : c = last
      · subst same
        rw [List.cons_append, destuffFrom, if_pos rfl, if_pos rfl] at five
        exact absurd five nofun
      · have stuffed (bits : List Bool) : destuffFrom last 5 (c :: bits) = destuffFrom c 1 bits := by
          rw [destuffFrom, if_pos rfl, if_neg same]
        rw [List.cons_append, stuffed] at five ⊢
        rw [List.cons_append, stuffed]
        exact ih (by decide) (by decide) five

theorem destuff_six (before : List Bool) (b : Bool) (begun : b = false ∨ false ∈ before)
    (five : (destuff ((before ++ List.replicate 5 b).dropWhile id)).2 = false) :
    destuff ((before ++ List.replicate 6 b).dropWhile id) =
      ((destuff ((before ++ List.replicate 5 b).dropWhile id)).1, true) := by
  rw [List.dropWhile_append, List.dropWhile_append] at *
  cases left : before.dropWhile id with
  | nil =>
    have all := List.dropWhile_eq_nil_iff.mp left
    obtain rfl | mem := begun
    · rfl
    · exact absurd (all false mem) nofun
  | cons c rest =>
    rw [left] at five
    simp only [List.isEmpty_cons, Bool.false_eq_true, if_false] at *
    show (c :: (destuffFrom c 1 (rest ++ List.replicate 6 b)).1, (destuffFrom c 1 (rest ++ List.replicate 6 b)).2) = _
    rw [destuffFrom_six rest b (by decide) (by decide) five]
    rfl

theorem claims_frameReadFromItsBits : Claims.FrameReadFromItsBits := by
  refine ⟨fun f agree short => ⟨fun idle behind => ?_, fun n => ?_⟩, fun f idle behind long => ?_, ?_⟩
  · obtain ⟨more, violated, read⟩ := exists_destuff_frameBits f idle behind
    have length := lengthField_frameBits f more
    rw [receive_of_span (by rw [read, length, ← agree]; exact short)
      (by rw [read, length, List.length_append, frameBits_length, agree]; exact Nat.le_add_right ..), read,
      splitFrame_frameBits agree]
  · exact receive_take_ne_discarded (by rw [← agree]; exact short) n
  · obtain ⟨more, violated, read⟩ := exists_destuff_frameBits f idle behind
    have length := lengthField_frameBits f more
    refine receive_of_overlong ?_ (by rw [read, length]; exact long)
    rw [read, List.length_append, frameBits_length]
    unfold frameSpan headerBits
    omega
  · intro before b begun unfinished
    have five : (destuff ((before ++ List.replicate 5 b).dropWhile id)).2 = false := by
      unfold receive at unfinished
      dsimp only at unfinished
      split at unfinished
      · exact absurd unfinished nofun
      split at unfinished
      · exact absurd unfinished nofun
      split at unfinished
      · exact absurd unfinished nofun
      · exact Bool.eq_false_iff.mpr ‹_›
    have six := destuff_six before b begun five
    unfold receive at unfinished ⊢
    dsimp only at unfinished ⊢
    rw [six]
    split at unfinished
    · exact absurd unfinished nofun
    rename_i short
    split at unfinished
    · exact absurd unfinished nofun
    rename_i part
    rw [if_neg short, if_neg part]
    rfl

/-! ## The check (R168) -/

/-- The lowest bit behind a step says whether the register's highest bit was the bit covered. -/
theorem checkStep_getLsbD_zero (r : BitVec 16) (bit : Bool) : (checkStep r bit).getLsbD 0 = (r.msb != bit) := by
  unfold checkStep
  split
  · rename_i same
    simp [same]
  · rename_i other
    simp [other]

theorem shiftLeft_one_inj {r r' : BitVec 16} (shifted : r <<< 1 = r' <<< 1) (msb : r.msb = r'.msb) : r = r' := by
  have numbers := congrArg BitVec.toNat shifted
  rw [BitVec.toNat_shiftLeft, BitVec.toNat_shiftLeft, Nat.shiftLeft_eq, Nat.shiftLeft_eq] at numbers
  rw [BitVec.msb_eq_decide, BitVec.msb_eq_decide, decide_eq_decide] at msb
  have small := r.isLt
  have small' := r'.isLt
  refine BitVec.eq_of_toNat_eq ?_
  omega

/-- No two registers are the same behind a step over the same bit. -/
theorem checkStep_inj {r r' : BitVec 16} {bit : Bool} (same : checkStep r bit = checkStep r' bit) : r = r' := by
  have low := congrArg (BitVec.getLsbD · 0) same
  rw [checkStep_getLsbD_zero, checkStep_getLsbD_zero] at low
  have msb : r.msb = r'.msb := by
    revert low
    cases r.msb <;> cases r'.msb <;> cases bit <;> decide
  refine shiftLeft_one_inj ?_ msb
  unfold checkStep at same
  rw [msb] at same
  split at same
  · exact same
  · exact (BitVec.xor_left_inj _).mp same

theorem foldl_checkStep_inj {behind : List Bool} {r r' : BitVec 16}
    (same : behind.foldl checkStep r = behind.foldl checkStep r') : r = r' := by
  induction behind generalizing r r' with
  | nil => exact same
  | cons b behind ih => exact checkStep_inj (ih same)

/-- A bit and its opposite never take a register to the same value. -/
theorem checkStep_not_ne (r : BitVec 16) (bit : Bool) : checkStep r bit ≠ checkStep r (!bit) := by
  intro same
  have low := congrArg (BitVec.getLsbD · 0) same
  rw [checkStep_getLsbD_zero, checkStep_getLsbD_zero] at low
  revert low
  cases r.msb <;> cases bit <;> decide

theorem claims_singleBitErrorFailsCheck : Claims.SingleBitErrorFailsCheck := by
  intro before behind b same
  unfold checkOf at same
  rw [List.foldl_append, List.foldl_append, List.foldl_cons, List.foldl_cons] at same
  exact checkStep_not_ne _ b (foldl_checkStep_inj same)

/-- Settles O4: stuffed bits read back, a frame read from its bits, and the check's answer to a single error. -/
theorem bitsOnTheLine : Obligations.BitsOnTheLine :=
  ⟨claims_stuffedBitsReadBack, claims_frameReadFromItsBits, claims_singleBitErrorFailsCheck⟩

end Sys2Proof
end

section
/-! A frame built and read back (R167, R175, R178). -/

namespace Sys2Proof

variable {h : Header} {kind : FrameKind} {body : List Byte} {i : Instr}

/-! ## Fields -/

theorem byteOf_toNat {n : Nat} (fits : isByte n = true) : (byteOf n).toNat = n :=
  (BitVec.toNat_ofNat n 8).trans (Nat.mod_eq_of_lt (of_decide_eq_true fits))

theorem fieldOf_twoBytes {n : Nat} (fits : isField n = true) : fieldOf (byteOf (n / 256)) (byteOf n) = n := by
  have small : n < 65536 := of_decide_eq_true fits
  unfold fieldOf byteOf
  rw [BitVec.toNat_ofNat, BitVec.toNat_ofNat]
  omega

theorem flatMap_twoBytes_length (ns : List Nat) : (ns.flatMap twoBytes).length = 2 * ns.length := by
  induction ns with
  | nil => rfl
  | cons n ns ih =>
    rw [List.flatMap_cons, List.length_append, ih, List.length_cons]
    show 2 + _ = _
    omega

theorem fieldsOf_flatMap {ns : List Nat} (fit : ns.all isField = true) : fieldsOf (ns.flatMap twoBytes) = ns := by
  induction ns with
  | nil => rfl
  | cons n ns ih =>
    rw [List.all_cons, Bool.and_eq_true] at fit
    show fieldOf (byteOf (n / 256)) (byteOf n) :: fieldsOf (ns.flatMap twoBytes) = _
    rw [fieldOf_twoBytes fit.1, ih fit.2]

theorem idOf_idBytes {id : GalleyId} (fits : id.wellFormed = true) : idOf (byteOf id.poster) (byteOf id.serial) = id := by
  obtain ⟨poster, serial⟩ := Bool.and_eq_true_iff.mp fits
  unfold idOf
  rw [byteOf_toNat poster, byteOf_toNat serial]

/-- The units of a segment as two-byte fields. -/
theorem fieldsOf_units (units : List CodeWord) :
    (fieldsOf (units.flatMap fun u => twoBytes u.toNat)).map (BitVec.ofNat 16) = units := by
  have fields : units.flatMap (fun u => twoBytes u.toNat) = (units.map BitVec.toNat).flatMap twoBytes :=
    (List.flatMap_map ..).symm
  rw [fields, fieldsOf_flatMap (List.all_eq_true.mpr fun n mem => ?_), List.map_map]
  · exact (List.map_congr_left fun u _ => BitVec.ofNat_toNat 16 u |>.trans (BitVec.setWidth_eq u)).trans (List.map_id' units)
  · obtain ⟨u, -, rfl⟩ := List.mem_map.mp mem
    exact decide_eq_true u.isLt

/-! ## The frame -/

theorem FrameKind.ofCode_code (kind : FrameKind) : FrameKind.ofCode kind.code = some kind := by cases kind <;> rfl

theorem FrameKind.code_lt (kind : FrameKind) : kind.code < 32 := by cases kind <;> decide

theorem FrameKind.cls_lt (kind : FrameKind) : kind.cls < 4 := by cases kind <;> decide

theorem readFrame_of_fields {f : Frame} (passes : f.passes = true) (length : f.length.toNat = f.body.length)
    (short : f.body.length ≤ 259) (code : f.kind.toNat = kind.code) (cls : f.cls.toNat = kind.cls)
    (header : ({ sender := 31 - f.complement.toNat, dest := f.dest.toNat } : Header) = h) :
    readFrame f = readBody kind h f.body := by
  unfold readFrame
  rw [if_pos ⟨passes, length, by rw [length]; exact short⟩, code, kind.ofCode_code]
  dsimp only
  rw [if_pos cls, header]

theorem buildFrame_passes (sender : Nat) (dest : BitVec 5) : (buildFrame kind sender dest body).passes = true := by
  simp only [Frame.passes, buildFrame, beq_self_eq_true]

/-- A frame is read as its body is (R175). -/
theorem readFrame_buildFrame (fits : h.wellFormed = true) (short : body.length ≤ 259) :
    readFrame (buildFrame kind h.sender (BitVec.ofNat 5 h.dest) body) = readBody kind h body := by
  obtain ⟨sender, dest⟩ := Bool.and_eq_true_iff.mp fits
  have sender' : h.sender < 32 := of_decide_eq_true sender
  have dest' : h.dest < 32 := of_decide_eq_true dest
  have code := kind.code_lt
  have cls := kind.cls_lt
  have length : (BitVec.ofNat 9 body.length).toNat = body.length := by
    rw [BitVec.toNat_ofNat]
    omega
  have header : ({ sender := 31 - (BitVec.ofNat 5 (31 - h.sender)).toNat, dest := (BitVec.ofNat 5 h.dest).toNat } : Header) = h := by
    rw [BitVec.toNat_ofNat, BitVec.toNat_ofNat, Nat.mod_eq_of_lt (by omega), Nat.mod_eq_of_lt (by omega),
      Nat.sub_sub_self (by omega)]
  have kind' : (BitVec.ofNat 5 kind.code).toNat = kind.code := by
    rw [BitVec.toNat_ofNat]
    omega
  have cls' : (BitVec.ofNat 2 kind.cls).toNat = kind.cls := by
    rw [BitVec.toNat_ofNat]
    omega
  exact readFrame_of_fields (buildFrame_passes ..) length short kind' cls' header

/-! ## The bodies (R178) -/

/-- The body of a posting is read as the posting. -/
theorem readBody_galleyPosted {p : Posting} (fits : p.wellFormed = true) :
    readBody .galleyPosted h
        (idBytes p.id ++ [byteOf p.priority, byteOf p.mode] ++ twoBytes p.firstLine ++ twoBytes p.lastLine ++
          [byteOf p.stock, byteOf p.policy] ++ twoBytes p.length ++ [byteOf p.fonts.length] ++ p.fonts.flatMap twoBytes) =
      some (.galleyPosted h p) := by
  simp only [Posting.wellFormed, Bool.and_eq_true, decide_eq_true_eq] at fits
  obtain ⟨⟨⟨⟨⟨⟨⟨⟨⟨id, priority⟩, mode⟩, first⟩, last⟩, stock⟩, policy⟩, length⟩, fonts⟩, short⟩ := fits
  have short' : 13 + 2 * p.fonts.length ≤ 259 := short
  have count : (byteOf p.fonts.length).toNat = p.fonts.length := byteOf_toNat (decide_eq_true (by omega))
  refine (if_pos ((flatMap_twoBytes_length _).trans (by rw [count]))).trans ?_
  rw [idOf_idBytes id, byteOf_toNat priority, byteOf_toNat mode, fieldOf_twoBytes first, fieldOf_twoBytes last,
    byteOf_toNat stock, byteOf_toNat policy, fieldOf_twoBytes length,
    show fieldsOf ([].append (p.fonts.flatMap twoBytes)) = p.fonts from fieldsOf_flatMap fonts]

theorem readBody_textSegment {id : GalleyId} {number : Nat} {units : List CodeWord} (fits : id.wellFormed = true)
    (field : isField number = true) (short : units.length < 128) :
    readBody .textSegment h (idBytes id ++ twoBytes number ++ [byteOf units.length] ++ units.flatMap fun u => twoBytes u.toNat) =
      some (.textSegment h id number units) := by
  have count : (byteOf units.length).toNat = units.length := byteOf_toNat (decide_eq_true (by omega))
  have length : (units.flatMap fun u => twoBytes u.toNat).length = 2 * units.length := by
    rw [show units.flatMap (fun u => twoBytes u.toNat) = (units.map BitVec.toNat).flatMap twoBytes from
      (List.flatMap_map ..).symm, flatMap_twoBytes_length, List.length_map]
  refine (if_pos (length.trans (by rw [count]))).trans ?_
  rw [idOf_idBytes fits, fieldOf_twoBytes field,
    show (fieldsOf ([].append (units.flatMap fun u => twoBytes u.toNat))).map (BitVec.ofNat 16) = units from fieldsOf_units units]

/-- Each command's body is read as the command (R178). -/
theorem readBody_bodyOf (fits : i.wellFormed = true) (frame : bodyOf i = some (kind, h, body)) :
    h.wellFormed = true ∧ body.length ≤ 259 ∧ readBody kind h body = some i := by
  cases i with
  | galleyPosted h p =>
    cases frame
    obtain ⟨header, posting⟩ := Bool.and_eq_true_iff.mp fits
    refine ⟨header, ?_, readBody_galleyPosted posting⟩
    have short : 13 + 2 * p.fonts.length ≤ 259 := of_decide_eq_true (Bool.and_eq_true_iff.mp posting).2
    simp only [List.length_append, flatMap_twoBytes_length]
    exact short
  | galleyClaim h id =>
    cases frame
    obtain ⟨header, id'⟩ := Bool.and_eq_true_iff.mp fits
    exact ⟨header, (by decide : 2 ≤ 259), congrArg (fun id => some (Instr.galleyClaim h id)) (idOf_idBytes id')⟩
  | galleyCancel h id =>
    cases frame
    obtain ⟨header, id'⟩ := Bool.and_eq_true_iff.mp fits
    exact ⟨header, (by decide : 2 ≤ 259), congrArg (fun id => some (Instr.galleyCancel h id)) (idOf_idBytes id')⟩
  | textSegment h id number units =>
    cases frame
    simp only [Instr.wellFormed, Bool.and_eq_true, decide_eq_true_eq] at fits
    obtain ⟨⟨⟨header, id'⟩, field⟩, short⟩ := fits
    have short' : 5 + 2 * units.length ≤ 259 := short
    refine ⟨header, ?_, readBody_textSegment id' field (by omega)⟩
    have length : (units.flatMap fun u => twoBytes u.toNat).length = 2 * units.length := by
      rw [show units.flatMap (fun u => twoBytes u.toNat) = (units.map BitVec.toNat).flatMap twoBytes from
        (List.flatMap_map ..).symm, flatMap_twoBytes_length, List.length_map]
    rw [List.length_append, length]
    exact short'
  | textCredit h id limit =>
    cases frame
    simp only [Instr.wellFormed, Bool.and_eq_true] at fits
    obtain ⟨⟨header, id'⟩, field⟩ := fits
    refine ⟨header, (by decide : 4 ≤ 259), ?_⟩
    show some (Instr.textCredit h (idOf (byteOf id.poster) (byteOf id.serial)) (fieldOf (byteOf (limit / 256)) (byteOf limit))) = _
    rw [idOf_idBytes id', fieldOf_twoBytes field]
  | galleyReport h id event reason counters =>
    cases frame
    simp only [Instr.wellFormed, Bool.and_eq_true, decide_eq_true_eq] at fits
    obtain ⟨⟨⟨⟨⟨header, id'⟩, event'⟩, reason'⟩, eleven⟩, fields⟩ := fits
    have length : (counters.flatMap twoBytes).length = 22 := by rw [flatMap_twoBytes_length, eleven]
    refine ⟨header, ?_, ?_⟩
    · show (idBytes id ++ [byteOf event, byteOf reason] ++ counters.flatMap twoBytes).length ≤ 259
      rw [List.length_append, length]
      exact (by decide : 26 ≤ 259)
    · refine (if_pos length).trans ?_
      rw [idOf_idBytes id', byteOf_toNat event', byteOf_toNat reason',
        show fieldsOf ([].append (counters.flatMap twoBytes)) = counters from fieldsOf_flatMap fields]
  | proofWanted h id first last =>
    cases frame
    simp only [Instr.wellFormed, Bool.and_eq_true] at fits
    obtain ⟨⟨⟨header, id'⟩, first'⟩, last'⟩ := fits
    refine ⟨header, (by decide : 6 ≤ 259), ?_⟩
    show some (Instr.proofWanted h (idOf (byteOf id.poster) (byteOf id.serial)) (fieldOf (byteOf (first / 256)) (byteOf first))
      (fieldOf (byteOf (last / 256)) (byteOf last))) = _
    rw [idOf_idBytes id', fieldOf_twoBytes first', fieldOf_twoBytes last']
  | fontWanted h font =>
    cases frame
    obtain ⟨header, field⟩ := Bool.and_eq_true_iff.mp fits
    exact ⟨header, (by decide : 2 ≤ 259), congrArg (fun font => some (Instr.fontWanted h font)) (fieldOf_twoBytes field)⟩
  | fontOffer h font asker total =>
    cases frame
    simp only [Instr.wellFormed, Bool.and_eq_true] at fits
    obtain ⟨⟨⟨header, field⟩, asker'⟩, total'⟩ := fits
    refine ⟨header, (by decide : 4 ≤ 259), ?_⟩
    show some (Instr.fontOffer h (fieldOf (byteOf (font / 256)) (byteOf font)) (byteOf asker).toNat (byteOf total).toNat) = _
    rw [fieldOf_twoBytes field, byteOf_toNat asker', byteOf_toNat total']
  | fontTake h font lender first =>
    cases frame
    simp only [Instr.wellFormed, Bool.and_eq_true] at fits
    obtain ⟨⟨⟨header, field⟩, lender'⟩, first'⟩ := fits
    refine ⟨header, (by decide : 4 ≤ 259), ?_⟩
    show some (Instr.fontTake h (fieldOf (byteOf (font / 256)) (byteOf font)) (byteOf lender).toNat (byteOf first).toNat) = _
    rw [fieldOf_twoBytes field, byteOf_toNat lender', byteOf_toNat first']
  | fontBlock h font index data =>
    cases frame
    simp only [Instr.wellFormed, Bool.and_eq_true, decide_eq_true_eq] at fits
    obtain ⟨⟨⟨header, field⟩, index'⟩, length⟩ := fits
    refine ⟨header, ?_, (if_pos length).trans ?_⟩
    · show (twoBytes font ++ [byteOf index] ++ data).length ≤ 259
      rw [List.length_append, length]
      exact (by decide : 259 ≤ 259)
    · rw [fieldOf_twoBytes field, byteOf_toNat index']
      rfl
  | wordLearned h word =>
    cases frame
    obtain ⟨header, short⟩ := Bool.and_eq_true_iff.mp fits
    exact ⟨header, of_decide_eq_true short, rfl⟩
  | stationHalt h | stationRelease h | stationReset h =>
    cases frame
    exact ⟨fits, (by decide : 0 ≤ 259), rfl⟩
  | _ => cases frame

/-- Settles O3: the fields of each kind's body, the frame about them, and the bits that are sent for it. -/
theorem frameReadBack : Obligations.FrameReadBack := by
  intro i f fits frame
  obtain ⟨⟨kind, h, body⟩, is, rfl⟩ := Option.map_eq_some_iff.mp frame
  obtain ⟨header, short, reads⟩ := readBody_bodyOf fits is
  have back := (readFrame_buildFrame header short).trans reads
  refine ⟨back, fun idle behind => ?_⟩
  have length : (BitVec.ofNat 9 body.length).toNat = body.length := by
    rw [BitVec.toNat_ofNat]
    omega
  have received := (claims_frameReadFromItsBits.1 (buildFrame kind h.sender (BitVec.ofNat 5 h.dest) body) length.symm
    short).1 idle behind
  unfold readBits
  rw [received]
  exact back

end Sys2Proof
end

section
/-! The pin counts and the allocation's evictions: the references counted afresh (R97), and what an allocation leaves alone
(R99). -/

namespace Sys2Proof.Machine

variable {fs made : FontStore} {font total : Nat} {lendable : Bool} {s : State}

/-! ## The references counted afresh (R97) -/

theorem FontStore.recount_wants_not_deferred {references : Nat → Nat}
    (fell : ∃ e ∈ fs.directory, e.state ≠ .free ∧ 0 < e.pins ∧ references e.font = 0) :
    ∀ w ∈ (fs.recount references).wants, w.state ≠ .deferred := by
  obtain ⟨e, mem, dropped⟩ := fell
  have some : (fs.directory.any fun e => e.state ≠ .free ∧ 0 < e.pins ∧ references e.font = 0) = true :=
    List.any_eq_true.mpr ⟨e, mem, decide_eq_true dropped⟩
  unfold FontStore.recount
  dsimp only
  rw [if_pos some]
  intro w mem
  obtain ⟨w, -, rfl⟩ := List.mem_map.mp mem
  split
  · exact nofun
  · assumption

theorem claims_pinsCountReferences : Claims.PinsCountReferences := by
  refine fun s => ⟨fun e mem held => ?_, FontStore.recount_wants_not_deferred⟩
  have counted : e ∈ s.fonts.directory.map (DirEntry.recounted s.references) :=
    FontStore.recount_directory (fs := s.fonts) s.references ▸ mem
  obtain ⟨before, -, rfl⟩ := List.mem_map.mp counted
  rw [DirEntry.recounted_state] at held
  have pins : (before.recounted s.references).pins = s.references (before.recounted s.references).font := by
    rw [DirEntry.recounted_font, DirEntry.recounted, if_neg held]
  rw [pins, State.references, List.countP_eq_length_filter]

/-! ## Evictions (R99) -/

/-- An entry as an eviction leaves it: untouched, or FREE where it was RESIDENT without a pin. -/
def DirEntry.Spared (e e' : DirEntry) : Prop := e' = e ∨ (e' = DirEntry.unused ∧ e.state = .resident ∧ e.pins = 0)

/-- An entry that may be evicted, or has been. -/
def DirEntry.Evictable (e : DirEntry) : Prop := e = DirEntry.unused ∨ (e.state = .resident ∧ e.pins = 0)

theorem DirEntry.Spared.refl (e : DirEntry) : e.Spared e := .inl rfl

theorem DirEntry.Spared.trans {a b c : DirEntry} (h : a.Spared b) (k : b.Spared c) : a.Spared c := by
  obtain rfl | ⟨rfl, free⟩ := h
  · exact k
  · obtain rfl | ⟨rfl, -⟩ := k <;> exact .inr ⟨rfl, free⟩

theorem forall₂_spared_refl (es : List DirEntry) : List.Forall₂ DirEntry.Spared es es :=
  List.forall₂_same.mpr fun e _ => .refl e

theorem forall₂_spared_trans {as bs cs : List DirEntry} (h : List.Forall₂ DirEntry.Spared as bs)
    (k : List.Forall₂ DirEntry.Spared bs cs) : List.Forall₂ DirEntry.Spared as cs := by
  induction h generalizing cs with
  | nil => cases k; exact .nil
  | cons here _ ih =>
    cases k with
    | cons there rest => exact .cons (here.trans there) (ih rest)

/-- An eviction spares every entry but the one at its index. -/
theorem forall₂_spared_set {es : List DirEntry} {index : Nat} (evictable : ∀ e, es[index]? = some e → e.Evictable) :
    List.Forall₂ DirEntry.Spared es (es.set index DirEntry.unused) := by
  induction es generalizing index with
  | nil => exact .nil
  | cons e es ih =>
    cases index with
    | zero =>
      refine .cons ?_ (forall₂_spared_refl es)
      obtain rfl | free := evictable e rfl
      · exact .refl _
      · exact .inr ⟨rfl, free⟩
    | succ index => exact .cons (.refl e) (ih evictable)

/-- The candidates for eviction are RESIDENT and without a pin. -/
theorem FontStore.evictable_of_candidate {index : Nat} (candidate : index ∈ fs.candidates) {e : DirEntry}
    (at' : fs.directory[index]? = some e) : e.Evictable := by
  obtain ⟨⟨e', i⟩, listed, rfl⟩ := List.mem_map.mp candidate
  obtain ⟨numbered, may⟩ := List.mem_filter.mp (mem_orderBy.mp listed)
  have same : fs.directory[i]? = some e' := List.mem_zipIdx_iff_getElem?.mp numbered
  cases same.symm.trans at'
  exact .inr (of_decide_eq_true may)

/-- Room is made by evictions alone, and suffices (R99). -/
theorem FontStore.makeRoom_spared {k : Nat} {entryNeeded : Bool} {candidates : List Nat}
    (roomy : FontStore.makeRoom k entryNeeded candidates fs = some made)
    (evictable : ∀ i ∈ candidates, ∀ e, fs.directory[i]? = some e → e.Evictable) :
    List.Forall₂ DirEntry.Spared fs.directory made.directory ∧ made.hasRoom k entryNeeded = true := by
  induction candidates generalizing fs with
  | nil =>
    unfold FontStore.makeRoom at roomy
    split at roomy
    · cases roomy
      exact ⟨forall₂_spared_refl _, by assumption⟩
    · cases roomy
  | cons index rest ih =>
    unfold FontStore.makeRoom at roomy
    split at roomy
    · cases roomy
      exact ⟨forall₂_spared_refl _, by assumption⟩
    · have set := forall₂_spared_set (evictable index List.mem_cons_self)
      obtain ⟨spared, room⟩ := ih roomy fun i mem e at' => by
        have was : (fs.directory.set index DirEntry.unused)[i]? = some e := at'
        rw [List.getElem?_set] at was
        split at was
        · split at was
          · exact .inl (Option.some.inj was).symm
          · cases was
        · exact evictable i (List.mem_cons_of_mem _ mem) e was
      exact ⟨forall₂_spared_trans set spared, room⟩

theorem FontStore.makeRoom_candidates {k : Nat} {entryNeeded : Bool}
    (roomy : FontStore.makeRoom k entryNeeded fs.candidates fs = some made) :
    List.Forall₂ DirEntry.Spared fs.directory made.directory ∧ made.hasRoom k entryNeeded = true :=
  FontStore.makeRoom_spared roomy fun _ candidate _ at' => FontStore.evictable_of_candidate candidate at'

/-- An entry that is pinned, or not RESIDENT, is spared. -/
theorem mem_of_forall₂_spared {as bs : List DirEntry} (spared : List.Forall₂ DirEntry.Spared as bs) {e : DirEntry}
    (mem : e ∈ as) (kept : e.state ≠ .resident ∨ 0 < e.pins) : e ∈ bs := by
  induction spared with
  | nil => exact absurd mem List.not_mem_nil
  | cons here _ ih =>
    obtain rfl | mem := List.mem_cons.mp mem
    · obtain rfl | ⟨-, resident, unpinned⟩ := here
      · exact List.mem_cons_self
      · obtain kept | pinned := kept
        · exact absurd resident kept
        · omega
    · exact List.mem_cons_of_mem _ (ih mem)

/-! ## A new entry (R98, R99) -/

/-- The entry of a load from block 0. -/
def FontStore.newEntry (fs : FontStore) (font total : Nat) (lendable : Bool) : DirEntry where
  font := font
  state := .loading
  total := total
  present := 0
  blocks := fs.freeBlocks.take total
  lendable := lendable
  pins := 0
  stamp := fs.useCount
  metrics := none

/-- With a FREE entry, a new load takes its place, and the use count rises. -/
theorem FontStore.allocateNew_of_free (free : (fs.directory.any fun e => e.state = .free) = true) :
    ∃ (index : Nat) (e : DirEntry), fs.directory[index]? = some e ∧ e.state = .free ∧
      fs.allocateNew font total lendable =
        FontStore.advanceUse { fs with directory := fs.directory.set index (fs.newEntry font total lendable) } := by
  cases found : fs.freeEntry with
  | none =>
    obtain ⟨e, mem, state⟩ := List.any_eq_true.mp free
    have used := List.findIdx?_eq_none_iff.mp found e mem
    exact absurd state (by simpa using used)
  | some index =>
    obtain ⟨within, here, -⟩ := List.findIdx?_eq_some_iff_getElem.mp found
    refine ⟨index, fs.directory[index], List.getElem?_eq_getElem within, of_decide_eq_true here, ?_⟩
    unfold FontStore.allocateNew
    rw [found]
    rfl

theorem FontStore.hasRoom_iff {k : Nat} {entryNeeded : Bool} :
    fs.hasRoom k entryNeeded = true ↔
      k ≤ fs.freeBlocks.length ∧ (entryNeeded = true → (fs.directory.any fun e => e.state = .free) = true) := by
  unfold FontStore.hasRoom
  rw [Bool.and_eq_true, decide_eq_true_iff]
  cases entryNeeded <;> simp

theorem mem_set_of_ne {es : List DirEntry} {index : Nat} {e old new : DirEntry} (at' : es[index]? = some old)
    (mem : e ∈ es) (ne : e ≠ old) : e ∈ es.set index new := by
  obtain ⟨i, within, rfl⟩ := List.mem_iff_getElem.mp mem
  have other : index ≠ i := by
    rintro rfl
    exact ne (Option.some.inj ((List.getElem?_eq_getElem within).symm.trans at'))
  exact List.mem_iff_getElem?.mpr ⟨i, by rw [List.getElem?_set_ne other, List.getElem?_eq_getElem within]⟩

/-- The two ways an allocation is made, up to the restart of the DEFERRED entries. -/
theorem FontStore.allocate_cases (allocated : fs.allocate font total lendable = some made) :
    ∃ roomy : FontStore, (∃ directory, roomy = { fs with directory := directory }) ∧
      List.Forall₂ DirEntry.Spared fs.directory roomy.directory ∧
      ((fs.entry font = none ∧ roomy.hasRoom total true = true ∧
          (made = roomy.allocateNew font total lendable ∨
            made = (roomy.allocateNew font total lendable).restartDeferred)) ∨
        ((∃ e, fs.entry font = some e) ∧
          (made = roomy.allocateOutline font ∨ made = (roomy.allocateOutline font).restartDeferred))) := by
  unfold FontStore.allocate at allocated
  split at allocated
  · rename_i absent
    obtain ⟨roomy, room, rfl⟩ := Option.map_eq_some_iff.mp allocated
    obtain ⟨spared, has⟩ := FontStore.makeRoom_candidates room
    refine ⟨roomy, FontStore.makeRoom_alone room, spared, .inl ⟨absent, has, ?_⟩⟩
    dsimp only
    split
    · exact .inl rfl
    · exact .inr rfl
  · rename_i e found
    obtain ⟨roomy, room, rfl⟩ := Option.map_eq_some_iff.mp allocated
    refine ⟨roomy, FontStore.makeRoom_alone room, (FontStore.makeRoom_candidates room).1, .inr ⟨⟨e, found⟩, ?_⟩⟩
    dsimp only
    split
    · exact .inl rfl
    · exact .inr rfl

/-- R99 for a load from block 0: a FREE entry takes the load, and the rest of the directory is as the evictions left it. -/
theorem FontStore.allocateNew_of_hasRoom (has : fs.hasRoom total true = true) (few : fs.useCount < 65535) :
    ∃ (index : Nat) (old : DirEntry), fs.directory[index]? = some old ∧ old.state = .free ∧
      fs.allocateNew font total lendable =
        { fs with
          directory := fs.directory.set index (fs.newEntry font total lendable), useCount := fs.useCount + 1 } := by
  obtain ⟨index, old, at', free, made⟩ :=
    FontStore.allocateNew_of_free (font := font) (total := total) (lendable := lendable)
      ((FontStore.hasRoom_iff.mp has).2 rfl)
  exact ⟨index, old, at', free, made.trans (if_pos few)⟩

theorem claims_allocationSparesPinnedFonts : Claims.AllocationSparesPinnedFonts := by
  intro fs made font total lendable few allocated
  obtain ⟨roomy, ⟨directory, rfl⟩, spared, ⟨absent, has, made'⟩ | ⟨⟨e, found⟩, made'⟩⟩ :=
    FontStore.allocate_cases allocated
  · obtain ⟨index, old, at', free, new⟩ :=
      FontStore.allocateNew_of_hasRoom (font := font) (lendable := lendable) has few
    rw [new] at made'
    have same : made.directory = directory.set index
          (FontStore.newEntry { fs with directory := directory } font total lendable) ∧ made.memory = fs.memory := by
      obtain rfl | rfl := made' <;> exact ⟨rfl, rfl⟩
    obtain ⟨lists, memory⟩ := same
    refine ⟨fun e mem held kept => ⟨e, ?_, rfl, rfl, rfl, rfl, rfl⟩, ?_, memory, fun _ =>
      ⟨FontStore.newEntry { fs with directory := directory } font total lendable, ?_, rfl, rfl, rfl, rfl, rfl, rfl, rfl, ?_⟩⟩
    · rw [lists]
      refine mem_set_of_ne at' (mem_of_forall₂_spared spared mem kept) ?_
      rintro rfl
      exact held free
    · rw [lists, List.length_set]
      exact spared.length_eq.symm
    · rw [lists]
      exact List.mem_set (List.getElem?_eq_some_iff.mp at').1 _
    · exact (List.length_take ..).trans (min_eq_left (FontStore.hasRoom_iff.mp has).1)
  · have same : made.directory = (FontStore.allocateOutline { fs with directory := directory } font).directory ∧
        made.memory = fs.memory := by
      obtain rfl | rfl := made' <;> exact ⟨rfl, rfl⟩
    obtain ⟨lists, memory⟩ := same
    refine ⟨fun e mem held kept => ?_, ?_, memory, fun absent => ?_⟩
    · rw [lists]
      refine ⟨_, List.mem_map_of_mem (mem_of_forall₂_spared spared mem kept), ?_⟩
      split <;> exact ⟨rfl, rfl, rfl, rfl, rfl⟩
    · rw [lists]
      exact (List.length_map ..).trans spared.length_eq.symm
    · rw [absent] at found
      cases found

end Sys2Proof.Machine
end

section
/-! The pin counts against the references, at the font store: what each of its operations does to the directory (R97, R99,
R100, R101). -/

namespace Sys2Proof.Machine

variable {fs a b c made : FontStore} {font total : Nat} {lendable : Bool} {refs : Nat → Nat}

/-! ## The directory against references -/

/-- METRICS or RESIDENT. -/
def DirEntry.Ready (e : DirEntry) : Prop := e.state = .metrics ∨ e.state = .resident

theorem FontStore.atLeastMetrics_iff : fs.atLeastMetrics font = true ↔ ∃ e, fs.entry font = some e ∧ e.Ready := by
  unfold FontStore.atLeastMetrics
  cases fs.entry font with
  | none => simp
  | some e => simp [DirEntry.Ready]

/-- Every pin count is its font's references, and each font that is referenced is at least METRICS. -/
structure FontStore.Pinned (refs : Nat → Nat) (fs : FontStore) : Prop where
  agree : ∀ e ∈ fs.directory, e.state ≠ .free → e.pins = refs e.font
  held : ∀ font, 0 < refs font → fs.atLeastMetrics font = true

/-- What may become of a directory entry while the references stand: it is kept, it goes where nothing can reference it, or a
FREE one is taken for a font without a reference. -/
inductive DirEntry.Follows (refs : Nat → Nat) (e e' : DirEntry) : Prop
  | kept (held : e.state ≠ .free) (font : e'.font = e.font) (pins : e'.pins = e.pins) (stays : e'.state ≠ .free)
      (ready : e.Ready → 0 < refs e.font → e'.Ready)
  | gone (free : e'.state = .free) (loose : e.Ready → e.pins = 0)
  | taken (free : e.state = .free) (pins : e'.pins = 0) (apart : refs e'.font = 0)

theorem DirEntry.Follows.refl (e : DirEntry) : e.Follows refs e := by
  by_cases held : e.state = .free
  · exact .gone held fun ready => by rcases ready with ready | ready <;> rw [held] at ready <;> cases ready
  · exact .kept held rfl rfl held fun ready _ => ready

/-- A lookup in a list whose members follow those of another, none of them new: it finds the follower. -/
theorem find?_of_forall₂ {α : Type} {R : α → α → Prop} {p : α → Bool} {xs ys : List α} {x : α}
    (related : List.Forall₂ R xs ys) (found : xs.find? p = some x) (old : ∀ x y, R x y → p y = true → p x = true)
    (stays : ∀ y, R x y → p y = true) : ∃ y, ys.find? p = some y ∧ R x y := by
  induction related with
  | nil => cases found
  | cons here rest ih =>
    rw [List.find?_cons] at found
    split at found
    · cases found
      exact ⟨_, List.find?_cons_of_pos (stays _ here), here⟩
    · rename_i other
      rw [List.find?_cons_of_neg fun new => by rw [old _ _ here new] at other; cases other]
      exact ih found

theorem exists_mem_of_forall₂ {α β : Type} {R : α → β → Prop} {xs : List α} {ys : List β} (related : List.Forall₂ R xs ys)
    {y : β} (mem : y ∈ ys) : ∃ x ∈ xs, R x y := by
  induction related with
  | nil => exact absurd mem List.not_mem_nil
  | cons here _ ih =>
    obtain rfl | mem := List.mem_cons.mp mem
    · exact ⟨_, List.mem_cons_self, here⟩
    · obtain ⟨x, mem, rel⟩ := ih mem
      exact ⟨x, List.mem_cons_of_mem _ mem, rel⟩

theorem FontStore.Pinned.of_follows (h : a.Pinned refs)
    (follows : List.Forall₂ (DirEntry.Follows refs) a.directory b.directory) : b.Pinned refs where
  agree e' mem held := by
    obtain ⟨e, was, rel⟩ := exists_mem_of_forall₂ follows mem
    cases rel with
    | kept was' font pins => rw [pins, font, h.agree e was was']
    | gone free => exact absurd free held
    | taken _ pins apart => rw [pins, apart]
  held font used := by
    obtain ⟨e, found, ready⟩ := FontStore.atLeastMetrics_iff.mp (h.held font used)
    obtain ⟨mem, state, own⟩ := FontStore.entry_spec found
    have pinned : e.pins ≠ 0 := by
      rw [h.agree e mem state, own]
      exact used.ne'
    obtain ⟨e', found', rel⟩ := find?_of_forall₂ follows found
      (fun x y rel passes => by
        obtain ⟨there, same⟩ := of_decide_eq_true passes
        cases rel with
        | kept was font' => exact decide_eq_true ⟨was, font' ▸ same⟩
        | gone free => exact absurd free there
        | taken _ _ apart =>
          rw [same] at apart
          omega)
      (fun y rel => by
        cases rel with
        | kept _ font' _ stays => exact decide_eq_true ⟨stays, font'.trans own⟩
        | gone _ loose => exact absurd (loose ready) pinned
        | taken free => exact absurd free state)
    refine FontStore.atLeastMetrics_iff.mpr ⟨e', found', ?_⟩
    cases rel with
    | kept _ _ _ _ ready' => exact ready' ready (own ▸ used)
    | gone _ loose => exact absurd (loose ready) pinned
    | taken free => exact absurd free state

theorem FontStore.Pinned.of_map (h : a.Pinned refs) {f : DirEntry → DirEntry} (directory : b.directory = a.directory.map f)
    (follows : ∀ e, DirEntry.Follows refs e (f e)) : b.Pinned refs :=
  h.of_follows (directory ▸ List.forall₂_map_right_iff.mpr (List.forall₂_same.mpr fun e _ => follows e))

/-! ## The font store's operations -/

/-- The outbound channel is the same, and the pin counts agree with references where they did. -/
structure FontStore.PinsKept (a b : FontStore) : Prop where
  outbound : b.outbound = a.outbound
  pinned : ∀ refs, a.Pinned refs → b.Pinned refs

theorem FontStore.PinsKept.refl (a : FontStore) : a.PinsKept a := ⟨rfl, fun _ => id⟩

theorem FontStore.PinsKept.trans (h : a.PinsKept b) (k : b.PinsKept c) : a.PinsKept c :=
  ⟨k.outbound.trans h.outbound, fun refs => k.pinned refs ∘ h.pinned refs⟩

/-- The same, with the later operation named first. -/
theorem FontStore.PinsKept.after (k : b.PinsKept c) (h : a.PinsKept b) : a.PinsKept c := h.trans k

/-- An operation that leaves the directory and the outbound channel alone. -/
theorem FontStore.PinsKept.of_same (directory : b.directory = a.directory) (outbound : b.outbound = a.outbound) :
    a.PinsKept b :=
  ⟨outbound, fun _ h => h.of_map (f := id) (directory.trans (List.map_id _).symm) DirEntry.Follows.refl⟩

theorem FontStore.PinsKept.of_map {f : DirEntry → DirEntry} (directory : b.directory = a.directory.map f)
    (outbound : b.outbound = a.outbound) (follows : ∀ refs e, DirEntry.Follows refs e (f e)) : a.PinsKept b :=
  ⟨outbound, fun refs h => h.of_map directory (follows refs)⟩

theorem FontStore.PinsKept.updateWant (fs : FontStore) (font : Nat) (f : Want → Want) : fs.PinsKept (fs.updateWant font f) :=
  .of_same rfl rfl

theorem FontStore.PinsKept.withInbound (fs : FontStore) (i : Inbound) : fs.PinsKept { fs with inbound := i } :=
  .of_same rfl rfl

theorem FontStore.PinsKept.restartDeferred (fs : FontStore) : fs.PinsKept fs.restartDeferred := .of_same rfl rfl

theorem FontStore.PinsKept.prefetch (fs : FontStore) (font : Nat) : fs.PinsKept (fs.prefetch font) := by
  unfold FontStore.prefetch
  split
  · exact .refl fs
  · split
    · exact .of_same rfl rfl
    · exact .refl fs

theorem FontStore.PinsKept.foldl {f : FontStore → Nat → FontStore} (step : ∀ fs n, FontStore.PinsKept fs (f fs n))
    (xs : List Nat) (fs : FontStore) : fs.PinsKept (xs.foldl f fs) := by
  induction xs generalizing fs with
  | nil => exact .refl fs
  | cons n xs ih => exact (step fs n).trans (ih _)

theorem FontStore.PinsKept.advanceUse (fs : FontStore) : fs.PinsKept fs.advanceUse := by
  unfold FontStore.advanceUse
  split
  · exact .of_same rfl rfl
  · refine .of_map rfl rfl fun refs e => ?_
    split
    · exact .refl e
    · exact .kept (by assumption) rfl rfl (by assumption) fun ready _ => ready

theorem FontStore.PinsKept.stampUse (fs : FontStore) (fonts : List Nat) : fs.PinsKept (fs.stampUse fonts) := by
  unfold FontStore.stampUse
  split
  · exact .refl fs
  · refine (FontStore.PinsKept.advanceUse _).after (.of_map rfl rfl fun refs e => ?_)
    split
    · rename_i stamped
      exact .kept stamped.1 rfl rfl stamped.1 fun ready _ => ready
    · exact .refl e

/-- The end of an attempt frees only what is LOADING (R101). -/
theorem FontStore.PinsKept.endAttempt (fs : FontStore) (font : Nat) : fs.PinsKept (fs.endAttempt font) := by
  refine .of_map rfl rfl fun refs e => ?_
  split
  · rename_i loading
    exact .gone rfl fun ready => by rcases ready with ready | ready <;> rw [loading.2] at ready <;> cases ready
  · split
    · rename_i metrics
      have held : e.state ≠ .free := by rw [metrics.2]; exact nofun
      exact .kept held rfl rfl held fun ready _ => ready
    · exact .refl e

theorem FontStore.PinsKept.abandonCartridge (fs : FontStore) : fs.PinsKept fs.abandonCartridge := by
  unfold FontStore.abandonCartridge
  split
  · exact ((FontStore.PinsKept.endAttempt ..).trans (.updateWant ..)).trans (.withInbound ..)
  · exact .refl fs

/-! ## An allocation (R99) -/

/-- An entry evicted had no pin. -/
theorem DirEntry.Spared.follows {e e' : DirEntry} (h : e.Spared e') : e.Follows refs e' := by
  obtain rfl | ⟨rfl, -, unpinned⟩ := h
  · exact .refl _
  · exact .gone rfl fun _ => unpinned

theorem forall₂_follows_set {es : List DirEntry} {index : Nat} {old new : DirEntry} (at' : es[index]? = some old)
    (follows : old.Follows refs new) : List.Forall₂ (DirEntry.Follows refs) es (es.set index new) := by
  have same (es : List DirEntry) : List.Forall₂ (DirEntry.Follows refs) es es := List.forall₂_same.mpr fun e _ => .refl e
  induction es generalizing index with
  | nil => exact .nil
  | cons e es ih =>
    cases index with
    | zero =>
      cases at'
      exact .cons follows (same es)
    | succ index => exact .cons (.refl e) (ih at')

theorem FontStore.PinsKept.allocateOutline (fs : FontStore) (font : Nat) : fs.PinsKept (fs.allocateOutline font) := by
  refine .of_map rfl rfl fun refs e => ?_
  split
  · rename_i own
    exact .kept own.1 rfl rfl own.1 fun ready _ => ready
  · exact .refl e

/-- A font without a directory entry has no reference, so that a new entry for it starts without a pin. -/
theorem FontStore.PinsKept.allocate (allocated : fs.allocate font total lendable = some made) : fs.PinsKept made := by
  obtain ⟨roomy, ⟨directory, rfl⟩, spared, made'⟩ := FontStore.allocate_cases allocated
  have roomed : fs.PinsKept { fs with directory := directory } :=
    ⟨rfl, fun refs h => h.of_follows (spared.imp fun _ _ here => here.follows)⟩
  have restarted {fs' : FontStore} (h : fs.PinsKept fs') (made' : made = fs' ∨ made = fs'.restartDeferred) :
      fs.PinsKept made := by
    obtain rfl | rfl := made'
    · exact h
    · exact h.trans (.restartDeferred _)
  obtain ⟨absent, has, made'⟩ | ⟨-, made'⟩ := made'
  · refine restarted ?_ made'
    obtain ⟨index, old, at', free, new⟩ := FontStore.allocateNew_of_free (font := font) (total := total)
      (lendable := lendable) ((FontStore.hasRoom_iff.mp has).2 rfl)
    rw [new]
    refine (FontStore.PinsKept.advanceUse _).after ⟨rfl, fun refs h => ?_⟩
    refine (roomed.pinned refs h).of_follows (forall₂_follows_set at' (.taken free rfl ?_))
    by_contra used
    obtain ⟨e, found, -⟩ := FontStore.atLeastMetrics_iff.mp (h.held font (Nat.pos_of_ne_zero used))
    cases absent.symm.trans found
  · exact restarted (roomed.trans (.allocateOutline _ font)) made'

/-! ## A block stored (R100) -/

/-- A block stored makes METRICS or RESIDENT, and never less than before. -/
theorem FontStore.PinsKept.storeBlock (fs : FontStore) (font : Nat) (data : List Byte) :
    fs.PinsKept (fs.storeBlock font data) := by
  unfold FontStore.storeBlock
  split
  · exact .refl fs
  · rename_i e found
    obtain ⟨-, state, -⟩ := FontStore.entry_spec found
    dsimp only
    generalize reached : (if e.present + 1 = e.total then DirState.resident
      else if e.present + 1 = 2 then .metrics else e.state) = state'
    have stays : state' ≠ .free ∧ (e.Ready → state' = .metrics ∨ state' = .resident) := by
      subst reached
      split
      · exact ⟨nofun, fun _ => .inr rfl⟩
      split
      · exact ⟨nofun, fun _ => .inl rfl⟩
      · exact ⟨state, id⟩
    refine ⟨rfl, fun refs h => h.of_map rfl fun x => ?_⟩
    split
    · rename_i own
      refine .kept own.1 rfl rfl stays.1 fun _ used => stays.2 ?_
      obtain ⟨e', found', ready⟩ := FontStore.atLeastMetrics_iff.mp (h.held font (own.2 ▸ used))
      cases found.symm.trans found'
      exact ready
    · exact .refl x

end Sys2Proof.Machine
end

section
/-! The fonts that the line under construction uses (R44): the composer's own work brings in no other font. -/

namespace Sys2Proof.Machine

variable {c c' : Composer} {g : Galley} {how : Closing} {flags : Flags} {font : Nat} {u : Hyphenation} {fs : FontStore}

/-! ## Where a font is used -/

/-- The fonts of these boxes. -/
def boxFonts (boxes : List Box) : List Nat := boxes.filterMap Box.font?

theorem mem_boxFonts {boxes : List Box} : font ∈ boxFonts boxes ↔ ∃ b ∈ boxes, b.font? = some font := List.mem_filterMap

theorem boxFonts_mono {as bs : List Box} (sub : as ⊆ bs) : boxFonts as ⊆ boxFonts bs := fun _ mem => by
  obtain ⟨b, mem, font⟩ := mem_boxFonts.mp mem
  exact mem_boxFonts.mpr ⟨b, sub mem, font⟩

theorem LineBuild.boxFonts_eq (l : LineBuild) : l.items.filterMap Item.font? = boxFonts l.boxes := by
  unfold boxFonts LineBuild.boxes
  rw [List.filterMap_filterMap]
  refine List.filterMap_congr fun i _ => ?_
  cases i <;> rfl

/-- A font the line under construction uses: on the line, in the word, in a task, or in the waiting record (R44). -/
theorem Composer.mem_fontsInUse :
    font ∈ c.fontsInUse ↔
      font ∈ boxFonts c.line.boxes ∨ font ∈ boxFonts c.word.boxes ∨ (∃ t ∈ c.todo, font ∈ t.fonts) ∨
        ∃ r, c.waiting = some r ∧ font ∈ r.fonts := by
  unfold Composer.fontsInUse
  rw [List.mem_append, List.mem_append, List.mem_append, List.mem_flatMap, LineBuild.boxFonts_eq, or_assoc, or_assoc]
  show _ ∨ font ∈ boxFonts _ ∨ _ ∨ _ ↔ _
  cases c.waiting <;> simp

/-- A composer whose parts each use no font that the other does not. -/
theorem Composer.fontsInUse_subset (line : boxFonts c'.line.boxes ⊆ c.fontsInUse)
    (word : boxFonts c'.word.boxes ⊆ c.fontsInUse) (todo : ∀ t ∈ c'.todo, t.fonts ⊆ c.fontsInUse)
    (waiting : ∀ r, c'.waiting = some r → r.fonts ⊆ c.fontsInUse) : c'.fontsInUse ⊆ c.fontsInUse := fun font mem => by
  obtain mem | mem | ⟨t, task, mem⟩ | ⟨r, record, mem⟩ := Composer.mem_fontsInUse.mp mem
  · exact line mem
  · exact word mem
  · exact todo t task mem
  · exact waiting r record mem

theorem Composer.line_inUse (c : Composer) : boxFonts c.line.boxes ⊆ c.fontsInUse := fun _ mem =>
  Composer.mem_fontsInUse.mpr (.inl mem)

theorem Composer.word_inUse (c : Composer) : boxFonts c.word.boxes ⊆ c.fontsInUse := fun _ mem =>
  Composer.mem_fontsInUse.mpr (.inr (.inl mem))

theorem Composer.task_inUse {t : Task} (task : t ∈ c.todo) : t.fonts ⊆ c.fontsInUse := fun _ mem =>
  Composer.mem_fontsInUse.mpr (.inr (.inr (.inl ⟨t, task, mem⟩)))

theorem Composer.waiting_inUse {r : SetLine} (record : c.waiting = some r) : r.fonts ⊆ c.fontsInUse := fun _ mem =>
  Composer.mem_fontsInUse.mpr (.inr (.inr (.inr ⟨r, record, mem⟩)))

/-! ## The record of a line (R62) -/

/-- Each run of a line is of the font of one of its boxes. -/
theorem exists_box_of_run {placed : List (Box × Int)} {r : Run} (mem : r ∈ runsOf placed) :
    r.font ∈ boxFonts (placed.map Prod.fst) := by
  induction placed generalizing r with
  | nil => exact absurd mem List.not_mem_nil
  | cons b rest ih =>
    obtain ⟨box, x⟩ := b
    have later (old : r.font ∈ boxFonts (rest.map Prod.fst)) : r.font ∈ boxFonts (((box, x) :: rest).map Prod.fst) :=
      boxFonts_mono (List.subset_cons_self ..) old
    cases box with
    | fixed w => exact later (ih mem)
    | char code font size w =>
      have own : font ∈ boxFonts (((Box.char code font size w, x) :: rest).map Prod.fst) :=
        mem_boxFonts.mpr ⟨_, List.mem_cons_self, rfl⟩
      have runs : r ∈ consRun code font size x (runsOf rest) := mem
      cases behind : runsOf rest with
      | nil =>
        rw [behind] at runs
        obtain rfl := List.mem_singleton.mp runs
        exact own
      | cons first others =>
        rw [behind] at ih
        rw [behind, consRun_cons] at runs
        split at runs
        · rename_i same
          obtain rfl | mem := List.mem_cons.mp runs
          · exact same.1 ▸ own
          · exact later (ih (List.mem_cons_of_mem _ mem))
        · obtain rfl | mem := List.mem_cons.mp runs
          · exact own
          · exact later (ih mem)

/-- A record references only fonts of its line's boxes. -/
theorem Composer.record_fonts (c : Composer) (g : Galley) (how : Closing) (flags : Flags) :
    (c.record g how flags).fonts ⊆ boxFonts c.line.boxes := fun font mem => by
  obtain ⟨r, run, rfl⟩ := List.mem_map.mp (mem_distinct.mp mem)
  have box := exists_box_of_run run
  rwa [positions_map_fst] at box

theorem Composer.closeLine_fonts (c : Composer) (g : Galley) (how : Closing) :
    (c.closeLine g how).2.fonts ⊆ c.fontsInUse := fun _ mem => c.line_inUse (c.record_fonts g how _ mem)

/-! ## Lines closed (R35, R36, R41) -/

theorem Composer.closeUnit_fontsInUse (c : Composer) (g : Galley) : (c.closeUnit g).fontsInUse ⊆ c.fontsInUse := by
  refine Composer.fontsInUse_subset (fun _ mem => absurd mem List.not_mem_nil) c.word_inUse (fun t mem => ?_)
    fun r record => Composer.waiting_inUse record
  obtain rfl | mem := List.mem_cons.mp mem
  · exact c.closeLine_fonts g .unit
  · exact Composer.task_inUse mem

theorem Composer.closePara_fontsInUse (c : Composer) (g : Galley) : (c.closePara g).fontsInUse ⊆ c.fontsInUse :=
  c.closeUnit_fontsInUse g

theorem Composer.takeSpace_fontsInUse (c : Composer) (fs : FontStore) : (c.takeSpace fs).fontsInUse ⊆ c.fontsInUse := by
  unfold Composer.takeSpace
  split <;> exact List.Subset.refl _

theorem Composer.takeSpace_state (c : Composer) (fs : FontStore) : (c.takeSpace fs).state = c.state := by
  unfold Composer.takeSpace
  split <;> rfl

/-! ## The test of a word (R50 to R53) -/

/-- Boxes placed that use no font but the composer's. -/
theorem Composer.place_fontsInUse {boxes : List Box} (fonts : boxFonts boxes ⊆ c.fontsInUse) {w : Word}
    (word : boxFonts w.boxes ⊆ c.fontsInUse) : ({ c.place boxes with word := w } : Composer).fontsInUse ⊆ c.fontsInUse := by
  refine Composer.fontsInUse_subset (fun font mem => ?_) word (fun t mem => Composer.task_inUse (c := c) mem)
    fun r record => Composer.waiting_inUse (c := c) record
  have boxes' : font ∈ boxFonts (c.place boxes).line.boxes := mem
  rw [Composer.place_boxes] at boxes'
  obtain ⟨b, mem, own⟩ := mem_boxFonts.mp boxes'
  obtain mem | mem := List.mem_append.mp mem
  · exact c.line_inUse (mem_boxFonts.mpr ⟨b, mem, own⟩)
  · exact fonts (mem_boxFonts.mpr ⟨b, mem, own⟩)

/-- A hyphen is set in the font of a box before it (R52). -/
theorem pointBoxes_fonts {track : Int} {boxes placed : List Box} {p : Nat}
    (point : pointBoxes fs track boxes p = some placed) :
    boxFonts placed ⊆ boxFonts boxes := by
  have front : boxFonts (boxes.take p) ⊆ boxFonts boxes := boxFonts_mono (List.take_subset ..)
  unfold pointBoxes at point
  dsimp only at point
  split at point
  · cases point
    exact front
  · obtain ⟨h, hyphen, rfl⟩ := Option.map_eq_some_iff.mp point
    obtain ⟨⟨font, size⟩, face, rfl⟩ := Option.map_eq_some_iff.mp hyphen
    intro font' mem
    obtain ⟨b, mem, own⟩ := mem_boxFonts.mp mem
    obtain mem | mem := List.mem_append.mp mem
    · exact front (mem_boxFonts.mpr ⟨b, mem, own⟩)
    · obtain rfl := List.mem_singleton.mp mem
      cases own
      obtain ⟨before, code, width, behind, split, -⟩ := lastFace_eq_some_iff.mp face
      refine front (mem_boxFonts.mpr ⟨.char code font size width, ?_, rfl⟩)
      rw [split]
      exact List.mem_append_right _ List.mem_cons_self

theorem Composer.hyphenBreak_fonts {p : Nat} {placed : List Box} (best : c.hyphenBreak u fs = some (p, placed)) :
    boxFonts placed ⊆ boxFonts c.word.boxes := by
  unfold Composer.hyphenBreak at best
  split at best
  · rw [Composer.bestPoint_eq] at best
    obtain ⟨p', -, found⟩ := List.mem_filterMap.mp (List.mem_of_getLast? best)
    unfold Composer.pointPlaced at found
    split at found
    · rename_i boxes point
      split at found
      · cases found
        exact pointBoxes_fonts point
      · cases found
    · cases found
  · cases best

/-- A break behind which the composer uses no font but those on the line, in the word carried and in the tasks. -/
theorem Composer.broken_fontsInUse {w : Word} {todo : List Task} (line : boxFonts c'.line.boxes ⊆ c.fontsInUse)
    (word : boxFonts w.boxes ⊆ c.fontsInUse) (tasks : ∀ t ∈ todo, t.fonts ⊆ c.fontsInUse)
    (waiting : c'.waiting = c.waiting) :
    (c'.broken g how w todo).fontsInUse ⊆ c.fontsInUse := by
  refine Composer.fontsInUse_subset (fun _ mem => absurd mem List.not_mem_nil) word (fun t mem => ?_) fun r record =>
    Composer.waiting_inUse (waiting ▸ record)
  obtain rfl | mem := List.mem_cons.mp mem
  · exact fun _ mem => line (c'.record_fonts g how _ mem)
  obtain rfl | mem := List.mem_cons.mp mem
  · exact fun _ mem => absurd mem List.not_mem_nil
  · exact tasks t mem

theorem Composer.carried_inUse (c : Composer) (n : Nat) : boxFonts (c.word.carried n).boxes ⊆ c.fontsInUse := by
  rw [Word.carried_boxes]
  exact fun _ mem => c.word_inUse (boxFonts_mono (List.drop_subset ..) mem)

theorem Composer.place_line_inUse {boxes : List Box} (fonts : boxFonts boxes ⊆ boxFonts c.word.boxes) :
    boxFonts (c.place boxes).line.boxes ⊆ c.fontsInUse := by
  rw [Composer.place_boxes]
  intro font mem
  obtain ⟨b, mem, own⟩ := mem_boxFonts.mp mem
  obtain mem | mem := List.mem_append.mp mem
  · exact c.line_inUse (mem_boxFonts.mpr ⟨b, mem, own⟩)
  · exact c.word_inUse (fonts (mem_boxFonts.mpr ⟨b, mem, own⟩))

/-- The test of a word brings in no font. -/
theorem Composer.testWord_fontsInUse (c : Composer) (u : Hyphenation) (fs : FontStore) (g : Galley) :
    (c.testWord u fs g).fontsInUse ⊆ c.fontsInUse := by
  have tasks : ∀ t ∈ c.todo, t.fonts ⊆ c.fontsInUse := fun t mem => Composer.task_inUse mem
  have empty : boxFonts Word.empty.boxes ⊆ c.fontsInUse := fun _ mem => absurd mem List.not_mem_nil
  by_cases boxes : c.word.boxes = []
  · rw [Composer.testWord_of_no_boxes boxes]
    exact Composer.fontsInUse_subset c.line_inUse empty tasks fun r record => Composer.waiting_inUse record
  obtain ⟨taken, -⟩ | ⟨-, -, c', how, w, broken, breaks⟩ := c.testWord_cases u fs g
  · rw [Composer.testWord_of_fits boxes (taken.resolve_left boxes)]
    exact Composer.place_fontsInUse c.word_inUse empty
  · rw [broken]
    obtain ⟨-, -, rfl, rfl⟩ | ⟨-, ⟨p, placed, best, -, rfl, rfl⟩ | ⟨-, -, rfl, rfl⟩⟩ := breaks
    · exact Composer.broken_fontsInUse (Composer.place_line_inUse (boxFonts_mono (List.take_subset ..)))
        (c.carried_inUse _) tasks rfl
    · exact Composer.broken_fontsInUse (Composer.place_line_inUse (Composer.hyphenBreak_fonts best)) (c.carried_inUse _)
        tasks rfl
    · exact Composer.broken_fontsInUse (Composer.line_inUse _) (Composer.word_inUse _) tasks rfl

theorem Composer.testWord_state (c : Composer) (u : Hyphenation) (fs : FontStore) (g : Galley) :
    (c.testWord u fs g).state = c.state := by
  by_cases boxes : c.word.boxes = []
  · rw [Composer.testWord_of_no_boxes boxes]
  obtain ⟨taken, -⟩ | ⟨-, -, c', how, w, broken, breaks⟩ := c.testWord_cases u fs g
  · rw [Composer.testWord_of_fits boxes (taken.resolve_left boxes)]
    rfl
  · rw [broken]
    obtain ⟨-, -, rfl, -⟩ | ⟨-, ⟨_, _, -, -, rfl, -⟩ | ⟨-, -, rfl, -⟩⟩ := breaks <;> rfl

end Sys2Proof.Machine
end

section
/-! The pin counts against the references, at the station: what settling keeps of them (R44, R97). A change that may take
references away ends in a count afresh. -/

namespace Sys2Proof.Machine

variable {s t u : State} {font : Nat}

/-! ## References (R97) -/

/-- The font is offered or lent. -/
def Outbound.Lends (o : Outbound) (font : Nat) : Prop := (o.mode = .offered ∨ o.mode = .sending) ∧ o.font = font

theorem State.references_pos :
    0 < s.references font ↔
      (∃ r ∈ s.queue, font ∈ r.line.fonts) ∨ font ∈ s.composer.fontsInUse ∨ s.fonts.outbound.Lends font := by
  have counted : 0 < s.queue.countP (fun r => font ∈ r.line.fonts) ↔ ∃ r ∈ s.queue, font ∈ r.line.fonts := by
    rw [List.countP_pos_iff]
    simp only [decide_eq_true_eq]
  have one (p : Prop) [Decidable p] : 0 < (if p then 1 else 0 : Nat) ↔ p := by split <;> simp [*]
  have lent : 0 < (if (s.fonts.outbound.mode = .offered ∨ s.fonts.outbound.mode = .sending) ∧ s.fonts.outbound.font = font
      then 1 else 0 : Nat) ↔ s.fonts.outbound.Lends font := one _
  unfold State.references
  rw [Nat.add_pos_iff_pos_or_pos, Nat.add_pos_iff_pos_or_pos, counted, one, lent, or_assoc]

theorem State.references_congr (queue : t.queue.map (fun r => r.line.fonts) = s.queue.map (fun r => r.line.fonts))
    (composer : font ∈ t.composer.fontsInUse ↔ font ∈ s.composer.fontsInUse)
    (lent : t.fonts.outbound.Lends font ↔ s.fonts.outbound.Lends font) : t.references font = s.references font := by
  have counted (q : List QueueRecord) :
      q.countP (fun r => font ∈ r.line.fonts) = (q.map fun r => r.line.fonts).countP (fun fonts => font ∈ fonts) := by
    rw [List.countP_map]
    rfl
  unfold State.references
  rw [counted, queue, ← counted]
  congr 1
  · congr 1
    exact if_congr composer rfl rfl
  · exact if_congr lent rfl rfl

/-! ## Between a change and the next count -/

/-- The part of `State.PinsSound` that holds also before the references are counted afresh. -/
structure State.FontsHeld (s : State) : Prop where
  held : ∀ font, 0 < s.references font → s.fonts.atLeastMetrics font = true
  idle : s.composer.state = .idle → s.composer.fontsInUse = []

theorem State.PinsSound.fontsHeld (h : s.PinsSound) : s.FontsHeld := ⟨h.held, h.idle⟩

theorem State.PinsSound.pinned (h : s.PinsSound) : s.fonts.Pinned s.references := ⟨h.agree, h.held⟩

/-- No new reference, and no font that comes to be less than METRICS. -/
theorem State.FontsHeld.of_uses (h : s.FontsHeld) (uses : ∀ font, 0 < t.references font → 0 < s.references font)
    (ready : ∀ font, s.fonts.atLeastMetrics font = true → t.fonts.atLeastMetrics font = true)
    (idle : t.composer.state = .idle → t.composer.fontsInUse = []) : t.FontsHeld :=
  ⟨fun font used => ready font (h.held font (uses font used)), idle⟩

theorem FontStore.Kept.atLeastMetrics {a b : FontStore} (h : FontStore.Kept a b) (font : Nat) :
    b.atLeastMetrics font = a.atLeastMetrics font := by
  have reads (fs : FontStore) : fs.atLeastMetrics font =
      (((fs.directory.map DirEntry.content).find? fun e => e.state ≠ .free ∧ e.font = font).any fun e =>
        e.state == .metrics || e.state == .resident) := by
    rw [List.find?_map]
    unfold FontStore.atLeastMetrics FontStore.entry
    show _ = Option.any _ (Option.map _ (fs.directory.find? fun e => e.state ≠ .free ∧ e.font = font))
    cases fs.directory.find? fun e => e.state ≠ .free ∧ e.font = font <;> rfl
  rw [reads, reads, h.contents]

/-- A change of the composer that brings in no font, and does not make it IDLE. -/
theorem State.FontsHeld.mapComposer {f : Composer → Composer} (h : s.FontsHeld)
    (fonts : (f s.composer).fontsInUse ⊆ s.composer.fontsInUse)
    (idle : (f s.composer).state = .idle → s.composer.state = .idle) : (s.mapComposer f).FontsHeld := by
  refine h.of_uses (fun font used => ?_) (fun _ => id) fun rest => ?_
  · rw [State.references_pos] at used ⊢
    exact used.imp_right (Or.imp_left (@fonts font))
  · exact List.subset_nil.mp (h.idle (idle rest) ▸ fonts)

theorem State.references_recount (s : State) (font : Nat) : s.recount.references font = s.references font :=
  State.references_congr rfl Iff.rfl (by unfold State.recount; dsimp only; rw [FontStore.recount_outbound])

/-- The references counted afresh. -/
theorem State.FontsHeld.recount (h : s.FontsHeld) : s.recount.PinsSound where
  agree e mem held := by
    have counted : e ∈ s.fonts.directory.map (DirEntry.recounted s.references) :=
      FontStore.recount_directory (fs := s.fonts) s.references ▸ mem
    obtain ⟨before, -, rfl⟩ := List.mem_map.mp counted
    rw [DirEntry.recounted_state] at held
    rw [State.references_recount, DirEntry.recounted_font, DirEntry.recounted, if_neg held]
  held font used := by
    rw [State.references_recount] at used
    exact ((s.fonts.recount_kept s.references).atLeastMetrics font).trans (h.held font used)
  idle := h.idle

/-! ## What keeps the pin counts right -/

/-- The pin counts are right in the second state if they are in the first. -/
structure State.PinsKept (s t : State) : Prop where
  sound : s.PinsSound → t.PinsSound

theorem State.PinsKept.refl (s : State) : State.PinsKept s s := ⟨id⟩

theorem State.PinsKept.trans (h : State.PinsKept s t) (k : State.PinsKept t u) : State.PinsKept s u := ⟨k.sound ∘ h.sound⟩

/-- The same, with the later operation named first. -/
theorem State.PinsKept.after (k : State.PinsKept t u) (h : State.PinsKept s t) : State.PinsKept s u := h.trans k

theorem State.PinsKept.foldl {α : Type} {f : State → α → State} (step : ∀ s a, State.PinsKept s (f s a)) (xs : List α)
    (s : State) : State.PinsKept s (xs.foldl f s) := by
  induction xs generalizing s with
  | nil => exact .refl s
  | cons a xs ih => exact (step s a).trans (ih _)

theorem State.PinsKept.ite {c : Prop} [Decidable c] (h : c → State.PinsKept s t) :
    State.PinsKept s (if c then t else s) := by
  split
  · exact h (by assumption)
  · exact .refl s

/-- The same references, at a directory that agrees with them. -/
theorem State.PinsKept.of_parts (queue : t.queue.map (fun r => r.line.fonts) = s.queue.map (fun r => r.line.fonts))
    (inUse : t.composer.fontsInUse = s.composer.fontsInUse) (idle : t.composer.state = .idle → s.composer.state = .idle)
    (lent : ∀ font, t.fonts.outbound.Lends font ↔ s.fonts.outbound.Lends font)
    (pinned : ∀ refs, s.fonts.Pinned refs → t.fonts.Pinned refs) : State.PinsKept s t := by
  refine ⟨fun h => ?_⟩
  have same : t.references = s.references := funext fun font => State.references_congr queue (by rw [inUse]) (lent font)
  obtain ⟨agree, held⟩ := pinned _ h.pinned
  exact ⟨same ▸ agree, same ▸ held, fun rest => inUse.trans (h.idle (idle rest))⟩

/-- Nothing of the queue, the composer, the directory and the outbound channel is changed. -/
theorem State.PinsKept.same (queue : t.queue = s.queue) (composer : t.composer = s.composer)
    (directory : t.fonts.directory = s.fonts.directory) (outbound : t.fonts.outbound = s.fonts.outbound) :
    State.PinsKept s t :=
  .of_parts (by rw [queue]) (by rw [composer]) (by rw [composer]; exact id) (fun _ => by rw [outbound])
    (FontStore.PinsKept.of_same directory outbound).pinned

theorem State.PinsKept.withFonts {fs : FontStore} (h : FontStore.PinsKept s.fonts fs) :
    State.PinsKept s { s with fonts := fs } :=
  .of_parts rfl rfl id (fun font => by dsimp only; rw [h.outbound]) h.pinned

theorem State.PinsKept.mapComposer {f : Composer → Composer} (s : State)
    (inUse : (f s.composer).fontsInUse = s.composer.fontsInUse)
    (idle : (f s.composer).state = .idle → s.composer.state = .idle) : State.PinsKept s (s.mapComposer f) :=
  .of_parts rfl inUse idle (fun _ => Iff.rfl) fun _ => id

theorem State.PinsKept.mapGalleys (s : State) (f : GalleyUnit → GalleyUnit) : State.PinsKept s (s.mapGalleys f) :=
  .same rfl rfl rfl rfl

theorem State.PinsKept.withQueue {queue : List QueueRecord}
    (fonts : queue.map (fun r => r.line.fonts) = s.queue.map (fun r => r.line.fonts)) :
    State.PinsKept s { s with queue := queue } :=
  .of_parts fonts rfl id (fun _ => Iff.rfl) fun _ => id

/-! ## Galleys held and ended -/

theorem State.PinsKept.of_alone (h : s.GalleysAndLineAlone t) : State.PinsKept s t := by
  rw [h]
  exact .same rfl rfl rfl rfl

theorem State.PinsKept.send (s : State) (kind : FrameKind) (dest : BitVec 5) (body : List Byte) (owner : FrameOwner) :
    State.PinsKept s (s.send kind dest body owner) := .same rfl rfl rfl rfl

theorem State.PinsKept.report (s : State) (id : GalleyId) (event : ReportEvent) (reason : Nat) :
    State.PinsKept s (s.report id event reason) := .of_alone (s.report_alone id event reason)

theorem State.PinsKept.evaluateCredit (s : State) : State.PinsKept s s.evaluateCredit := .same rfl rfl rfl rfl

theorem State.PinsKept.removeGalley (s : State) (id : GalleyId) : State.PinsKept s (s.removeGalley id) :=
  .same rfl rfl rfl rfl

theorem State.PinsKept.finishGalley (s : State) (id : GalleyId) : State.PinsKept s (s.finishGalley id) :=
  (State.PinsKept.report s id .done 0).trans (.removeGalley _ id)

theorem State.PinsKept.enterDraining (s : State) (id : GalleyId) : State.PinsKept s (s.enterDraining id) := by
  unfold State.enterDraining
  dsimp only
  split
  · exact .same rfl rfl rfl rfl
  · exact (State.PinsKept.finishGalley _ id).after (.same rfl rfl rfl rfl)

theorem State.PinsKept.suspend (s : State) (id : GalleyId) (why : Suspension) : State.PinsKept s (s.suspend id why) :=
  .of_alone (s.suspend_alone id why)

theorem State.PinsKept.resume (s : State) (id : GalleyId) : State.PinsKept s (s.resume id) := by
  unfold State.resume
  split
  · exact .refl s
  split
  · have reported := State.PinsKept.report s id .resumed 0
    dsimp only
    split
    · exact reported.trans (.enterDraining _ id)
    split
    · exact (reported.trans (.mapGalleys _ _)).trans (.mapComposer _ rfl nofun)
    · exact reported.trans (.mapGalleys _ _)
  · exact .refl s

theorem State.PinsKept.resumeAll (s : State) (p : Suspension → Bool) : State.PinsKept s (s.resumeAll p) :=
  .foldl (fun s id => .resume s id) _ s

theorem State.PinsKept.consumeUnit (s : State) : State.PinsKept s s.consumeUnit := by
  unfold State.consumeUnit
  split
  · exact .refl s
  split
  · exact .refl s
  split
  · exact .mapGalleys ..
  · exact (State.PinsKept.mapGalleys ..).trans (.evaluateCredit _)

theorem State.PinsKept.askNext (s : State) : State.PinsKept s s.askNext := by
  unfold State.askNext
  split
  · exact .refl s
  split
  · refine State.PinsKept.trans ?_ (.evaluateCredit _)
    exact .of_parts rfl rfl nofun (fun _ => Iff.rfl) fun _ => id
  · exact .refl s

/-! ## The composer released, records appended and records gone (R43, R63, R84, R89) -/

/-- A composer that returns to IDLE uses no font (R43). -/
theorem State.FontsHeld.releaseComposer (h : s.FontsHeld) : s.releaseComposer.PinsSound := by
  refine State.FontsHeld.recount (h.of_uses (fun font used => ?_) (fun _ => id) fun _ => rfl)
  rw [State.references_pos] at used ⊢
  exact used.imp_right (Or.imp_left fun mem => absurd mem List.not_mem_nil)

theorem State.PinsKept.freeComposer (s : State) (id : GalleyId) : State.PinsKept s (s.freeComposer id) :=
  .ite fun _ => ⟨fun h => h.fontsHeld.releaseComposer⟩

theorem State.PinsKept.checkDone (s : State) (id : GalleyId) : State.PinsKept s (s.checkDone id) := by
  unfold State.checkDone
  split
  · exact .refl s
  split
  · exact .refl s
  split
  · exact (State.PinsKept.freeComposer s id).trans (.finishGalley _ id)
  · exact .refl s

/-- A record appended whose fonts are at least METRICS (R63). -/
theorem State.FontsHeld.appendRecord {r : SetLine} (h : s.FontsHeld)
    (own : ∀ font ∈ r.fonts, s.fonts.atLeastMetrics font = true) : (s.appendRecord r).FontsHeld := by
  have kept := s.fonts.stampUse_kept r.fonts
  refine ⟨fun font used => ?_, fun rest => ?_⟩
  · rw [State.references_pos, State.appendRecord_queue, State.appendRecord_composer, State.appendRecord_fonts,
      kept.outbound] at used
    rw [State.appendRecord_fonts, kept.atLeastMetrics]
    obtain ⟨r', mem, fonts⟩ | used := used
    · obtain mem | mem := List.mem_append.mp mem
      · exact h.held font (State.references_pos.mpr (.inl ⟨r', mem, fonts⟩))
      · obtain rfl := List.mem_singleton.mp mem
        exact own font fonts
    · exact h.held font (State.references_pos.mpr (.inr used))
  · rw [State.appendRecord_composer] at rest ⊢
    exact h.idle rest

theorem Composer.handed_fontsInUse (c : Composer) :
    ({ c with state := .running, waiting := none } : Composer).fontsInUse ⊆ c.fontsInUse :=
  Composer.fontsInUse_subset c.line_inUse c.word_inUse (fun _ mem => Composer.task_inUse (c := c) mem) fun _ record => by
    cases record

theorem State.FontsHeld.emptyHanded (h : s.FontsHeld) :
    (s.mapComposer fun c => { c with state := .running, waiting := none }).FontsHeld :=
  h.mapComposer s.composer.handed_fontsInUse fun rest => by cases rest

theorem State.PinsKept.takeWaiting (s : State) : State.PinsKept s s.takeWaiting := by
  unfold State.takeWaiting
  split
  · rename_i r waiting
    refine .ite fun _ => ⟨fun h => State.FontsHeld.recount ?_⟩
    have appended : (s.appendRecord r).FontsHeld := h.fontsHeld.appendRecord fun font mem =>
      h.held font (State.references_pos.mpr (.inr (.inl (Composer.waiting_inUse waiting mem))))
    exact appended.emptyHanded
  · exact .refl s

/-- Records leave, and the references are counted afresh (R89, R91). -/
theorem State.FontsHeld.leave (h : s.FontsHeld) {queue : List QueueRecord}
    (fewer : ∀ r ∈ queue, ∃ r' ∈ s.queue, r'.line.fonts = r.line.fonts) :
    (State.recount { s with queue := queue }).PinsSound := by
  refine State.FontsHeld.recount (h.of_uses (fun font used => ?_) (fun _ => id) h.idle)
  rw [State.references_pos] at used ⊢
  refine used.imp_left fun ⟨r, mem, own⟩ => ?_
  obtain ⟨r', mem', same⟩ := fewer r mem
  exact ⟨r', mem', same ▸ own⟩

theorem State.FontsHeld.departure (h : s.FontsHeld) (left : s.departure = some t) : t.PinsSound := by
  obtain ⟨q, sub, -, rfl | ⟨id, rfl⟩⟩ := State.departure_cases left
  all_goals
    have gone := h.leave fun r mem => ⟨r, sub.subset mem, rfl⟩
    have appended := (State.PinsKept.takeWaiting _).sound gone
  · exact appended
  · exact (State.PinsKept.checkDone _ id).sound appended

theorem State.markNotNeeded_lines (s : State) :
    s.markNotNeeded.queue.map (fun r => r.line.fonts) = s.queue.map fun r => r.line.fonts := by
  show (markProof (markExposure s.queue)).map _ = _
  rw [markProof_eq, walkMarks_map (by exact fun _ => rfl), markExposure_eq, walkMarks_map (by exact fun _ => rfl)]

theorem State.FontsHeld.markNotNeeded (h : s.FontsHeld) : s.markNotNeeded.FontsHeld :=
  h.of_uses (fun _ used => State.references_congr (t := s.markNotNeeded) s.markNotNeeded_lines Iff.rfl Iff.rfl ▸ used)
    (fun _ => id) h.idle

theorem State.PinsKept.markNotNeeded (s : State) : State.PinsKept s s.markNotNeeded := .withQueue s.markNotNeeded_lines

end Sys2Proof.Machine
end

section
/-! The pin counts against the references, through the composer's tasks, the settling and the end of a galley (R19, R41, R54,
R83 to R92, R97). -/

namespace Sys2Proof.Machine

variable {s t u : State} {font : Nat} {id : GalleyId} {g : Galley} {task : Task} {rest : List Task}

/-! ## The composer's tasks (R54) -/

theorem Composer.rested_fontsInUse {c : Composer} (todo : c.todo = task :: rest) :
    ({ c with todo := rest } : Composer).fontsInUse ⊆ c.fontsInUse :=
  Composer.fontsInUse_subset c.line_inUse c.word_inUse
    (fun _ mem => Composer.task_inUse (todo ▸ List.mem_cons_of_mem _ mem))
    fun _ record => Composer.waiting_inUse (c := c) record

theorem Composer.begun_fontsInUse {c : Composer} {b : Box} {substituted : Bool}
    (todo : c.todo = .begin b substituted :: rest) :
    ({ c with
        todo := rest
        word := { boxes := [b], soft := [], missing := false, substituted := substituted } } : Composer).fontsInUse ⊆
      c.fontsInUse := by
  have front : Task.fonts (.begin b substituted) ⊆ c.fontsInUse := Composer.task_inUse (todo ▸ List.mem_cons_self)
  refine Composer.fontsInUse_subset c.line_inUse (fun font mem => front ?_)
    (fun _ mem => Composer.task_inUse (todo ▸ List.mem_cons_of_mem _ mem))
    fun _ record => Composer.waiting_inUse (c := c) record
  obtain ⟨b', mem, own⟩ := mem_boxFonts.mp mem
  obtain rfl := List.mem_singleton.mp mem
  exact Option.mem_toList.mpr own

theorem Composer.waits_fontsInUse {c : Composer} {r : SetLine} (todo : c.todo = .offer r :: rest) :
    ({ c with todo := rest, state := .waitQueue, waiting := some r } : Composer).fontsInUse ⊆ c.fontsInUse := by
  have front : Task.fonts (.offer r) ⊆ c.fontsInUse := Composer.task_inUse (todo ▸ List.mem_cons_self)
  refine Composer.fontsInUse_subset c.line_inUse c.word_inUse
    (fun _ mem => Composer.task_inUse (todo ▸ List.mem_cons_of_mem _ mem)) fun r' record => ?_
  cases record
  exact front

theorem State.FontsHeld.askNext (h : s.FontsHeld) : s.askNext.FontsHeld := by
  unfold State.askNext
  split
  · exact h
  split
  · exact ⟨h.held, fun rest => by cases rest⟩
  · exact h

/-- A composer that has finished its galley uses no font (R41, R43). -/
theorem State.FontsHeld.finishComposition (h : s.FontsHeld) (id : GalleyId) : (s.finishComposition id).PinsSound := by
  have released := h.releaseComposer
  unfold State.finishComposition
  dsimp only
  split
  · exact released
  split
  · exact ((State.PinsKept.evaluateCredit _).after (.mapGalleys ..)).sound released
  · exact (State.PinsKept.enterDraining _ id).sound released

/-- A task brings in no font that the composer did not hold. -/
theorem State.FontsHeld.perform (h : s.FontsHeld) (todo : s.composer.todo = task :: rest) :
    (s.perform g task rest).FontsHeld := by
  have rested := h.mapComposer (f := fun c => { c with todo := rest }) (Composer.rested_fontsInUse todo) id
  unfold State.perform
  dsimp only
  cases task with
  | test =>
    exact rested.mapComposer (Composer.testWord_fontsInUse ..) fun idle => (Composer.testWord_state ..).symm.trans idle
  | offer r =>
    dsimp only
    split
    · refine rested.appendRecord fun font mem => h.held font (State.references_pos.mpr (.inr (.inl ?_)))
      exact Composer.task_inUse (t := .offer r) (todo ▸ List.mem_cons_self) mem
    · exact h.mapComposer (f := fun c => { c with todo := rest, state := .waitQueue, waiting := some r })
        (Composer.waits_fontsInUse todo) fun idle => by cases idle
  | space =>
    exact rested.mapComposer (Composer.takeSpace_fontsInUse ..) fun idle => (Composer.takeSpace_state ..).symm.trans idle
  | begin b substituted =>
    exact h.mapComposer (f := fun c =>
      { c with todo := rest, word := { boxes := [b], soft := [], missing := false, substituted := substituted } })
      (Composer.begun_fontsInUse todo) id
  | close para =>
    cases para
    · exact rested.mapComposer (Composer.closeUnit_fontsInUse ..) id
    · exact rested.mapComposer (Composer.closePara_fontsInUse ..) id
  | closeLast =>
    refine rested.mapComposer ?_ ?_ <;> split
    · exact List.Subset.refl _
    · exact Composer.closePara_fontsInUse ..
    · exact id
    · exact id
  | closeCut =>
    refine rested.mapComposer ?_ ?_ <;> split
    · exact Composer.closeUnit_fontsInUse ..
    · exact List.Subset.refl _
    · exact id
    · exact id
  | finish => exact (rested.finishComposition g.id).fontsHeld
  | ask => exact rested.askNext

/-! ## Settling (R54, R83 to R92) -/

/-- Each step of settling ends in a count of the references. -/
theorem State.FontsHeld.settleStep (h : s.FontsHeld) (done : s.settleStep = some t) : t.PinsSound := by
  have marked := h.markNotNeeded
  unfold State.settleStep at done
  dsimp only at done
  split at done
  · rename_i left
    cases done
    exact marked.departure left
  · obtain ⟨g, task, rest, -, todo, rfl⟩ := State.composerTask_cases done
    exact (marked.perform todo).recount

theorem State.PinsKept.settleFor (fuel : Nat) (s : State) : State.PinsKept s (State.settleFor fuel s) := by
  induction fuel generalizing s with
  | zero => exact .markNotNeeded s
  | succ fuel ih =>
    unfold State.settleFor
    split
    · rename_i s' done
      exact State.PinsKept.trans ⟨fun h => h.fontsHeld.settleStep done⟩ (ih s')
    · exact .markNotNeeded s

theorem State.PinsKept.settle (s : State) : State.PinsKept s s.settle := .settleFor _ s

/-- Where a step of settling follows, the references need not have been counted before. -/
theorem State.FontsHeld.settle (h : s.FontsHeld) (done : s.settleStep = some t) : s.settle.PinsSound := by
  obtain ⟨fuel, enough⟩ : ∃ fuel, s.settleFuel = fuel + 1 := ⟨_, (Nat.succ_pred (by unfold State.settleFuel; omega)).symm⟩
  unfold State.settle
  rw [enough]
  unfold State.settleFor
  rw [done]
  exact (State.PinsKept.settleFor fuel t).sound (h.settleStep done)

/-! ## The end of a galley (R19, R90) -/

theorem line_of_mem_removeRecords {queue : List QueueRecord} {r : QueueRecord} (mem : r ∈ removeRecords id queue) :
    ∃ r' ∈ queue, r'.line = r.line := by
  obtain ⟨r', there, rfl⟩ := List.mem_map.mp (List.mem_of_mem_filter mem)
  exact ⟨r', there, by split <;> rfl⟩

theorem State.PinsKept.dropRecords (s : State) (id : GalleyId) : State.PinsKept s (s.dropRecords id) := by
  have dropped : State.PinsKept s (State.recount { s with queue := removeRecords id s.queue }) :=
    ⟨fun h => h.fontsHeld.leave fun r mem => by
      obtain ⟨r', mem, same⟩ := line_of_mem_removeRecords mem
      exact ⟨r', mem, by rw [same]⟩⟩
  unfold State.dropRecords
  dsimp only
  split
  · exact dropped.trans (.takeWaiting _)
  · exact dropped

theorem State.PinsKept.abort (s : State) (id : GalleyId) (why : AbortReason) : State.PinsKept s (s.abort id why) := by
  unfold State.abort
  split
  · exact .refl s
  · exact (((State.PinsKept.freeComposer s id).trans (.dropRecords _ id)).trans (.send ..)).trans (.removeGalley _ id)

theorem State.PinsKept.abortUnlessCancelled (s : State) (id : GalleyId) (why : AbortReason) :
    State.PinsKept s (s.abortUnlessCancelled id why) := by
  unfold State.abortUnlessCancelled
  split
  · split
    · exact .refl s
    · exact .abort ..
  · exact .refl s

theorem State.PinsKept.applyCancel (s : State) (id : GalleyId) : State.PinsKept s (s.applyCancel id) := by
  unfold State.applyCancel
  split
  · exact .ite fun _ => .abort ..
  · exact .refl s

/-! ## Demands and the examination (R104, R127 to R130) -/

theorem State.PinsKept.of_examined (h : s.Examined t) (outbound : t.fonts.outbound = s.fonts.outbound) :
    State.PinsKept s t :=
  .same h.queue h.composer h.directory outbound

theorem State.PinsKept.raiseDemand (s : State) (party : Party) (font : Nat) : State.PinsKept s (s.raiseDemand party font) :=
  .of_examined (s.raiseDemand_examined party font) (s.raiseDemand_demandKept party font).outbound

theorem State.PinsKept.wantRemoved (s : State) : State.PinsKept s s.wantRemoved :=
  .of_examined s.wantRemoved_examined s.wantRemoved_demandKept.outbound

theorem State.PinsKept.suspendForFont (s : State) (font : Nat) : State.PinsKept s (s.suspendForFont font) :=
  .of_examined (s.suspendForFont_examined font) (s.suspendForFont_kept font).outbound

theorem State.PinsKept.filmCheck (s : State) : State.PinsKept s s.filmCheck :=
  .of_examined s.filmCheck_examined s.filmCheck_kept.outbound

theorem State.PinsKept.examine (s : State) (old : Option (GalleyId × Nat)) : State.PinsKept s (s.examine old) :=
  .of_examined (s.examine_examined old) (s.examine_followUp old).outbound

/-- What follows from an event keeps the pin counts right, where its own effect does. -/
theorem State.PinsKept.event {f : State → State} (h : State.PinsKept s (f s)) : State.PinsKept s (s.event f) :=
  (h.trans (.settle _)).trans (.examine _ _)

/-! ## The exposure sequence (R132 to R138) -/

theorem State.PinsKept.mapExposure (s : State) (f : Exposure → Exposure) : State.PinsKept s (s.mapExposure f) :=
  .same rfl rfl rfl rfl

theorem State.PinsKept.mapImaging (s : State) (f : Imaging → Imaging) : State.PinsKept s (s.mapImaging f) :=
  .same rfl rfl rfl rfl

theorem State.PinsKept.mapTransport (s : State) (f : Transport → Transport) : State.PinsKept s (s.mapTransport f) :=
  .same rfl rfl rfl rfl

/-- Marks on the queue's records, with the galleys and the controllers changed. -/
theorem State.PinsKept.markQueue {f : QueueRecord → QueueRecord} (queue : t.queue = s.queue.map f)
    (fonts : ∀ r, (f r).line.fonts = r.line.fonts) (composer : t.composer = s.composer) (store : t.fonts = s.fonts) :
    State.PinsKept s t := by
  refine .of_parts ?_ (by rw [composer]) (by rw [composer]; exact id) (fun _ => by rw [store])
    (by rw [store]; exact fun _ => id)
  rw [queue, List.map_map]
  exact List.map_congr_left fun r _ => fonts r

theorem State.PinsKept.leaveExposing (s : State) : State.PinsKept s s.leaveExposing :=
  .markQueue (f := fun r => { r with exposing := false }) rfl (fun _ => rfl) rfl rfl

theorem State.PinsKept.endExposure (s : State) : State.PinsKept s s.endExposure := by
  unfold State.endExposure
  split
  · exact .leaveExposing s
  · rename_i r _
    have finished (s : State) : State.PinsKept s
        (((s.mapFonts fun fs => fs.stampUse r.line.fonts).leaveExposing.settle).applyCancel r.line.galley) :=
      (((State.PinsKept.withFonts (.stampUse s.fonts r.line.fonts)).trans (.leaveExposing _)).trans (.settle _)).trans
        (.applyCancel _ _)
    dsimp only
    split
    · refine (finished _).after ?_
      exact .markQueue (f := fun r => if r.exposing then { r with exposed := true } else r) rfl
        (fun r => by split <;> rfl) rfl rfl
    · exact finished s

theorem State.PinsKept.stopExposure (s : State) (why : Suspension) : State.PinsKept s (s.stopExposure why) := by
  have left := State.PinsKept.leaveExposing s
  unfold State.stopExposure
  split
  · dsimp only
    split
    · exact ((left.trans (.suspend ..)).trans (.settle _)).trans (.applyCancel ..)
    · exact (left.trans (.settle _)).trans (.applyCancel ..)
  · exact left
  · exact .refl s

theorem State.PinsKept.enterCut (s : State) (r : SetLine) : State.PinsKept s (s.enterCut r) := by
  have cut := State.PinsKept.mapExposure s fun e => { e with stage := .cut, flash := none, field := none }
  unfold State.enterCut
  dsimp only
  split
  · exact cut.trans (.mapTransport ..)
  · exact cut.trans (.endExposure _)

theorem State.PinsKept.sendTurret (s : State) (band : Nat) : State.PinsKept s (s.sendTurret band) := .mapImaging ..

theorem State.PinsKept.continueRuns (s : State) (r : SetLine) (e : Exposure) : State.PinsKept s (s.continueRuns r e) := by
  unfold State.continueRuns
  split
  · exact .enterCut s r
  split
  · exact .enterCut s r
  · dsimp only
    split
    · split
      · exact .mapExposure ..
      · exact (State.PinsKept.mapExposure ..).trans (.mapExposure ..)
    · exact (State.PinsKept.mapExposure ..).trans (.sendTurret ..)

theorem State.PinsKept.continueBackground (s : State) (r : SetLine) : State.PinsKept s (s.continueBackground r) := by
  unfold State.continueBackground
  dsimp only
  split
  · exact (State.PinsKept.mapExposure ..).trans (.mapExposure ..)
  · exact (State.PinsKept.mapExposure ..).trans (.sendTurret ..)

theorem State.PinsKept.enterBackground (s : State) : State.PinsKept s s.enterBackground := by
  unfold State.enterBackground
  split
  · split
    · exact .continueBackground ..
    · exact .continueRuns ..
  · exact .refl s

theorem State.PinsKept.turretReady (s : State) : State.PinsKept s s.turretReady := by
  unfold State.turretReady
  split
  · split
    · exact .ite fun _ => .continueBackground ..
    · exact .ite fun _ => .continueRuns ..
    · exact .refl s
  · exact .refl s

theorem State.PinsKept.enterMove (s : State) (m : Movement) : State.PinsKept s (s.enterMove m) := by
  unfold State.enterMove
  cases m <;> dsimp only <;> split
  · exact .mapTransport ..
  · exact .enterBackground s
  · exact .mapTransport ..
  · exact .enterBackground s

theorem State.PinsKept.startExposure (s : State) (r : QueueRecord) : State.PinsKept s (s.startExposure r) := by
  unfold State.startExposure
  dsimp only
  refine (State.PinsKept.enterMove _ _).after (.markQueue rfl (fun q => ?_) rfl rfl)
  split <;> rfl

end Sys2Proof.Machine
end

section
/-! The pin counts against the references: the commands of the galley unit and of the composer (R97). -/

namespace Sys2Proof.Machine

variable {s t u : State} {font : Nat} {id : GalleyId} {g : Galley}

/-- A command's result is a next state in which the pin counts are right if they were. -/
def Result.PinsKept (s : State) : Result → Prop
  | .next t => State.PinsKept s t
  | _ => True

/-- A frame read to its end, heard or not. -/
theorem State.PinsKept.onFrame (kind : FrameKind) (h : Header) {block : State → State}
    (kept : ∀ s, State.PinsKept s (block s)) : State.PinsKept s (s.onFrame kind h block) := by
  have ended : State.PinsKept s s.frameEnded := .same rfl rfl rfl rfl
  unfold State.onFrame
  split
  · exact ended.trans (kept _)
  · exact ended

/-! ## Units that change the composer alone -/

theorem State.PinsKept.takeUnit (s : State) (i : Instr) {f : Composer → Composer}
    (inUse : ∀ c, (f c).fontsInUse = c.fontsInUse) (state : ∀ c, (f c).state = c.state) :
    State.PinsKept s (s.takeUnit i f) :=
  .ite fun _ => ((State.PinsKept.consumeUnit s).trans
    (.mapComposer _ (inUse _) fun idle => (state _).symm.trans idle)).trans (.askNext _)

theorem State.PinsKept.takeParam (s : State) (i : Instr) (f : Params → Params) : State.PinsKept s (s.takeParam i f) :=
  .takeUnit s i (fun _ => rfl) fun _ => rfl

/-- Parameters and the marks of a word use no font. -/
theorem Composer.fontsInUse_congr {c c' : Composer} (line : c'.line.items = c.line.items)
    (word : boxFonts c'.word.boxes = boxFonts c.word.boxes) (todo : c'.todo.flatMap Task.fonts = c.todo.flatMap Task.fonts)
    (waiting : c'.waiting = c.waiting) : c'.fontsInUse = c.fontsInUse := by
  unfold Composer.fontsInUse
  rw [line, todo, waiting, show c'.word.boxes.filterMap Box.font? = _ from word]
  rfl

theorem Composer.takeFixedSpace_fontsInUse (c : Composer) (kind : Nat) :
    (c.takeFixedSpace kind).fontsInUse = c.fontsInUse := by
  unfold Composer.takeFixedSpace
  split
  · rfl
  · refine Composer.fontsInUse_congr rfl ?_ rfl rfl
    show boxFonts (c.word.boxes ++ [_]) = _
    unfold boxFonts
    rw [List.filterMap_append]
    exact List.append_nil _

theorem Composer.takeFixedSpace_state (c : Composer) (kind : Nat) : (c.takeFixedSpace kind).state = c.state := by
  unfold Composer.takeFixedSpace
  split <;> rfl

theorem Composer.takeSoftHyphen_kept (c : Composer) :
    c.takeSoftHyphen.fontsInUse = c.fontsInUse ∧ c.takeSoftHyphen.state = c.state := by
  unfold Composer.takeSoftHyphen
  split
  · exact ⟨rfl, rfl⟩
  · dsimp only
    split <;> exact ⟨rfl, rfl⟩

/-! ## Units that end a word (R54) -/

/-- The composer is RUNNING with no task left, on a galley that is held. -/
structure State.AtWork (s : State) : Prop where
  running : s.composer.state = .running
  todo : s.composer.todo = []
  galley : ∃ id g, s.composer.galley = some id ∧ s.galleys.find id = some g

theorem State.AtWork.of_taking {i : Instr} (taking : s.taking i = true) : s.AtWork := by
  obtain ⟨g, -, held, works, -, running, todo⟩ := State.workingGalley_of_taking taking
  exact ⟨running, todo, g.id, g, works, held⟩

theorem State.AtWork.workingGalley (h : s.AtWork) : ∃ g, s.workingGalley = some g := by
  obtain ⟨id, g, works, held⟩ := h.galley
  exact ⟨g, by unfold State.workingGalley; rw [works]; exact held⟩

theorem State.AtWork.consumeUnit (h : s.AtWork) : s.consumeUnit.AtWork := by
  obtain ⟨id, g, works, held⟩ := h.galley
  obtain rfl := GalleyUnit.find_id held
  have working : s.workingGalley = some g := by unfold State.workingGalley; rw [works]; exact held
  obtain ⟨g', held', -⟩ := State.consumeUnit_heldAs working held
  refine ⟨?_, ?_, g.id, g', ?_, held'⟩ <;> rw [State.consumeUnit_composer]
  · exact h.running
  · exact h.todo
  · exact works

theorem State.AtWork.raiseDemand (h : s.AtWork) (party : Party) (font : Nat) : (s.raiseDemand party font).AtWork := by
  have examined := s.raiseDemand_examined party font
  obtain ⟨id, g, works, held⟩ := h.galley
  obtain ⟨g', held'⟩ : ∃ g', (s.raiseDemand party font).galleys.find id = some g' := by
    obtain same | ⟨g', why, -, -, -, suspended⟩ := examined.records id
    · exact ⟨g, same.trans held⟩
    · exact ⟨_, suspended⟩
  refine ⟨?_, ?_, id, g', ?_, held'⟩ <;> rw [examined.composer]
  · exact h.running
  · exact h.todo
  · exact works

/-- Tasks given to a composer that has none, of fonts it uses or of none. -/
theorem State.PinsKept.work {tasks : List Task} (todo : s.composer.todo = []) (fonts : tasks.flatMap Task.fonts = []) :
    State.PinsKept s (s.work tasks) :=
  State.PinsKept.event (.mapComposer s (Composer.fontsInUse_congr rfl rfl (by rw [todo]; exact fonts) rfl) id)

theorem State.PinsKept.takeTasks {i : Instr} {tasks : List Task} (s : State) (fonts : tasks.flatMap Task.fonts = []) :
    State.PinsKept s (s.takeTasks i tasks) :=
  .ite fun taking => (State.PinsKept.consumeUnit s).trans (.work (State.AtWork.of_taking taking).consumeUnit.todo fonts)

/-! ## A character set (R45 to R49) -/

/-- The composer uses one font more, which is at least METRICS. -/
theorem State.FontsHeld.useFont {f : Composer → Composer} (h : s.FontsHeld) (ready : s.fonts.atLeastMetrics font = true)
    (inUse : ∀ x ∈ (f s.composer).fontsInUse, x = font ∨ x ∈ s.composer.fontsInUse)
    (busy : (f s.composer).state ≠ .idle) : (s.mapComposer f).FontsHeld := by
  refine ⟨fun x used => ?_, fun idle => absurd idle busy⟩
  obtain queued | mem | lent := State.references_pos.mp used
  · exact h.held x (State.references_pos.mpr (.inl queued))
  · obtain rfl | mem := inUse x mem
    · exact ready
    · exact h.held x (State.references_pos.mpr (.inr (.inl mem)))
  · exact h.held x (State.references_pos.mpr (.inr (.inr lent)))

/-- A composer at work that is given a task: a step of settling follows. -/
theorem State.AtWork.settleStep (h : s.AtWork) (task : Task) (rest : List Task) :
    ∃ t, (s.mapComposer fun c => { c with todo := task :: rest }).settleStep = some t := by
  obtain ⟨g, works⟩ := h.workingGalley
  unfold State.settleStep
  dsimp only
  split
  · exact ⟨_, rfl⟩
  · refine ⟨State.recount (((s.mapComposer fun c => { c with todo := task :: rest }).markNotNeeded).perform g task rest), ?_⟩
    unfold State.composerTask
    rw [show (State.markNotNeeded (s.mapComposer fun c => { c with todo := task :: rest })).composer.state = .running from
        h.running,
      show State.workingGalley (State.markNotNeeded (s.mapComposer fun c => { c with todo := task :: rest })) = some g from
        works]
    rfl

theorem Composer.given_fontsInUse {c : Composer} {b : Box} {substituted : Bool} {x : Nat}
    (mem : x ∈ ({ c with todo := [.test, .begin b substituted, .ask] } : Composer).fontsInUse) :
    b.font? = some x ∨ x ∈ c.fontsInUse := by
  obtain mem | mem | ⟨t, task, mem⟩ | ⟨r, record, mem⟩ := Composer.mem_fontsInUse.mp mem
  · exact .inr (c.line_inUse mem)
  · exact .inr (c.word_inUse mem)
  · have tasks : t = .test ∨ t = .begin b substituted ∨ t = .ask := by simpa using task
    obtain rfl | rfl | rfl := tasks
    · exact absurd mem List.not_mem_nil
    · exact .inl (Option.mem_toList.mp mem)
    · exact absurd mem List.not_mem_nil
  · exact .inr (Composer.waiting_inUse (c := c) record mem)

theorem Composer.added_fontsInUse {c : Composer} {b : Box} {substituted : Bool} {x : Nat}
    (mem : x ∈ ({ c with word := c.word.add b substituted } : Composer).fontsInUse) :
    b.font? = some x ∨ x ∈ c.fontsInUse := by
  obtain mem | mem | ⟨t, task, mem⟩ | ⟨r, record, mem⟩ := Composer.mem_fontsInUse.mp mem
  · exact .inr (c.line_inUse mem)
  · obtain ⟨b', mem, own⟩ := mem_boxFonts.mp mem
    obtain mem | mem := List.mem_append.mp mem
    · exact .inr (c.word_inUse (mem_boxFonts.mpr ⟨b', mem, own⟩))
    · obtain rfl := List.mem_singleton.mp mem
      exact .inl own
  · exact .inr (Composer.task_inUse (c := c) task mem)
  · exact .inr (Composer.waiting_inUse (c := c) record mem)

/-- A character is set in a font that is at least METRICS: the line under construction may come to use it (R46, R97). -/
theorem State.PinsKept.setCharacter (atWork : s.AtWork) (ready : s.fonts.atLeastMetrics font = true) (code : Nat)
    (substituted : Bool) : State.PinsKept s (s.setCharacter code font substituted) := by
  have consumed := State.PinsKept.consumeUnit s
  have works := atWork.consumeUnit
  have ready' : s.consumeUnit.fonts.atLeastMetrics font = true := by rw [State.consumeUnit_fonts]; exact ready
  unfold State.setCharacter
  dsimp only
  split
  · exact (consumed.trans (.mapComposer _ rfl id)).trans (.askNext _)
  split
  · refine consumed.trans ⟨fun h => ?_⟩
    obtain ⟨t, done⟩ := works.settleStep .test _
    refine (State.PinsKept.examine _ _).sound (State.FontsHeld.settle ?_ done)
    refine h.fontsHeld.useFont ready' (fun x mem => ?_) ?_
    · exact (Composer.given_fontsInUse mem).imp_left fun own => (Option.some.inj own).symm
    · show s.consumeUnit.composer.state ≠ _
      rw [works.running]
      exact nofun
  · refine consumed.trans (State.PinsKept.trans ⟨fun h => State.FontsHeld.recount ?_⟩ (.askNext _))
    refine h.fontsHeld.useFont ready' (fun x mem => ?_) ?_
    · exact (Composer.added_fontsInUse mem).imp_left fun own => (Option.some.inj own).symm
    · show s.consumeUnit.composer.state ≠ _
      rw [works.running]
      exact nofun

theorem State.PinsKept.holdComposer (s : State) (id : GalleyId) (font : Nat) : State.PinsKept s (s.holdComposer id font) :=
  (State.PinsKept.suspend s id _).trans (.mapComposer _ rfl nofun)

theorem State.PinsKept.waitForFont (s : State) (font : Nat) : State.PinsKept s (s.waitForFont font) :=
  (State.PinsKept.raiseDemand s .composer font).trans (.mapComposer _ rfl nofun)

theorem State.PinsKept.applyPolicy (stays : s.applyPolicy g font = .stay t) : State.PinsKept s t := by
  unfold State.applyPolicy at stays
  split at stays
  · cases stays
    exact .holdComposer ..
  split at stays
  · cases stays
  split at stays
  · cases stays
    exact (State.PinsKept.raiseDemand ..).trans (.holdComposer ..)
  · cases stays
    exact .waitForFont ..

/-- The policy goes on only with a fallback that is at least METRICS (R47). -/
theorem State.applyPolicy_ready {fallback : Nat} (goes : s.applyPolicy g font = .goOn fallback) :
    s.fonts.atLeastMetrics fallback = true := by
  unfold State.applyPolicy at goes
  split at goes
  · cases goes
  split at goes
  · cases goes
    assumption
  split at goes <;> cases goes

theorem State.PinsKept.checkFont (atWork : s.AtWork) (g : Galley) (code : Nat) : State.PinsKept s (s.checkFont g code) := by
  unfold State.checkFont
  dsimp only
  split
  · exact .setCharacter atWork (by assumption) ..
  split
  · have raised := State.PinsKept.raiseDemand s .composer s.composer.params.font
    split
    · exact raised.trans (.setCharacter (atWork.raiseDemand ..) (State.applyPolicy_ready (by assumption)) ..)
    · exact raised.trans (.applyPolicy (by assumption))
  · exact .waitForFont ..

theorem State.PinsKept.takeCharacter (atWork : s.AtWork) (g : Galley) (code : Nat) :
    State.PinsKept s (s.takeCharacter g code) := by
  have consumed := State.PinsKept.consumeUnit s
  unfold State.takeCharacter
  split
  · exact (consumed.trans (.mapComposer (f := fun c =>
      { c with params := { c.params with learn := c.params.learn.map fun w => w.take code } }) _ rfl id)).trans (.askNext _)
  split
  · exact consumed.trans (.work atWork.consumeUnit.todo rfl)
  · exact .checkFont atWork ..

theorem execCharacterUnit_pinsKept (code : Nat) (s : State) : Result.PinsKept s (execCharacterUnit code s) := by
  unfold execCharacterUnit
  split
  · exact State.PinsKept.ite fun taking => .takeCharacter (.of_taking taking) ..
  · exact State.PinsKept.refl s

/-! ## Learn sequences and the end of the galley (R40, R41) -/

theorem execEndLearn_pinsKept (s : State) : Result.PinsKept s (execEndLearn s) := by
  have closed (s : State) : State.PinsKept s s.closeLearn := by
    unfold State.closeLearn
    dsimp only
    have emptied := State.PinsKept.mapComposer (f := fun c => { c with params := { c.params with learn := none } }) s rfl id
    split
    · exact emptied.trans (.same rfl rfl rfl rfl)
    · exact emptied
  exact State.PinsKept.ite fun _ => ((State.PinsKept.consumeUnit s).trans (closed _)).trans (.askNext _)

theorem execEndGalley_pinsKept (s : State) : Result.PinsKept s (execEndGalley s) := by
  unfold execEndGalley
  split
  · rename_i g _
    refine State.PinsKept.ite fun taking => ?_
    have ended := State.PinsKept.mapGalleys s fun gu => gu.update g.id fun g => { g with compositionEnded := true }
    refine (ended.trans (.consumeUnit _)).trans (.work ?_ rfl)
    rw [State.consumeUnit_composer]
    exact (State.AtWork.of_taking taking).todo
  · exact State.PinsKept.refl s

theorem execWordLearned_pinsKept (h : Header) (body : List Byte) (s : State) :
    Result.PinsKept s (execWordLearned h body s) := by
  refine State.PinsKept.onFrame _ _ fun s => ?_
  unfold State.hearWord
  split
  · exact .refl s
  split
  · exact .same rfl rfl rfl rfl
  · exact .refl s

/-! ## The galley unit -/

theorem State.PinsKept.dropWatch (s : State) (id : GalleyId) : State.PinsKept s (s.dropWatch id) := by
  unfold State.dropWatch
  split
  · exact .refl s
  · dsimp only
    split <;> exact .same rfl rfl rfl rfl

theorem State.PinsKept.hearPosting (s : State) (p : Posting) : State.PinsKept s (s.hearPosting p) := by
  unfold State.hearPosting
  split
  · exact .ite fun _ => .same rfl rfl rfl rfl
  · exact .refl s

theorem execClaimDelayExpiry_pinsKept (id : GalleyId) (s : State) : Result.PinsKept s (execClaimDelayExpiry id s) := by
  unfold execClaimDelayExpiry
  split
  · split
    · exact State.PinsKept.same rfl rfl rfl rfl
    · exact State.PinsKept.refl s
  · exact State.PinsKept.refl s

theorem State.PinsKept.hearOwnClaim (s : State) (w : WatchEntry) : State.PinsKept s (s.hearOwnClaim w) := by
  refine .ite fun _ => ?_
  have held := State.PinsKept.mapGalleys s fun gu =>
    { gu.removeWatch w.id with table := gu.table ++ [w.record gu.claimCount], claimCount := gu.claimCount + 1 }
  exact ((held.trans (.report ..)).trans (.evaluateCredit _)).trans (.withFonts (.foldl .prefetch _ _))

theorem execGalleyClaim_pinsKept (h : Header) (id : GalleyId) (s : State) : Result.PinsKept s (execGalleyClaim h id s) := by
  refine State.PinsKept.onFrame _ _ fun s => ?_
  split
  · exact .refl s
  split
  · exact .hearOwnClaim ..
  · unfold State.hearOtherClaim
    dsimp only
    split <;> exact .same rfl rfl rfl rfl

theorem execGalleyCancel_pinsKept (h : Header) (id : GalleyId) (s : State) :
    Result.PinsKept s (execGalleyCancel h id s) := by
  refine State.PinsKept.onFrame _ _ fun s => ?_
  split
  · split
    · exact .refl s
    split
    · have pending := State.PinsKept.mapGalleys s fun gu => gu.update id fun g => { g with cancelPending := true }
      unfold State.pendCancel
      dsimp only
      split
      · exact (pending.trans ⟨fun h => h.fontsHeld.releaseComposer⟩).trans (.evaluateCredit _)
      · exact pending
    · exact (State.PinsKept.abort ..).event
  · exact .dropWatch ..

theorem execTextSegment_pinsKept (h : Header) (id : GalleyId) (number : Nat) (units : List CodeWord) (s : State) :
    Result.PinsKept s (execTextSegment h id number units s) := by
  refine State.PinsKept.onFrame _ _ fun s => ?_
  unfold State.hearSegment
  split
  · exact .refl s
  split
  · exact .refl s
  split
  · unfold State.storeSegment
    dsimp only
    split
    · exact .of_parts rfl rfl (fun idle => by cases idle) (fun _ => Iff.rfl) fun _ pinned => pinned
    · exact .mapGalleys ..
  · exact (State.PinsKept.abort ..).event

theorem execTextTimeout_pinsKept (s : State) : Result.PinsKept s (execTextTimeout s) := by
  unfold execTextTimeout
  split
  · exact State.PinsKept.event (.abortUnlessCancelled ..)
  · exact State.PinsKept.refl s

theorem execProofWanted_pinsKept (h : Header) (id : GalleyId) (first last : Nat) (s : State) :
    Result.PinsKept s (execProofWanted h id first last s) := by
  refine State.PinsKept.onFrame _ _ fun s => ?_
  unfold State.hearProofWanted
  split
  · split
    · exact .mapGalleys ..
    · exact .report ..
  · exact .send ..

/-- An IDLE composer takes the head, and uses no font before nor after (R27, R43). -/
theorem execComposerTakesHead_pinsKept (s : State) : Result.PinsKept s (execComposerTakesHead s) := by
  unfold execComposerTakesHead
  split
  · rename_i idle
    split
    · split
      · rename_i g _
        have taken : State.PinsKept s
            { s with
              composer := Composer.start g
              galleys := s.galleys.update g.id fun g => { g with state := .composing } } :=
          ⟨fun h => State.PinsKept.sound (s := s)
            (.of_parts rfl (h.idle idle).symm (fun _ => idle) (fun _ => Iff.rfl) fun _ => id) h⟩
        exact ((taken.trans (.report ..)).trans (.evaluateCredit _)).trans (.askNext _)
      · exact State.PinsKept.refl s
    · exact State.PinsKept.refl s
  · exact State.PinsKept.refl s

end Sys2Proof.Machine
end

section
/-! The pin counts against the references: the font store's two channels, the film, the proofs and the station; and so every
step keeps them (R97). -/

namespace Sys2Proof.Machine

variable {s t u : State} {font : Nat} {id : GalleyId} {g : Galley}

/-! ## A font's coming or being given up (R100, R106) -/

theorem State.PinsKept.composerGivenUp (s : State) (font : Nat) : State.PinsKept s (s.composerGivenUp font) := by
  unfold State.composerGivenUp
  split
  · split
    · exact .refl s
    split
    · exact .holdComposer ..
    split
    · exact .mapComposer _ rfl nofun
    · exact .applyPolicy (by assumption)
  · exact .refl s

theorem State.PinsKept.giveUp (s : State) (font : Nat) : State.PinsKept s (s.giveUp font) :=
  ((State.PinsKept.withFonts (.updateWant s.fonts font Want.givenUp)).trans (.composerGivenUp _ font)).trans
    (.suspendForFont _ font)

theorem State.PinsKept.countFailure (s : State) (font : Nat) : State.PinsKept s (s.countFailure font) := by
  have failed : State.PinsKept s (s.mapFonts fun fs => fs.updateWant font Want.failed) := .same rfl rfl rfl rfl
  unfold State.countFailure
  dsimp only
  split
  · exact failed.trans (.giveUp ..)
  · exact failed

theorem State.PinsKept.endLineAttempt (s : State) (font : Nat) : State.PinsKept s (s.endLineAttempt font) :=
  (State.PinsKept.withFonts ((FontStore.PinsKept.endAttempt s.fonts font).trans (.withInbound _ _))).trans
    (.countFailure _ font)

theorem State.PinsKept.fontArrived (s : State) (font : Nat) : State.PinsKept s (s.fontArrived font) := by
  unfold State.fontArrived
  dsimp only
  split
  · exact (State.PinsKept.mapComposer (f := fun c => { c with state := .running, awaited := none }) s rfl nofun).trans
      (.resumeAll ..)
  · exact .resumeAll ..

theorem State.PinsKept.blockStored (s : State) (font : Nat) (data : List Byte) :
    State.PinsKept s (s.blockStored font data) := by
  have stored : State.PinsKept s (s.mapFonts fun fs => fs.storeBlock font data) := .withFonts (.storeBlock ..)
  unfold State.blockStored
  dsimp only
  split
  · exact stored
  split
  · exact ((State.PinsKept.wantRemoved _).after (.fontArrived ..)).after (stored.trans (.same rfl rfl rfl rfl))
  split
  · exact stored.trans (.fontArrived ..)
  · exact stored

/-! ## The two channels -/

theorem State.PinsKept.mapInbound (s : State) (f : Inbound → Inbound) : State.PinsKept s (s.mapInbound f) :=
  .same rfl rfl rfl rfl

/-- The outbound channel changed, but not the font it offers or lends. -/
theorem State.PinsKept.mapOutbound (s : State) {f : Outbound → Outbound}
    (lent : ∀ font, (f s.fonts.outbound).Lends font ↔ s.fonts.outbound.Lends font) : State.PinsKept s (s.mapOutbound f) :=
  .of_parts rfl rfl id lent fun _ h => ⟨h.agree, h.held⟩

/-- A channel that neither offers nor lends pins no font. -/
theorem Outbound.not_lends {o : Outbound} (mode : o.mode ≠ .offered ∧ o.mode ≠ .sending) (font : Nat) : ¬o.Lends font :=
  fun lends => lends.1.elim mode.1 mode.2

theorem State.PinsKept.resetOutbound (idle : s.fonts.outbound.mode = .idle ∨ s.fonts.outbound.mode = .offerPending)
    {o : Outbound} (mode : o.mode ≠ .offered ∧ o.mode ≠ .sending) : State.PinsKept s (s.mapOutbound fun _ => o) := by
  refine .mapOutbound s fun font => iff_of_false (Outbound.not_lends mode font) (Outbound.not_lends ?_ font)
  obtain idle | pending := idle
  · rw [idle]
    exact ⟨nofun, nofun⟩
  · rw [pending]
    exact ⟨nofun, nofun⟩

/-- The pin of a loan is released (R122, R123). -/
theorem State.PinsKept.releaseLoan (s : State) : State.PinsKept s s.releaseLoan := by
  refine ⟨fun h => State.FontsHeld.recount (h.fontsHeld.of_uses (fun font used => ?_) (fun _ => id) h.idle)⟩
  obtain queued | mem | lent := State.references_pos.mp used
  · exact State.references_pos.mpr (.inl queued)
  · exact State.references_pos.mpr (.inr (.inl mem))
  · exact absurd lent (Outbound.not_lends (o := Outbound.rest) ⟨nofun, nofun⟩ font)

theorem State.PinsKept.queueLoanFrame (s : State) : State.PinsKept s s.queueLoanFrame := by
  have due (s : State) (due : Bool) : State.PinsKept s (s.mapOutbound fun o => { o with due := due }) :=
    .mapOutbound s fun _ => Iff.rfl
  unfold State.queueLoanFrame
  split
  · exact due s false
  rename_i kind dest body _
  split
  · exact due s true
  have offered := State.PinsKept.send s kind dest body .outbound
  dsimp only
  split
  · exact offered.trans (due _ false)
  split
  · exact offered.trans (.releaseLoan _)
  · exact offered.trans (due _ true)

theorem State.PinsKept.offerDueFrame (s : State) : State.PinsKept s s.offerDueFrame := .ite fun _ => .queueLoanFrame s

theorem State.PinsKept.blockLeft (s : State) : State.PinsKept s s.blockLeft := by
  unfold State.blockLeft
  dsimp only
  split
  · split
    · split
      · exact (State.PinsKept.mapOutbound (f := fun o => { o with next := o.next + 1 }) s fun _ => Iff.rfl).trans
          (.queueLoanFrame _)
      · exact .releaseLoan s
    · exact .releaseLoan s
  · exact .refl s

theorem State.PinsKept.queueAsk (s : State) (font : Nat) : State.PinsKept s (s.queueAsk font) := by
  unfold State.queueAsk
  dsimp only
  split <;> exact .same rfl rfl rfl rfl

theorem State.PinsKept.askLine (s : State) (w : Want) : State.PinsKept s (s.askLine w) := by
  have served : State.PinsKept s (s.mapFonts fun fs =>
      { (fs.serve w.font).updateWant w.font fun w => { w with state := .asking, timer := none } with
        inbound := { Inbound.rest with askDue := true } }) := .same rfl rfl rfl rfl
  unfold State.askLine
  dsimp only
  split
  · exact served
  · exact served.trans (.queueAsk ..)

theorem State.PinsKept.defer (s : State) (font : Nat) : State.PinsKept s (s.defer font) := .same rfl rfl rfl rfl

theorem State.PinsKept.loadCartridge (s : State) (w : Want) (c : CatalogEntry) :
    State.PinsKept s (s.loadCartridge w c) := by
  have served : State.PinsKept s (s.mapFonts fun fs => fs.serve w.font) := .same rfl rfl rfl rfl
  unfold State.loadCartridge
  dsimp only
  split
  · exact served.trans (.defer ..)
  · exact served.trans
      (.withFonts (((FontStore.PinsKept.allocate (by assumption)).trans (.updateWant ..)).trans (.withInbound ..)))

theorem State.PinsKept.queueTake (s : State) : State.PinsKept s s.queueTake := by
  unfold State.queueTake
  dsimp only
  split
  · exact .same rfl rfl rfl rfl
  · exact (State.PinsKept.endLineAttempt _ _).after (.same rfl rfl rfl rfl)

theorem State.PinsKept.takeOffer (s : State) (w : Want) (lender total : Nat) :
    State.PinsKept s (s.takeOffer w lender total) := by
  unfold State.takeOffer
  split
  · exact .defer ..
  · rename_i made allocated
    have loading : State.PinsKept s
        { s with
          fonts :=
            { made.updateWant w.font fun w => { w with state := .loading, timer := none } with
              inbound :=
                { Inbound.rest with
                  mode := .lineLoad, font := w.font, lender := lender, next := w.firstBlock, total := total,
                  takeDue := true } } } :=
      .withFonts (((FontStore.PinsKept.allocate allocated).trans (.updateWant ..)).trans (.withInbound ..))
    dsimp only
    split
    · exact loading
    · exact loading.trans (.queueTake _)

theorem State.PinsKept.inboundLeft (s : State) (f : Flight) : State.PinsKept s (s.inboundLeft f) := by
  unfold State.inboundLeft
  split
  · exact .queueTake s
  split
  · unfold State.queueDueAsk
    split
    · exact .queueAsk ..
    · exact .mapInbound ..
  split
  · exact .refl s
  split
  · refine .withFonts ?_
    dsimp only
    split
    · split
      · exact .updateWant ..
      · exact .refl _
    · exact .refl _
  · exact .mapInbound ..

theorem State.PinsKept.ownerTold (s : State) (f : Flight) : State.PinsKept s (s.ownerTold f) := by
  unfold State.ownerTold
  split
  · split
    · exact .refl s
    · exact .mapGalleys ..
  · exact .evaluateCredit s
  · exact .inboundLeft ..
  · split
    · exact .refl s
    split
    · refine .mapOutbound s fun font => ?_
      split <;> exact Iff.rfl
    · exact .blockLeft s
  · exact .refl s
  · exact .refl s

/-! ## Frames that leave the line or lose it -/

theorem State.PinsKept.mapLine (s : State) (f : Line → Line) : State.PinsKept s (s.mapLine f) := .same rfl rfl rfl rfl

theorem execEndOfArbitration_pinsKept (read : BitVec 7) (s : State) : Result.PinsKept s (execEndOfArbitration read s) := by
  unfold execEndOfArbitration
  split
  · rename_i f _
    split
    · split
      · have lost := State.PinsKept.mapLine s fun l => l.lose f
        dsimp only
        split
        · exact lost.trans (.offerDueFrame _)
        · exact lost
      · exact State.PinsKept.mapLine ..
    · exact State.PinsKept.refl s
  · exact State.PinsKept.refl s

theorem execFrameLeftLine_pinsKept (s : State) : Result.PinsKept s (execFrameLeftLine s) := by
  unfold execFrameLeftLine
  split
  · rename_i f _
    split
    · have freed := State.PinsKept.mapLine s fun l => l.released s.station.arbitration f
      dsimp only
      split
      · exact freed
      · exact (freed.trans (.ownerTold ..)).trans (.offerDueFrame _)
    · exact State.PinsKept.refl s
  · exact State.PinsKept.refl s

theorem execContentionOpportunity_pinsKept (other : Bool) (s : State) :
    Result.PinsKept s (execContentionOpportunity other s) := by
  unfold execContentionOpportunity
  split
  · exact State.PinsKept.refl s
  · exact State.PinsKept.mapLine ..

/-! ## The want list and the cartridge -/

theorem execInboundTakesEntry_pinsKept (s : State) : Result.PinsKept s (execInboundTakesEntry s) := by
  unfold execInboundTakesEntry
  split
  · exact State.PinsKept.loadCartridge ..
  · exact State.PinsKept.askLine ..
  · exact State.PinsKept.refl s

theorem execRetryWait_pinsKept (font : Nat) (s : State) : Result.PinsKept s (execRetryWait font s) := by
  unfold execRetryWait
  split
  · exact State.PinsKept.ite fun _ => .same rfl rfl rfl rfl
  · exact State.PinsKept.refl s

theorem execDeferralLimit_pinsKept (font : Nat) (s : State) : Result.PinsKept s (execDeferralLimit font s) := by
  unfold execDeferralLimit
  split
  · exact State.PinsKept.ite fun _ => .giveUp ..
  · exact State.PinsKept.refl s

theorem execAskingWait_pinsKept (s : State) : Result.PinsKept s (execAskingWait s) := by
  unfold execAskingWait
  split
  · split
    · split
      · exact State.PinsKept.same rfl rfl rfl rfl
      · exact State.PinsKept.countFailure ..
    · exact State.PinsKept.refl s
  · exact State.PinsKept.refl s

theorem execCartridgeInsertion_pinsKept (s : State) : Result.PinsKept s (execCartridgeInsertion s) := by
  refine State.PinsKept.withFonts ?_
  dsimp only
  split
  · exact .of_same rfl rfl
  · exact .refl _

theorem execCatalogRead_pinsKept (fonts : List CatalogEntry) (s : State) : Result.PinsKept s (execCatalogRead fonts s) := by
  refine State.PinsKept.withFonts ?_
  dsimp only
  split
  · exact .of_same rfl rfl
  · exact .refl _

theorem execCartridgeRemoval_pinsKept (s : State) : Result.PinsKept s (execCartridgeRemoval s) := by
  refine State.PinsKept.withFonts ?_
  dsimp only
  split
  · exact .refl _
  · exact .of_same rfl rfl
  · exact (FontStore.PinsKept.abandonCartridge _).after (.of_same rfl rfl)

theorem execCartridgeBlockRead_pinsKept (data : List Byte) (s : State) :
    Result.PinsKept s (execCartridgeBlockRead data s) := by
  unfold execCartridgeBlockRead
  split
  · exact (State.PinsKept.mapInbound ..).trans (.blockStored ..)
  · exact State.PinsKept.refl s

/-! ## Offers, takes and blocks -/

theorem execFontWanted_pinsKept (h : Header) (font : Nat) (s : State) : Result.PinsKept s (execFontWanted h font s) := by
  refine State.PinsKept.onFrame _ _ fun s => .ite fun may => .resetOutbound (.inl ?_) ⟨nofun, nofun⟩
  unfold State.mayOffer at may
  simp only [Bool.and_eq_true, beq_iff_eq] at may
  exact may.1.2

/-- A font is offered while it is RESIDENT, and is pinned with the offer (R122). -/
theorem execOfferDelay_pinsKept (s : State) : Result.PinsKept s (execOfferDelay s) := by
  unfold execOfferDelay
  dsimp only
  split
  · rename_i pending
    have dropped := State.PinsKept.resetOutbound (s := s) (.inr pending) (o := Outbound.rest) ⟨nofun, nofun⟩
    split
    · rename_i e found
      split
      · rename_i resident
        refine State.PinsKept.trans ⟨fun h => State.FontsHeld.recount ?_⟩ (.queueLoanFrame _)
        refine ⟨fun font used => ?_, h.idle⟩
        obtain queued | mem | lent := State.references_pos.mp used
        · exact h.held font (State.references_pos.mpr (.inl queued))
        · exact h.held font (State.references_pos.mpr (.inr (.inl mem)))
        · have own : s.fonts.outbound.font = font := lent.2
          exact FontStore.atLeastMetrics_iff.mpr ⟨e, own ▸ found, .inr resident.1⟩
      · exact dropped
    · exact dropped
  · exact State.PinsKept.refl s

theorem execFontOffer_pinsKept (h : Header) (font asker total : Nat) (s : State) :
    Result.PinsKept s (execFontOffer h font asker total s) := by
  refine State.PinsKept.onFrame _ _ fun s => ?_
  have heard : State.PinsKept s (s.hearOfferToSelf h font asker total) := by
    refine .ite fun _ => ?_
    split
    · exact .takeOffer ..
    · exact .refl s
  exact heard.trans (.ite fun other => .resetOutbound (.inr other.1) ⟨nofun, nofun⟩)

theorem State.PinsKept.hearTake (s : State) (lender first : Nat) : State.PinsKept s (s.hearTake lender first) := by
  unfold State.hearTake
  dsimp only
  split
  · exact .resetOutbound (.inr (by assumption)) ⟨nofun, nofun⟩
  · rename_i offered
    split
    · refine State.PinsKept.trans (.mapOutbound s fun font => ?_) (.queueLoanFrame _)
      exact and_congr_left fun _ => iff_of_true (.inr rfl) (.inl offered)
    · exact .releaseLoan s
  · exact .refl s

theorem execFontTake_pinsKept (h : Header) (font lender first : Nat) (s : State) :
    Result.PinsKept s (execFontTake h font lender first s) :=
  State.PinsKept.onFrame _ _ fun _ => .ite fun _ => .hearTake ..

theorem State.PinsKept.hearBlock (s : State) (index : Nat) (data : List Byte) :
    State.PinsKept s (s.hearBlock index data) := by
  unfold State.hearBlock
  dsimp only
  split
  · exact .refl s
  split
  · exact (State.PinsKept.mapInbound ..).trans (.blockStored ..)
  · exact .endLineAttempt ..

theorem execFontBlock_pinsKept (h : Header) (font index : Nat) (data : List Byte) (s : State) :
    Result.PinsKept s (execFontBlock h font index data s) :=
  State.PinsKept.onFrame _ _ fun _ => .ite fun _ => .hearBlock ..

/-! ## The proof controller -/

theorem State.PinsKept.mapProofer (s : State) (f : Proofer → Proofer) : State.PinsKept s (s.mapProofer f) :=
  .same rfl rfl rfl rfl

theorem State.PinsKept.mapPrinter (s : State) (f : Printer → Printer) : State.PinsKept s (s.mapPrinter f) :=
  .same rfl rfl rfl rfl

theorem State.PinsKept.startRaster (s : State) (r : QueueRecord) : State.PinsKept s (s.startRaster r) := by
  refine .markQueue rfl (fun q => ?_) rfl rfl
  split <;> rfl

theorem State.PinsKept.endRaster (s : State) : State.PinsKept s s.endRaster := by
  have ended := State.PinsKept.mapProofer s fun p => { p with raster := none }
  unfold State.endRaster
  dsimp only
  split
  · exact ended
  · rename_i r _
    have stamped := ended.trans (.withFonts (.stampUse _ r.line.fonts))
    split
    · refine stamped.trans (.markQueue rfl (fun q => ?_) rfl rfl)
      split <;> rfl
    · exact stamped.trans (.markQueue rfl (fun _ => rfl) rfl rfl)

theorem State.PinsKept.writeRow (s : State) : State.PinsKept s s.writeRow := by
  unfold State.writeRow
  split
  · exact .refl s
  · dsimp only
    split
    · exact .mapProofer ..
    · exact (State.PinsKept.mapProofer ..).trans (.endRaster _)

theorem execRasterizeStart_pinsKept (s : State) : Result.PinsKept s (execRasterizeStart s) := by
  unfold execRasterizeStart
  split
  · exact State.PinsKept.ite fun _ => (State.PinsKept.startRaster ..).event
  · exact State.PinsKept.refl s

theorem execPaperOut_pinsKept (s : State) : Result.PinsKept s (execPaperOut s) := by
  unfold execPaperOut
  show State.PinsKept s _
  split
  · exact .refl s
  · exact State.PinsKept.event (.mapPrinter ..)

theorem execAbandonmentTimer_pinsKept (s : State) : Result.PinsKept s (execAbandonmentTimer s) := by
  refine State.PinsKept.ite fun _ => State.PinsKept.event ?_
  refine State.PinsKept.trans ?_ (.foldl (fun _ _ => .report ..) _ _)
  refine .markQueue rfl (fun q => ?_) rfl rfl
  split <;> rfl

/-! ## The imaging controller and the film -/

theorem execExposureStart_pinsKept (s : State) : Result.PinsKept s (execExposureStart s) := by
  unfold execExposureStart
  split
  · exact State.PinsKept.ite fun _ => (State.PinsKept.startExposure ..).event
  · exact State.PinsKept.refl s

theorem execTurretMoveEnd_pinsKept (s : State) : Result.PinsKept s (execTurretMoveEnd s) := by
  unfold execTurretMoveEnd
  split
  · exact State.PinsKept.refl s
  · exact ((State.PinsKept.mapImaging ..).trans (.turretReady _)).event

theorem execBackgroundPass_pinsKept (s : State) : Result.PinsKept s (execBackgroundPass s) := by
  unfold execBackgroundPass
  split
  · exact State.PinsKept.ite fun _ => ((State.PinsKept.mapExposure ..).trans (.enterCut ..)).event
  · exact State.PinsKept.refl s

theorem execFlashDone_pinsKept (s : State) : Result.PinsKept s (execFlashDone s) := by
  unfold execFlashDone
  split
  · exact State.PinsKept.ite fun _ => ((State.PinsKept.mapExposure ..).trans (.continueRuns ..)).event
  · exact State.PinsKept.refl s

theorem State.PinsKept.strokeDone (s : State) (m : Move) (n : Nat) : State.PinsKept s (s.strokeDone m n) := by
  unfold State.strokeDone
  dsimp only
  split
  · exact .same rfl rfl rfl rfl
  split
  · exact .same rfl rfl rfl rfl
  split
  · exact .same rfl rfl rfl rfl
  · exact (State.PinsKept.enterBackground _).after (.same rfl rfl rfl rfl)

theorem execStrokeCompleted_pinsKept (samples : List Bool) (s : State) :
    Result.PinsKept s (execStrokeCompleted samples s) := by
  unfold execStrokeCompleted
  split
  · split
    · exact State.PinsKept.ite fun _ => (State.PinsKept.strokeDone ..).event
    · exact State.PinsKept.refl s
  · exact State.PinsKept.refl s

theorem State.PinsKept.strokeTripped (s : State) (m : Move) (n : Nat) : State.PinsKept s (s.strokeTripped m n) := by
  unfold State.strokeTripped
  dsimp only
  split
  · exact .mapTransport ..
  split
  · exact .mapTransport ..
  · exact (State.PinsKept.mapTransport ..).trans (.stopExposure ..)

theorem execStrokeTrip_pinsKept (samples : List Bool) (s : State) : Result.PinsKept s (execStrokeTrip samples s) := by
  unfold execStrokeTrip
  split
  · split
    · exact State.PinsKept.ite fun _ => (State.PinsKept.strokeTripped ..).event
    · exact State.PinsKept.refl s
  · exact State.PinsKept.refl s

theorem execHoldOff_pinsKept (s : State) : Result.PinsKept s (execHoldOff s) := by
  unfold execHoldOff
  split
  · split
    · exact State.PinsKept.mapTransport ..
    · exact State.PinsKept.refl s
  · exact State.PinsKept.refl s

theorem execReverseDone_pinsKept (s : State) : Result.PinsKept s (execReverseDone s) := by
  unfold execReverseDone
  split
  · split
    · refine State.PinsKept.event ?_
      unfold State.reversed
      dsimp only
      split
      · exact .mapTransport ..
      · exact (State.PinsKept.mapTransport ..).trans (.enterBackground _)
    · exact State.PinsKept.refl s
  · exact State.PinsKept.refl s

theorem execKnifeDone_pinsKept (s : State) : Result.PinsKept s (execKnifeDone s) := by
  unfold execKnifeDone
  split
  · split
    · refine State.PinsKept.event ?_
      unfold State.knifed
      dsimp only
      split
      · exact .mapTransport ..
      · exact (State.PinsKept.mapTransport ..).trans (.endExposure _)
    · exact State.PinsKept.refl s
  · exact State.PinsKept.refl s

theorem State.PinsKept.cassetteMounted (s : State) : State.PinsKept s s.cassetteMounted :=
  .ite fun _ => (State.PinsKept.mapTransport ..).trans (.resumeAll ..)

theorem execSupplyInsertion_pinsKept (lengthCode stockCode : Nat) (s : State) :
    Result.PinsKept s (execSupplyInsertion lengthCode stockCode s) := by
  unfold execSupplyInsertion
  split
  · exact State.PinsKept.refl s
  split
  · exact ((State.PinsKept.mapTransport ..).trans (.cassetteMounted _)).event
  · exact State.PinsKept.refl s

theorem execTakeUpInsertion_pinsKept (s : State) : Result.PinsKept s (execTakeUpInsertion s) := by
  unfold execTakeUpInsertion
  split
  · exact State.PinsKept.refl s
  · exact ((State.PinsKept.mapTransport ..).trans (.cassetteMounted _)).event

theorem State.PinsKept.dismount (s : State) (clear : Transport → Transport) : State.PinsKept s (s.dismount clear) :=
  (State.PinsKept.mapTransport ..).trans (.stopExposure ..)

/-! ## The station -/

/-- With no record, an IDLE composer and a resting channel nothing references a font. -/
theorem State.PinsSound.of_unreferenced (queue : s.queue = []) (composer : s.composer = Composer.rest)
    (outbound : s.fonts.outbound = Outbound.rest) (pins : ∀ e ∈ s.fonts.directory, e.pins = 0) : s.PinsSound := by
  have none' (font : Nat) : s.references font = 0 := by
    refine Nat.eq_zero_of_not_pos fun used => ?_
    rw [State.references_pos, queue, composer, outbound] at used
    obtain ⟨r, mem, -⟩ | mem | lent := used
    · exact absurd mem List.not_mem_nil
    · exact absurd mem List.not_mem_nil
    · exact absurd lent (Outbound.not_lends (o := Outbound.rest) ⟨nofun, nofun⟩ font)
  refine ⟨fun e mem _ => (pins e mem).trans (none' _).symm, fun font used => ?_, fun _ => by rw [composer]; rfl⟩
  rw [none'] at used
  exact absurd used (Nat.lt_irrefl 0)

theorem execPowerOn_pinsKept (p : PowerInputs) (s : State) : Result.PinsKept s (execPowerOn p s) :=
  ⟨fun _ => .of_unreferenced rfl rfl rfl fun e mem => by
    rw [show e = DirEntry.unused from List.eq_of_mem_replicate mem]
    rfl⟩

theorem State.PinsKept.stationReset (s : State) : State.PinsKept s s.stationReset := by
  refine ⟨fun _ => .of_unreferenced rfl rfl rfl fun e mem => ?_⟩
  obtain ⟨before, -, rfl⟩ := List.mem_map.mp mem
  split <;> rfl

theorem execStationHalt_pinsKept (h : Header) (s : State) : Result.PinsKept s (execStationHalt h s) :=
  State.PinsKept.onFrame _ _ fun _ => .ite fun _ =>
    (State.PinsKept.foldl (fun _ _ => .suspend ..) _ _).after (.same rfl rfl rfl rfl)

theorem execStationRelease_pinsKept (h : Header) (s : State) : Result.PinsKept s (execStationRelease h s) := by
  refine State.PinsKept.onFrame _ _ fun s => .ite fun _ => ?_
  have running : State.PinsKept s { s with station := { s.station with mode := .running } } := .same rfl rfl rfl rfl
  exact ((running.trans (.resumeAll ..)).trans (.filmCheck _)).trans (.examine ..)

theorem State.PinsKept.tick (s : State) : State.PinsKept s s.tick :=
  .of_parts rfl rfl id (fun _ => Iff.rfl) fun _ h => ⟨h.agree, h.held⟩

/-! ## Every command and every step -/

/-- Every command keeps the pin counts right. -/
theorem exec_pinsKept (i : Instr) (s : State) : Result.PinsKept s (exec i s) := by
  cases i with
  | powerOn p => exact execPowerOn_pinsKept p s
  | quietPeriodEnd => exact State.PinsKept.mapLine s _
  | contentionOpportunity other => exact execContentionOpportunity_pinsKept other s
  | frameLeftLine => exact execFrameLeftLine_pinsKept s
  | stuffingViolation | frameDiscarded => exact State.PinsKept.ite fun _ => .same rfl rfl rfl rfl
  | galleyPosted h p => exact State.PinsKept.onFrame _ _ fun s => .hearPosting s p
  | claimDelayExpiry id => exact execClaimDelayExpiry_pinsKept id s
  | watchExpiryTimer id => exact State.PinsKept.dropWatch s id
  | galleyClaim h id => exact execGalleyClaim_pinsKept h id s
  | galleyCancel h id => exact execGalleyCancel_pinsKept h id s
  | textSegment h id number units => exact execTextSegment_pinsKept h id number units s
  | textCredit h | galleyReport h => exact State.PinsKept.onFrame _ _ .refl
  | proofWanted h id first last => exact execProofWanted_pinsKept h id first last s
  | textTimeout => exact execTextTimeout_pinsKept s
  | composerTakesHead => exact execComposerTakesHead_pinsKept s
  | characterUnit code => exact execCharacterUnit_pinsKept code s
  | ignoredUnit => exact State.PinsKept.takeUnit s _ (fun _ => rfl) fun _ => rfl
  | font | size | lead | quad | offset | hyphenate | ladder | letterspace | track | reverse | advance | back | cut | learn
  | density => exact State.PinsKept.takeParam s _ _
  | measure | indent => exact State.PinsKept.takeUnit s _ (fun _ => rfl) fun _ => rfl
  | fixedSpace p =>
    exact State.PinsKept.takeUnit s _ (fun c => c.takeFixedSpace_fontsInUse p) fun c => c.takeFixedSpace_state p
  | softHyphen => exact State.PinsKept.takeUnit s _ (fun c => c.takeSoftHyphen_kept.1) fun c => c.takeSoftHyphen_kept.2
  | endLine | endPara => exact State.PinsKept.takeTasks s rfl
  | endLearn => exact execEndLearn_pinsKept s
  | endGalley => exact execEndGalley_pinsKept s
  | wordLearned h body => exact execWordLearned_pinsKept h body s
  | inboundTakesEntry => exact execInboundTakesEntry_pinsKept s
  | cartridgeBlockRead data => exact execCartridgeBlockRead_pinsKept data s
  | retryWait font => exact execRetryWait_pinsKept font s
  | deferralLimit font => exact execDeferralLimit_pinsKept font s
  | cartridgeInsertion => exact execCartridgeInsertion_pinsKept s
  | catalogRead fonts => exact execCatalogRead_pinsKept fonts s
  | cartridgeRemoval => exact execCartridgeRemoval_pinsKept s
  | askingWait => exact execAskingWait_pinsKept s
  | fontWanted h font => exact execFontWanted_pinsKept h font s
  | offerDelay => exact execOfferDelay_pinsKept s
  | fontOffer h font asker total => exact execFontOffer_pinsKept h font asker total s
  | fontTake h font lender first => exact execFontTake_pinsKept h font lender first s
  | takeWait => exact State.PinsKept.ite fun _ => .releaseLoan s
  | fontBlock h font index data => exact execFontBlock_pinsKept h font index data s
  | stallTimer => exact State.PinsKept.ite fun _ => .endLineAttempt ..
  | stationHalt h => exact execStationHalt_pinsKept h s
  | stationRelease h => exact execStationRelease_pinsKept h s
  | stationReset h => exact State.PinsKept.onFrame _ _ .stationReset
  | warmUpTimer | standbyTimer => exact State.PinsKept.ite fun _ => State.PinsKept.event (.mapImaging ..)
  | exposureStart => exact execExposureStart_pinsKept s
  | turretMoveEnd => exact execTurretMoveEnd_pinsKept s
  | backgroundPass => exact execBackgroundPass_pinsKept s
  | flashDone => exact execFlashDone_pinsKept s
  | strokeCompleted samples => exact execStrokeCompleted_pinsKept samples s
  | strokeTrip samples => exact execStrokeTrip_pinsKept samples s
  | holdOff => exact execHoldOff_pinsKept s
  | reverseDone => exact execReverseDone_pinsKept s
  | knifeDone => exact execKnifeDone_pinsKept s
  | supplyInsertion lengthCode stockCode => exact execSupplyInsertion_pinsKept lengthCode stockCode s
  | takeUpInsertion => exact execTakeUpInsertion_pinsKept s
  | supplyRemoval | takeUpRemoval => exact State.PinsKept.ite fun _ => State.PinsKept.event (.dismount ..)
  | rasterizeStart => exact execRasterizeStart_pinsKept s
  | rowWritten => exact State.PinsKept.ite fun _ => State.PinsKept.event (.writeRow s)
  | printStart | rowPrinted => exact State.PinsKept.ite fun _ => State.PinsKept.event (.mapProofer ..)
  | idleTimer | settlingTimer | wakingTimer | paperIn =>
    exact State.PinsKept.ite fun _ => State.PinsKept.event (.mapPrinter ..)
  | paperOut => exact execPaperOut_pinsKept s
  | abandonmentTimer => exact execAbandonmentTimer_pinsKept s
  | endOfArbitration read => exact execEndOfArbitration_pinsKept read s

/-- Every step keeps the pin counts right: a command's, a due event's, or a millisecond's. -/
theorem step_pinsKept (s : State) : Result.PinsKept s (step s) := by
  unfold step
  split
  · rename_i i rest _
    have taken : State.PinsKept s { s with pending := rest } := .same rfl rfl rfl rfl
    have ran := exec_pinsKept i { s with pending := rest }
    revert ran
    cases exec i { s with pending := rest } with
    | next t => exact taken.trans
    | fault | refused => exact id
  · split
    · exact exec_pinsKept _ s
    · exact State.PinsKept.tick s

theorem claims_stepKeepsPins : Claims.StepKeepsPins := by
  intro s t sound stepped
  have kept := step_pinsKept s
  rw [stepped] at kept
  exact kept.sound sound

/-- Settles O41, by an invariant of every step: an operation either leaves the references and the pins as they are, or it
brings in no font that is less than METRICS and ends in a count of the references. -/
theorem pinsAndEviction : Obligations.PinsAndEviction :=
  ⟨claims_pinsCountReferences, claims_stepKeepsPins, claims_allocationSparesPinnedFonts⟩

end Sys2Proof.Machine
end
